-- ==== Sys2Proof/Word.lean ====
section
/-!
DEFINITION. The word types of the SHR-8A288: bytes, 16-bit halfwords, 32-bit words, 64-bit
doublewords (00/R2, 03/R58), and the hierarchical mask of up to 1,024 lanes (02/R28).
-/

namespace Sys2Proof

/-- A byte of memory. -/
abbrev Byte := BitVec 8

/-- A 16-bit halfword. -/
abbrev Half := BitVec 16

/-- A 32-bit word: an `s` register, an S instruction, one lane of a vector register. -/
abbrev Word := BitVec 32

/-- A 64-bit doubleword: a register pair, a virtual address. -/
abbrev DWord := BitVec 64

/-- A mask over the 1,024 lane positions; bit `n` stands for lane `n` (02/R27). The summary word
of R28 is a view of it (`Machine.Mask.summary`), so it is always the one the device maintains. -/
abbrev Mask := BitVec 1024

end Sys2Proof
end

