-- ==== Sys2Proof/Config.lean ====
section
/-!
DEFINITION. What an implementation fixes and the spec gives no value for: constants without a body,
so that nothing can be proved from a value of theirs. Each is named in a row of the assumption log.
-/

namespace Sys2Proof.Config

/-- Nanoseconds by which TIME advances over the model's n-th step (01/R23 fixes the rate against the
clock, not against steps; log entry 2): less than 2^32 of them. -/
opaque elapsed : Nat → BitVec 32

/-- Array-time and streaming cycles that an engine job's pass takes (12/R328, 17/R445; log entry 3). -/
opaque passCycles : Nat → BitVec 32

/-- Base-die fabric cycles that Cratal spends on a partition for a module command, at the n-th step (17/R445; log
entry 3). -/
opaque firmwareCycles : Nat → BitVec 32

/-- The device identity key, a modulus and a private exponent, which only the signing unit holds (18/R460; log entry 4). -/
opaque identityModulus : Nat
opaque identityExponent : Nat

/-- The salts that the signing unit draws, 8 bytes at a time (18/R459, R460; log entry 4). -/
opaque salt : Nat → BitVec 64

/-- The device serial, 16 bytes (18/R460; log entry 4). -/
opaque serial : List Byte

/-- Boot ROM version and Cratal version (18/R463; log entry 4). -/
opaque version : Nat → BitVec 32

/-- Temperature j in tenths of a degree, at the n-th step (18/R463; log entry 4). -/
opaque temperature : Nat → Nat → BitVec 16

/-- A value that the spec leaves open, fresh for each number (log entry 5). -/
opaque freeValue : Nat → BitVec 64

end Sys2Proof.Config
end

