-- ==== Sys2Proof/Fields.lean ====
section
/-!
DEFINITION. The types of instruction fields and of trap causes: what an operand slot of an
instruction names once it is decoded (05/R123 to R127), and the cause codes of 03/R64.
-/

namespace Sys2Proof

/-- The trap causes of R64. -/
inductive Cause where
  | illegal | reservedField | privileged | align | access | page | scratchRange | barrierStore
  | barrierState | tokenError | shape | record | crew | membership | reconvergenceOverflow | chain
  | window | capacity | precision | elasticFormat | migrationRefused | notCarried | softIndex
  | steep | arith | queue | grow | user | deviceError
  deriving DecidableEq, Repr, Inhabited

/-- The lane type codes of R127. -/
inductive LType where
  | i32 | n32 | i16 | n16 | i8 | n8 | i64 | n64 | f32 | f16 | bf16 | e4m3 | e5m2 | e2m1 | ef | blk
  deriving DecidableEq, Repr, Inhabited

/-- The lane-visible registers of R126. A reserved number names none of them. -/
inductive Reg where
  | v (n : BitVec 7)
  | e (n : BitVec 4)
  | m (n : BitVec 3)
  | p (n : BitVec 4)
  | prc
  | lid
  | tid
  | zero
  deriving DecidableEq, Repr, Inhabited

/-- A source slot of an L instruction: a register or a bypass latch (R124). -/
inductive Src where
  | reg (r : Reg)
  | lat (k : BitVec 2)
  deriving DecidableEq, Repr, Inhabited

/-- A destination of an L instruction (R125): a register, a register and a latch, or a latch only. -/
inductive Dst where
  | r (r : Reg)
  | rl (r : Reg) (k : BitVec 2)
  | l (k : BitVec 2)
  deriving DecidableEq, Repr, Inhabited

/-- The operand fields of an L instruction (R123). A slot that the instruction does not use holds
`v0`, whose number is zero. -/
structure LF where
  ty : LType := .i32
  sub : BitVec 4 := 0
  ms : BitVec 3 := 0
  d : Dst := .r (.v 0)
  a : Src := .reg (.v 0)
  b : Src := .reg (.v 0)
  c : Src := .reg (.v 0)
  md : BitVec 4 := 0
  imm : BitVec 24 := 0
  deriving DecidableEq, Repr, Inhabited

/-- The same fields with sub-operation zero: where the mnemonic itself says the sub-operation. -/
def LF.noSub (f : LF) : LF := ⟨f.ty, 0, f.ms, f.d, f.a, f.b, f.c, f.md, f.imm⟩

/-- The same fields with a sub-operation put in. -/
def LF.withSub (f : LF) (s : BitVec 4) : LF := ⟨f.ty, s, f.ms, f.d, f.a, f.b, f.c, f.md, f.imm⟩

/-- Why the decoder refuses a word (R115): an operation field or a register class (ILLEGAL), or a
reserved value or bit (RESERVED_FIELD). -/
inductive DecodeFault where
  | illegal
  | reservedField
  deriving DecidableEq, Repr, Inhabited

/-- What the links make of a doorbell's block (18/R451): it cannot be read, or it is read and, where the doorbell answers it at
once, its STATUS is written or rejected. -/
inductive DoorLink where
  | unreadable
  | written
  | rejected
  deriving DecidableEq, Repr, Inhabited

/-- What a bring-up finds (18/R464): the module's node number, and the GFL ports whose training succeeds, each with the node
number of its partner. -/
structure Site where
  node : BitVec 6
  links : List (Nat × BitVec 6)
  deriving DecidableEq, Repr, Inhabited

end Sys2Proof
end

