-- ==== Sys2Proof/Syntax.lean ====
section
/-!
DEFINITION. The instructions: one constructor per row of spec/opcode_table.json, in the table's
order. Rows 0 to 101 are the S words (05/R117 to R122), rows 102 to 189 the L instructions
(05/R123 to R130), and rows 190 to 267 the steps of the machine's other agents
(95_what_each_step_holds.md), which have no encoding: their arguments name the part that acts, the
choices the manual leaves to it, and what arrives from outside.
-/

namespace Sys2Proof

/-- One step of the part: an S instruction, an L instruction, or a step of another agent. -/
inductive Instr where
  -- major 0x01 (R153)
  | add (d a b : BitVec 6)
  | sub (d a b : BitVec 6)
  | mul (d a b : BitVec 6)
  | mulh (d a b : BitVec 6)
  | mulhu (d a b : BitVec 6)
  | div (d a b : BitVec 6)
  | divu (d a b : BitVec 6)
  | rem (d a b : BitVec 6)
  | remu (d a b : BitVec 6)
  | and (d a b : BitVec 6)
  | or (d a b : BitVec 6)
  | xor (d a b : BitVec 6)
  | andn (d a b : BitVec 6)
  | shl (d a b : BitVec 6)
  | shr (d a b : BitVec 6)
  | sra (d a b : BitVec 6)
  | rot (d a b : BitVec 6)
  | min (d a b : BitVec 6)
  | minu (d a b : BitVec 6)
  | max (d a b : BitVec 6)
  | maxu (d a b : BitVec 6)
  | clz (d a : BitVec 6)
  | popc (d a : BitVec 6)
  | seq (d a b : BitVec 6)
  | sne (d a b : BitVec 6)
  | slt (d a b : BitVec 6)
  | sltu (d a b : BitVec 6)
  | sle (d a b : BitVec 6)
  | sleu (d a b : BitVec 6)
  -- immediates (R155) and pairs (R156)
  | addi (d a : BitVec 6) (imm : BitVec 14)
  | andi (d a : BitVec 6) (imm : BitVec 14)
  | ori (d a : BitVec 6) (imm : BitVec 14)
  | xori (d a : BitVec 6) (imm : BitVec 14)
  | shli (d a : BitVec 6) (n : BitVec 5)
  | shri (d a : BitVec 6) (n : BitVec 5)
  | srai (d a : BitVec 6) (n : BitVec 5)
  | roti (d a : BitVec 6) (n : BitVec 5)
  | slti (d a : BitVec 6) (imm : BitVec 14)
  | lui (d : BitVec 6) (imm : BitVec 20)
  | dadd (d a b : BitVec 6)
  | dsub (d a b : BitVec 6)
  | dshl (d a b : BitVec 6)
  | dshr (d a b : BitVec 6)
  | dsra (d a b : BitVec 6)
  | daddi (d a : BitVec 6) (imm : BitVec 14)
  -- specials (R157, R158)
  | rdx (d : BitVec 6) (n : BitVec 8)
  | wrx (a : BitVec 6) (n : BitVec 8)
  -- memory (R159 to R165)
  | ld (d : BitVec 6) (q : BitVec 5) (sz : BitVec 2) (imm : BitVec 13)
  | st (d : BitVec 6) (q : BitVec 5) (sz : BitVec 2) (imm : BitVec 13)
  | atom (d a b : BitVec 6) (order scope : BitVec 2) (op : BitVec 4)
  | lds (d : BitVec 6) (q : BitVec 5) (sz : BitVec 2) (imm : BitVec 13)
  | sts (d : BitVec 6) (q : BitVec 5) (sz : BitVec 2) (imm : BitVec 13)
  | atoms (d a b : BitVec 6) (order scope : BitVec 2) (op : BitVec 4)
  | fence (order : BitVec 2) (scope : BitVec 3)
  | rfence
  -- control transfer (R166)
  | bCond (a : BitVec 6) (cond : BitVec 4) (off : BitVec 16)
  | jmp (off : BitVec 26)
  | call (off : BitVec 26)
  | jr (a : BitVec 6)
  | ret (a : BitVec 6)
  -- lane work, register count, circles (R167 to R171)
  | lrun (index : BitVec 26)
  | lwait
  | lget (d : BitVec 6) (slot : BitVec 3)
  | grow (k : BitVec 4)
  | shrink (k : BitVec 4)
  | cjoin (kind : BitVec 1) (n : BitVec 6)
  | cleave (kind : BitVec 1) (n : BitVec 6)
  | csync (kind : BitVec 1) (n : BitVec 6)
  | cinfo (d : BitVec 6) (kind : BitVec 1) (n : BitVec 6)
  -- launches, ending, resumption (R172 to R176)
  | pour (a : BitVec 6)
  | withdraw (a : BitVec 6)
  | endTeam
  | yield
  | tresume
  | tresumeAt (a : BitVec 6)
  -- tokens and barriers (R177 to R189)
  | kpour (a : BitVec 6) (tok ch : BitVec 3)
  | twait (mask : BitVec 8)
  | tprobe (d : BitVec 6) (mask : BitVec 8)
  | binit (a b c : BitVec 6)
  | barrive (a b : BitVec 6)
  | bexpect (a b : BitVec 6)
  | bwait (a b c : BitVec 6)
  | binval (a : BitVec 6)
  -- the matrix engine's commands (R320 to R336)
  | mcrew (a : BitVec 6)
  | bput (a b : BitVec 6) (tok : BitVec 3)
  | mma (a b c : BitVec 6) (tok : BitVec 3) (crew sparse orient : BitVec 1)
  | accld (a c : BitVec 6) (tok : BitVec 3)
  | accst (a c : BitVec 6) (tok : BitVec 3)
  | mxreq (a b : BitVec 6) (tok : BitVec 3)
  | mstat (d : BitVec 6)
  -- steeps (R356 to R359)
  | steepClose (k : BitVec 6)
  | steepWait (a : BitVec 6) (k : BitVec 6)
  | steepGrad (d a : BitVec 6) (k : BitVec 6)
  -- privileged instructions and svc (R385 to R393)
  | sysr (d : BitVec 6) (r : BitVec 12)
  | sysw (a : BitVec 6) (r : BitVec 12)
  | eret
  | tinval (a : BitVec 6)
  | tsync
  | ctxsave (a : BitVec 6)
  | ctxload (a : BitVec 6)
  | fqpop (d : BitVec 6)
  | svc (imm : BitVec 20)
  -- L instructions: integer, floating and elastic arithmetic (R195 to R202, R235 to R260)
  | vadd (f : LF)
  | vsub (f : LF)
  | vmul (f : LF)
  | vmulh (f : LF)
  | vmad (f : LF)
  | vdiv (f : LF)
  | vrem (f : LF)
  | vneg (f : LF)
  | vabs (f : LF)
  | vand (f : LF)
  | vor (f : LF)
  | vxor (f : LF)
  | vandn (f : LF)
  | vshl (f : LF)
  | vshr (f : LF)
  | vsra (f : LF)
  | vrot (f : LF)
  | vmin (f : LF)
  | vmax (f : LF)
  | vclz (f : LF)
  | vpopc (f : LF)
  | vcmp (f : LF)
  | vsel (f : LF)
  | vmov (f : LF)
  | vmovImm (ty : LType) (ms : BitVec 3) (d : Dst) (imm : BitVec 64)
  | vlea (f : LF)
  | vbfx (f : LF)
  | vbfi (f : LF)
  | vsqrt (f : LF)
  | vrcp (f : LF)
  | vrsq (f : LF)
  | vexp2 (f : LF)
  | vlog2 (f : LF)
  | vcls (f : LF)
  | vfinq (f : LF)
  | vcvt (f : LF)
  | vcvtSr (f : LF)
  | vmxq (f : LF)
  | vmxd (f : LF)
  | vprune (f : LF)
  | vrng (f : LF)
  | ewin (f : LF)
  | eprec (f : LF)
  | eround (f : LF)
  | esig (f : LF)
  | eld (f : LF)
  | eldn (f : LF)
  | est (f : LF)
  -- L instructions: memory (R203 to R211) and soft memory (R342 to R349)
  | vld (f : LF)
  | vst (f : LF)
  | vatom (f : LF)
  | vlds (f : LF)
  | vsts (f : LF)
  | vatoms (f : LF)
  | vmcast (f : LF)
  | vprf (f : LF)
  | vfence (f : LF)
  | vstage (ew : Bool) (imm : BitVec 64)
  | softLd (f : LF)
  | softSt (f : LF)
  | softHarden (f : LF)
  | softLdg (f : LF)
  -- L instructions: cross-lane, masks, lane control (R212 to R231)
  | vballot (f : LF)
  | vrank (f : LF)
  | vswz (f : LF)
  | vbcast (f : LF)
  | vred (f : LF)
  | vscan (f : LF)
  | mand (f : LF)
  | mor (f : LF)
  | mxor (f : LF)
  | mnot (f : LF)
  | mmov (f : LF)
  | vsync (f : LF)
  | vput (f : LF)
  | lif (f : LF)
  | lelse (f : LF)
  | lfi (f : LF)
  | ldo (f : LF)
  | lwhile (f : LF)
  | lod (f : LF)
  | lret (f : LF)
  | lhome (f : LF)
  | lfmt (f : LF)
  | ltrap (f : LF)
  | lnop (f : LF)
  | vaway (f : LF)
  | vrdx (f : LF)
  -- steps of the ordering machine (R32, R263 to R281)
  | blockStart (team : Nat)
  | deliver (n : Nat)
  | perform (n : Nat)
  | continuationDeliver (n : Nat)
  | visitorStart (die core : Nat)
  | returnMerge (n : Nat)
  | operandLogReplay (team slot : Nat)
  | jobRelease (cluster job : Nat)
  -- the kettle (R283 to R305): cluster, channel, record of the chain, first unit, number of units
  | chainStart (cluster ch : Nat)
  | kettleFetch (cluster ch : Nat)
  | linear (cluster ch r lo n : Nat)
  | tile (cluster ch r lo n : Nat)
  | gather (cluster ch r lo n : Nat)
  | arrive (cluster ch r : Nat)
  | fill (cluster ch r lo n : Nat)
  | recordRetire (cluster ch r : Nat)
  -- the matrix engine's jobs (R312 to R335): cluster, job, passes
  | holderGrant (cluster : Nat)
  | mmaJob (cluster job n : Nat)
  | bputJob (cluster job n : Nat)
  | accldJob (cluster job n : Nat)
  | accstJob (cluster job n : Nat)
  | mxreqJob (cluster job n : Nat)
  | jobEnd (cluster job : Nat)
  -- blend unit, fault queue, sweeps, pre-emption, distribution
  | steepApply (caddy : Nat)
  | faultQueuePost (part n : Nat)
  | sweepComplete (part n : Nat)
  | contextImageWrite (gang : Nat)
  | quarantineRelease (cluster n : Nat)
  | dieReport (die : Nat)
  | dealRound (part : Nat)
  | launchAccept (part : Nat)
  | completionRecord (part : Nat)
  | budgetPeriod
  -- module commands that Cratal executes (R452); ok: the link takes the RESULT and STATUS writes
  | pcreate (ok : Bool)
  | pdestroy (ok : Bool)
  | grant (ok : Bool)
  | revoke (ok : Bool)
  | kill (ok : Bool)
  | save (ok : Bool)
  | statesync (ok : Bool)
  | quote (ok : Bool)
  | peerwin (ok : Bool)
  -- host writes to partition registers (R440, R457)
  | evbase (part : Nat) (val : BitVec 64)
  | evset (part : Nat) (val : BitVec 32)
  | evclr (part : Nat) (val : BitVec 32)
  | wdtag (part : Nat) (val : BitVec 32)
  | fqdone (part : Nat) (val : BitVec 32)
  | rtail (part q : Nat) (val : BitVec 32)
  | fqctl (part : Nat) (val : BitVec 32)
  | elctl (part : Nat) (val : BitVec 32)
  | cctl (part : Nat) (val : BitVec 32)
  | rctl (part q : Nat) (val : BitVec 32)
  | bstat (part : Nat) (val : BitVec 32)
  | mstatus
  | registerWrite (window : Option Nat) (off : Nat) (val : BitVec 64)
  -- power, watchdog, heat (R461, R464, R465)
  | powerOn
  | perst
  | powerLoss
  | watchdogExpiry (rom : BitVec 512) (image signature key : List (BitVec 8))
  | thermalTrip (die : Nat)
  -- the Glosia Fabric Link (R427 to R432)
  | data (port : Nat) (flit : BitVec 2048)
  | idle (port : Nat) (flit : BitVec 2048)
  | write (port : Nat)
  | reduce (port : Nat)
  | done (port : Nat)
  | refuse (port : Nat)
  | replayTimeout (port : Nat)
  | linkFail (port : Nat)
  | portTraining (port : Nat) (ok : Bool) (node : BitVec 6)
  | trainingRetry (port : Nat)
  | responseTimeout (port : Nat) (tag : BitVec 16)
  | cmddoor (link : DoorLink)
  | inputWithinRange (rom : BitVec 512) (image signature key : List (BitVec 8)) (site : Site)
  | ceil (part k : Nat) (val : BitVec 32)
  | watchdogWrite
  | measExtension (j : Nat) (digest : BitVec 512)
  | scrubbing (n : Nat)
  | fatalError (part : Option Nat) (unit : Nat)
  deriving DecidableEq, Repr, Inhabited

end Sys2Proof
end

