-- ==== Sys2Proof/Machine/State.lean ====
section
/-!
DEFINITION. The state of the part, as plain data: the module registers, the partitions with their
distributor, queues and budgets, the launches, gangs and teams with their two streams, visitors and
continuations, the ordering machine's queues, kettles, matrix engines, caddies, translation caches,
GFL ports and memory. Nat fields are indexes, counts and addresses; a register the spec numbers by
bits is a bit vector.
-/

namespace Sys2Proof.Machine

/-- A byte memory: address and byte, addresses strictly rising, no zero byte listed; an unlisted
address reads as zero. -/
abbrev Memory := List Host.Cell

/-! ### Registers of lanes -/

/-- A vector register with its shape tag (03/R65): U, A (base, stride) or G (one value per lane). -/
inductive VReg where
  | u (x : Word)
  | a (base stride : Word)
  | g (xs : List Word)
  deriving DecidableEq, Repr, Inhabited

/-- The lane registers that a team and a visitor both have: `v0` to `v(N-1)`, `prc`, `m0` to `m7`. -/
structure Regs where
  v : List VReg
  prc : VReg
  m : Vector Mask 8
  deriving DecidableEq, Repr

/-- The kind of a reconvergence entry (02/R37). -/
inductive RKind where
  | ifK
  | elseK
  | loopK
  deriving DecidableEq, Repr, Inhabited

/-- An entry of the reconvergence stack (02/R37). -/
structure REntry where
  mask : Mask
  fmt : Word
  rpc : BitVec 26
  kind : RKind
  deriving DecidableEq, Repr

/-- An entry of the lane queue (02/R32, 07/R158, R167, R169): the block's index, its copy of `s16` to
`s31`, and the RKEY, MIGCTL and N in force at its `lrun`. -/
structure LQ where
  index : BitVec 26
  params : Vector Word 16
  rkey : DWord
  migctl : Word
  n : Nat
  /-- its own number: S accesses entered before it count as earlier accesses of the block (10/R274) -/
  sMark : Nat
  /-- registers from this number on were added after the `lrun` before it: they read as 0 when it starts (02/R50) -/
  low : Nat
  deriving DecidableEq, Repr

/-- How the consumer of a fault-queue entry resolves it (15/R394). -/
inductive Resol where
  | retry
  | fail
  | kill
  deriving DecidableEq, Repr, Inhabited

/-- A source held by a resolvable translation fault (15/R395): what it reports, the sequence number
of its entry once it is posted, and the resolution once there is one. -/
structure Hold where
  cause : Cause
  addr : DWord
  write : Bool
  exec : Bool
  seq : Option (BitVec 32)
  res : Option Resol
  deriving DecidableEq, Repr

/-- A logged access of an operand-log slot: what a lane still has to enter (03/R79). -/
structure LaneOp where
  lane : Nat
  /-- source operands A, B and C as read at issue, zero-extended -/
  a : DWord
  b : DWord
  c : DWord
  /-- an elastic value, or the entries and values of a soft instruction -/
  data : List Word
  deriving DecidableEq, Repr

/-- Bytes of a lane's pending load as its parts return: offset within the access, bytes. -/
structure LanePart where
  lane : Nat
  off : Nat
  bytes : List Byte
  deriving DecidableEq, Repr

/-- An operand-log slot (03/R79, 15/R410). -/
structure Slot where
  i : Instr
  /-- the number of its block -/
  block : Nat
  lpc : BitVec 26
  /-- the head of the chain that the instruction belongs to -/
  chainHead : BitVec 26
  /-- the effective mask, and the lanes that have finished -/
  eff : Mask
  done : Mask
  /-- lanes whose accesses are entered and have not all returned -/
  flying : Mask
  /-- lanes that faulted on a resolvable translation fault -/
  faulted : Mask
  ops : List LaneOp
  parts : List LanePart
  /-- lanes that took an unresolvable fault: cause and address of each (03/R54) -/
  traps : List (Nat × Cause × DWord)
  /-- the store sequence number of a soft instruction (13/R345) -/
  sseq : Word
  hold : Option Hold
  /-- its latch write still belongs to the open chain (R72) -/
  latch : Bool
  fmt : Word
  rkey : DWord
  migctl : Word
  deriving DecidableEq, Repr

/-- The block that the L-stream executes (02/R32 to R39, 03/R72 to R76). -/
structure Blk where
  lq : LQ
  lpc : BitVec 26
  fmt : Word
  /-- the path mask A of R38, away lanes included -/
  path : Mask
  stack : List REntry
  staged : BitVec 64
  ew : Bool
  latch : Vector (List Word) 4
  chainCount : Nat
  chainHead : BitVec 26
  /-- the block restarts at ChainHead before its next instruction when that reads a latch (R75) -/
  restart : Bool
  /-- lanes that re-execute the instructions up to and including an index, innermost first (R75, R366);
  `redoM7` when the innermost takes its lanes from `m7` at `tresume` -/
  redo : List (Mask × BitVec 26)
  redoM7 : Bool
  /-- the store sequence number that a re-executed soft instruction reuses (13/R345) -/
  redoSseq : Option Word
  /-- the L fetch is held by a resolvable fault -/
  fetchHold : Option Hold
  /-- lanes of a held visitor instruction that have completed it (14/R370) -/
  part : Mask
  /-- its highest registers while a handler's block uses new ones of their numbers (02/R50) -/
  stash : List VReg
  /-- lanes of a held visitor instruction that have not completed it, with its index (14/R377, R380) -/
  rest : Option (Mask × BitVec 26)
  deriving DecidableEq, Repr

/-! ### Teams -/

/-- A token (07/R177). -/
structure Token where
  out : Nat
  err : Bool
  cause : Option Cause
  tspc : DWord
  taddr : DWord
  tseq : Word
  deriving DecidableEq, Repr

/-- The states of a resident team (02/R53); BLOCKED is told by the flags of its streams. -/
inductive TPhase where
  | running
  | trapped
  | ended
  deriving DecidableEq, Repr, Inhabited

/-- A wait of the S-stream that has state of its own (02/R52). -/
inductive Wait where
  | none
  /-- `csync`: the arrival is performed; kind, number and the phase recorded -/
  | csync (launch : Bool) (n : Nat) (phase : Word)
  /-- `bwait`: blocked on the word at an offset, for an epoch -/
  | bwait (off : Nat) (epoch : BitVec 12)
  /-- `bwait`: released with a status -/
  | bdone (status : Word)
  /-- `grow`: in its core's request order -/
  | grow
  /-- a crew `mma` held in a rendezvous latch -/
  | crew
  /-- a crew `mma` accepted as a job, or refused with CREW -/
  | crewDone (ok : Bool)
  /-- `svc` with its number: waiting for the ring, or for its entry's resolution -/
  | svc (n : BitVec 20) (seq : Option (BitVec 32))
  | svcDone (r : Resol) (result : DWord)
  /-- `ctxsave`: waiting for the image of a gang -/
  | ctx (gang : Nat)
  | ctxDone
  deriving DecidableEq, Repr

/-- An order that gates the later accesses of an issue point (10/R272, R273): the entries it waits
for, its scope, and whether it gates loads and stores (atomics are gated with stores). -/
structure Ord where
  waits : List Nat
  scope : Nat
  loads : Bool
  stores : Bool
  deriving DecidableEq, Repr

/-- Where an entry is performed: at the home die, whose memory and whose steep buffers it names, the banks that hold a
gang's scratchpad, the gang of a launch that a `vmcast` names, host memory, the GFL peers behind a port (node and address
of each), and a host-window address that no grant covers any more, where nothing is held. -/
inductive Dest where
  | home (die : Nat)
  | bank (gang : Nat)
  | mcast (launch gangNum : Nat)
  | host
  | peer (port : Nat) (nodes : List (Nat × Nat))
  | gone
  deriving DecidableEq, Repr

/-- A load that an S-issue point has performed ahead of instructions that do not order it (10/R268): its place
and the bytes that it returned. -/
structure Early where
  dest : Dest
  addr : Nat
  bytes : List Byte
  deriving DecidableEq, Repr

/-- The record of a returned continuation at home (14/R372, R377). -/
structure Returned where
  /-- the number of the block that sent it -/
  block : Nat
  kind : Nat
  lpc : BitVec 26
  tidx : BitVec 26
  lanes : Mask
  redo : Mask
  cause : Option Cause
  taddr : DWord
  die : Nat
  hops : Nat
  /-- the carried mask bits disagree with the home's (08/R222) -/
  disagree : List Nat
  /-- the staged set that it carried, and its elastic window's staging (14/R378) -/
  staged : BitVec 64
  ew : Bool
  deriving DecidableEq, Repr

/-- An L trap that waits to be delivered (03/R57). -/
structure LTrap where
  cause : Cause
  taddr : DWord
  tlpc : BitVec 26
  lanes : Mask
  slot : Option (BitVec 3)
  /-- the block restarts at this index for these lanes (R54, R75); none when a slot holds it -/
  redoFrom : Option (BitVec 26)
  sseq : Option Word
  /-- the returned continuation whose trap it is (14/R377) -/
  visitor : Option Returned
  deriving DecidableEq, Repr

/-- A translation held in a cache (16/R418): page base and size (virtual), frame, attributes, and the
members of a replica set. -/
structure Tlb where
  part : Nat
  vbase : Nat
  size : Nat
  frame : Nat
  r : Bool
  w : Bool
  x : Bool
  visit : Bool
  refuse : Nat
  /-- members of a REPLICA page: local, port, node, frame (16/R422) -/
  members : List (Bool × Nat × Nat × Nat)
  replica : Bool
  deriving DecidableEq, Repr

/-- A team of a launch, with its two streams. -/
structure Team where
  launch : Nat
  gang : Nat
  tid : Nat
  rank : Nat
  /-- physical core, 0 to 287; the die and the cluster follow from it -/
  core : Nat
  resident : Bool
  phase : TPhase
  /-- the S-stream, and the L-stream, wait as R52 lists -/
  blocked : Bool
  lblocked : Bool
  w : Nat
  n : Nat
  /-- register rows it holds in its core's pool (02/R50) -/
  rows : Nat
  -- S-stream
  spc : DWord
  s : Vector Word 64
  resume : DWord
  nfc : Word
  fpstat : BitVec 5
  mstat : BitVec 3
  tcause : Word
  tlpc : BitVec 26
  tspc : DWord
  taddr : DWord
  tlog : BitVec 4
  tseq : Word
  /-- FMT that the next block starts with (02/R34); a running block has its own -/
  fmt : Word
  rkey : DWord
  mcr : Word
  handler : DWord
  migctl : Word
  tok : Vector Token 8
  cmdCtr : Word
  softSeq : Word
  wait : Wait
  /-- the wait abandoned by the delivered trap (R54) -/
  savedWait : Wait
  /-- the S-stream is held by a resolvable translation fault (15/R395) -/
  shold : Option Hold
  /-- `s` registers that a load in flight will write: entry, register, a pair -/
  pend : List (Nat × Nat × Bool)
  sOrd : List Ord
  lOrd : List Ord
  /-- L entries below this number count as earlier S accesses (10/R274) -/
  lMark : Nat
  /-- engine commands use record-cache entries filled after this number (07/R165) -/
  recMark : Nat
  /-- the supervisor's entry: its address and sequence number (15/R388) -/
  fqHeld : Option (DWord × BitVec 32)
  /-- under which enabling of the queue the entry that it holds was posted (15/R394) -/
  fqGen : Nat
  -- L-stream
  regs : Regs
  /-- the elastic window's capacity codes (03/R77), zero when none is allocated -/
  wcodes : BitVec 64
  slots : Vector DWord 8
  laneQ : List LQ
  blk : Option Blk
  /-- entries set aside by a trap, and the held block (03/R55) -/
  asideQ : List LQ
  held : Option Blk
  /-- FMT that they start with when no block is held (02/R34) -/
  fmtAside : Word
  /-- the trap was raised while the team was TRAPPED already (03/R57) -/
  nested : Bool
  pendL : Option LTrap
  away : Mask
  returned : List Returned
  /-- the visitor's trap that the team has been delivered, until its handler resumes (14/R378) -/
  vtrap : Option Returned
  oplog : Vector (Option Slot) 4
  lastPage : List (Nat × Tlb)
  /-- loads performed ahead of the instructions before them (10/R268) -/
  early : List Early
  /-- the lowest N since the last `lrun` -/
  low : Nat
  /-- registers that a `shrink` returns once the blocks enqueued before it have ended: its number, and how
  many -/
  shrinks : List (Nat × Nat)
  deriving DecidableEq, Repr

/-! ### Gangs and launches -/

/-- A circle (02/R44): members, arrived, phase. Teams are named by rank in a gang circle and by TID in
a launch circle. -/
structure Circle where
  members : List Nat
  arrived : List Nat
  phase : Word
  deriving DecidableEq, Repr

/-- Where a gang's context image stands (15/R405, R407). -/
structure ImageLoc where
  addr : DWord
  software : Bool
  reason : Nat
  /-- the team that waits for it in `ctxsave`, the save slot it takes, and the bytes that its place has -/
  waiter : Option Nat
  slot : Option Nat
  room : Nat
  /-- the request block that is to receive STATUS and NEED (15/R391) -/
  request : DWord
  deriving DecidableEq, Repr

inductive GPhase where
  | waiting
  | resident
  /-- halted, its image not yet complete -/
  | halting
  | saved
  | retired
  | removed
  deriving DecidableEq, Repr, Inhabited

/-- The fields of a launch descriptor (02/R47). -/
structure Desc where
  sentry : DWord
  lbase : DWord
  caddy : DWord
  handler : DWord
  args : DWord
  teams : Nat
  tag : Word
  prio : Nat
  span : Nat
  gsize : Nat
  nmax : Nat
  n0 : Nat
  w : Nat
  sup : Bool
  caddies : Nat
  lcirc : Nat
  spad : Nat
  deps : List (Option (BitVec 24))
  done : Option (BitVec 24)
  /-- the 128 bytes as accepted -/
  raw : List Byte
  deriving DecidableEq, Repr

inductive LPhase where
  | waiting
  | ready
  /-- every gang placed and none to resume -/
  | dealt
  | complete
  deriving DecidableEq, Repr, Inhabited

structure Launch where
  part : Nat
  desc : Desc
  lseq : Word
  /-- host ring 0 to 63, or 255 for `pour` -/
  queue : Nat
  phase : LPhase
  circles : List Circle
  nextGang : Nat
  /-- gangs to resume, ascending gang number -/
  resumed : List Nat
  faulted : Bool
  /-- a poured launch holds its device-queue entry -/
  entry : Bool
  /-- index of its caddy set -/
  caddySet : Option Nat
  deriving DecidableEq, Repr

/-! ### Soft memory -/

/-- A store record (13/R347). -/
structure SRec where
  lseq : Word
  tid : Word
  sseq : Word
  lane : Nat
  ents : List (Word × Word)
  x : List Word
  deriving DecidableEq, Repr

/-- The apply of a closed steep (13/R352, R354): its number, its records, in canonical order once it has
begun, the count of those that arrived, its marks, the pre-images written so far in order, and the number
of the next element. -/
structure Apply where
  steep : Word
  recs : List SRec
  begun : Bool
  count : Nat
  overflow : Bool
  fault : Option Cause
  oldest : Word
  pre : List Word
  pos : Nat
  /-- it has ended, but for its segment header, which is still to be written (13/R354) -/
  headerDue : Bool
  deriving DecidableEq, Repr

/-- A caddy with its steep state (13/R337, R339, R341). -/
structure Caddy where
  base : DWord
  tape : DWord
  slots : Nat
  circle : Nat
  tv : Bool
  twin : Nat
  accum : Bool
  d : Nat
  tseg : Nat
  tdepth : Nat
  /-- the steep state exists: a gang of a launch that names the caddy has been placed (13/R341) -/
  made : Bool
  /-- home die (physical) of BASE, once the state is created -/
  home : Nat
  steep : Word
  /-- the steep number has passed 0xFFFFFFFF -/
  wrapped : Bool
  closers : List (Nat × Nat)
  recs : List SRec
  count : Nat
  overflow : Bool
  fault : Option Cause
  /-- LSEQ of the oldest sharing launch that was live when the steep opened -/
  oldest : Word
  /-- the segment header of the open steep has been written (13/R353) -/
  opened : Bool
  /-- the steep that has closed and whose apply has not ended, and those that closed after it, oldest first -/
  apply : Option Apply
  later : List Apply
  /-- a team walks its tape (13/R355) -/
  walker : Option Nat
  hold : Option Hold
  /-- the hold concerns the open steep, its header or the arrival of a record, not the apply -/
  holdOpen : Bool
  deriving DecidableEq, Repr

structure CaddySet where
  part : Nat
  addr : DWord
  created : Bool
  launches : List Nat
  caddies : List Caddy
  deriving DecidableEq, Repr

/-! ### The ordering machine -/

/-- Atomic operations (05/R122, 08/R206). -/
inductive AOp where
  | add | min | minu | max | maxu | and | or | xor | xchg | cas | fadd | bfadd
  deriving DecidableEq, Repr, Inhabited

/-- What an entry does where it is performed (10/R262 to R267). -/
inductive Acc where
  | load (n : Nat)
  | store (bs : List Byte)
  /-- an atomic of `n` bytes with its operand and comparand -/
  | atom (op : AOp) (n : Nat) (b c : DWord)
  /-- a `vmcast` write -/
  | mcast (bs : List Byte)
  /-- a store record, or the close of a team, at the steep buffer of a caddy -/
  | record (set k : Nat) (r : SRec)
  | close (set k launch tid : Nat)
  /-- the read of one slot element of a caddy by a lane of a soft load (13/R346) -/
  | softLd (set k : Nat)
  deriving DecidableEq, Repr

/-- Where a load or atomic returns its value. -/
inductive Ret where
  | none
  /-- an `s` register: bytes, register, a pair -/
  | sreg (team d : Nat) (wide : Bool)
  /-- a lane of an operand-log slot: offset of this part -/
  | slot (team k lane off : Nat)
  /-- an element that a lane of a soft load reads: its place among those of the lane -/
  | soft (team k lane j : Nat)
  /-- a lane of a visitor's instruction -/
  | visitor (v lane off : Nat)
  /-- a GFL request: port, tag, node that asked -/
  | gfl (port : Nat) (tag : BitVec 16) (node : BitVec 6)
  deriving DecidableEq, Repr

/-- The issue point that entered an entry. -/
inductive Issuer where
  | s (team : Nat)
  | l (team : Nat)
  | v (visitor : Nat)
  | port (p : Nat)
  /-- the kettle, an engine or a blend unit: its writes to GFL peers (16/R425), of the source with a number (R426), and the
  team whose they are, if any -/
  | unit (src : Nat) (team : Option Nat)
  deriving DecidableEq, Repr

/-- An access entry (10/R262, R264). `owner` and `die` name its forward queue with `dest`. -/
structure Entry where
  id : Nat
  owner : Issuer
  team : Option Nat
  part : Nat
  die : Nat
  dest : Dest
  addr : Nat
  va : DWord
  op : Acc
  ret : Ret
  /-- the lane whose access it is -/
  lane : Option Nat
  /-- the REPLICA page that a store or reduction goes to: those of one source on it keep their order (16/R426) -/
  rpage : Option Nat
  deriving DecidableEq, Repr

/-- A continuation (14/R365, R366), or a visitor once it runs. -/
structure Cont where
  team : Nat
  part : Nat
  kind : Nat
  hops : Nat
  tidx : BitVec 26
  word : Nat
  lanes : Mask
  redo : Mask
  cause : Option Cause
  taddr : DWord
  regs : Regs
  wcodes : BitVec 64
  blk : Blk
  flags : BitVec 5
  nfcAdd : Word
  /-- origin and destination die (physical) -/
  src : Nat
  dst : Nat
  /-- entries that the departure or the return is a release of (10/R273) -/
  waits : List Nat
  /-- it holds a reserved inbox entry at its destination (14/R362) -/
  reserved : Bool
  /-- the hold of a pre-empted visitor, with its resolution (15/R396) -/
  held : Option Hold
  deriving DecidableEq, Repr

/-- A visitor: a continuation running on a core of a die (14/R367). -/
structure Visitor where
  cont : Cont
  alive : Bool
  halted : Bool
  core : Nat
  rows : Nat
  ord : List Ord
  hold : Option Hold
  last : List (Nat × Tlb)
  /-- the instruction in flight: its slot-like record, as a visitor has no operand log (R370) -/
  fly : Option Slot
  deriving DecidableEq, Repr

/-! ### Kettle -/

/-- A fetched record that has not retired (11/R284 to R286). -/
structure KRec where
  /-- its own number -/
  num : Nat
  addr : DWord
  image : List Byte
  released : Bool
  /-- the dependency unit holds it back no longer (10/R277) -/
  clear : Bool
  /-- units not yet performed, as intervals [lo, hi) -/
  todo : List (Nat × Nat)
  /-- bytes read ahead of their writes, by their offset in the record's data (10/R263) -/
  rbuf : List (Nat × List Byte)
  /-- its scratchpad destination range stands in the scoreboard -/
  ranged : Bool
  /-- its byte count has been completed against its barrier (11/R286) -/
  counted : Bool
  failed : Bool
  /-- the failure whose control doubleword is still to be written (11/R299) -/
  fate : Option Cause
  retired : Bool
  hold : Option Hold
  deriving DecidableEq, Repr

/-- A chain on a channel (11/R283, R287). -/
structure Chain where
  gang : Nat
  team : Nat
  tok : BitVec 3
  tag : Word
  spc : DWord
  /-- order of arrival at the cluster -/
  arrived : Nat
  started : Bool
  /-- address of the next record to fetch; 0 when fetching has stopped -/
  next : DWord
  fetched : Bool
  failed : Bool
  stopped : Bool
  recs : List KRec
  hold : Option Hold
  deriving DecidableEq, Repr

/-! ### Matrix engine -/

inductive JKind where
  | mma | bput | accld | accst | mxreq
  deriving DecidableEq, Repr, Inhabited

/-- One team's part of a job: the team, its token, tag, the S-PC of its command, the address and the image of the
record in pair a (empty until it is read), and its job control operand. -/
structure JMember where
  team : Nat
  tok : BitVec 3
  tag : Word
  spc : DWord
  pairA : DWord
  recA : List Byte
  sc : Word
  deriving DecidableEq, Repr

/-- A job of the reservation table (12/R320 to R325). -/
structure Job where
  kind : JKind
  gang : Nat
  arrived : Nat
  prio : Nat
  word : Word
  members : List JMember
  /-- the record in pair b, if the command names one -/
  pairB : DWord
  recB : List Byte
  /-- FMT of the issuing team at issue -/
  fmt : Word
  sparse : Bool
  wide : Bool
  released : Bool
  begun : Bool
  /-- passes done -/
  done : Nat
  flags : BitVec 3
  failed : Bool
  hold : Option Hold
  /-- the tile record whose operand the hold concerns (12/R323) -/
  heldRec : DWord
  /-- bytes read ahead of a pass (space, address), and writes of a pass not yet performed: tile record, space, address
  (10/R263, R276) -/
  rbuf : List (Nat × DWord × List Byte)
  wbuf : List (DWord × Nat × DWord × List Byte)
  deriving DecidableEq, Repr

/-- A crew `mma` held in a rendezvous latch (12/R330): the latch's own number, the gang, MCR, the instruction
word and the member. -/
structure Held where
  latch : Nat
  gang : Nat
  mcr : Word
  word : Word
  wide : Bool
  sparse : Bool
  mem : JMember
  pairB : DWord
  /-- its A record cannot be read until a translation fault is resolved -/
  hold : Option Hold
  deriving DecidableEq, Repr

/-- A record-cache entry (10/R279): part, address, image, the number of its fill. -/
structure RecEnt where
  part : Nat
  pa : Nat
  image : List Byte
  fill : Nat
  deriving DecidableEq, Repr

structure Cluster where
  channels : Vector (List Chain) 8
  jobs : List Job
  holder : Option Nat
  acc : Memory
  bstore : Memory
  latches : List Held
  recs : List RecEnt
  /-- quarantined allocations: gang, units of 4 KiB -/
  quarantine : List (Nat × Nat)
  /-- the distributor's view of the free scratchpad units (17/R433) -/
  freeUnits : Nat
  deriving DecidableEq, Repr

structure CoreSt where
  l1 : List Tlb
  /-- teams that wait in `grow`, oldest first (02/R50) -/
  growQ : List Nat
  /-- the distributor's view (17/R433) -/
  freeSlots : Nat
  freeRows : Nat
  deriving DecidableEq, Repr

structure Die where
  l2 : List Tlb
  /-- delivered continuations, oldest first, and reservations of inbox entries -/
  inbox : List Cont
  reserved : Nat
  deriving DecidableEq, Repr

/-- A gang (02/R40), resident or saved. -/
structure Gang where
  part : Nat
  launch : Nat
  num : Nat
  phase : GPhase
  /-- physical cluster, 0 to 71, and physical cores -/
  cluster : Nat
  cores : List Nat
  teams : List Nat
  spad : Memory
  /-- offsets of the live barrier words (07/R182) -/
  live : List Nat
  circles : List Circle
  image : Option ImageLoc
  /-- UNHANDLED: the team, and the entry to be posted or posted (15/R397) -/
  unhandled : Option (Nat × Hold)
  /-- the chains and jobs that the image of a saved gang holds (11/R309, 12/R313) -/
  chains : List (Nat × Chain)
  jobs : List Job
  /-- the saved engine state, until the gang is the holder again (12/R313) -/
  engine : Option (Memory × Memory)
  /-- continuations of the saved gang, with the physical die each is sent to (14/R380) -/
  roam : List Cont
  /-- a KILL that came while it was not resident takes effect when it runs on (15/R396) -/
  killed : Bool
  deriving DecidableEq, Repr

/-! ### Partitions -/

inductive PState where
  | absent | ready | failed
  deriving DecidableEq, Repr, Inhabited

/-- Who a fault-queue entry holds (15/R394, R395). -/
inductive HSrc where
  | s (team : Nat)
  | slot (team k : Nat)
  | fetch (team : Nat)
  | visitor (v : Nat)
  /-- a record of a chain by its own number; a chain's fetch, or a job, by the number under which it was accepted -/
  | chan (num : Nat)
  | chainFetch (arrived : Nat)
  | job (arrived : Nat)
  /-- the command of a team in a rendezvous latch -/
  | crew (team : Nat)
  | caddy (set k : Nat)
  | trap (gang : Nat)
  | svc (team : Nat)
  deriving DecidableEq, Repr

/-- An open entry of the fault queue: its sequence number and whom it holds. -/
structure FqOpen where
  seq : BitVec 32
  who : HSrc
  /-- under which enabling of the queue it was posted (15/R386, R394) -/
  gen : Nat
  deriving DecidableEq, Repr

/-- A ring register set (18/R457): base, control, head, tail. -/
structure Ring where
  base : DWord
  ctl : Word
  head : Word
  tail : Word
  deriving DecidableEq, Repr

/-- A host-window grant (18/R455). -/
structure Grant where
  w : Nat
  host : Nat
  size : Nat
  write : Bool
  firmware : Bool
  deriving DecidableEq, Repr

/-- A sweep of cached translations (15/R390, 16/R421). -/
structure Sweep where
  team : Option Nat
  va : DWord
  removed : Bool
  waits : List Nat
  deriving DecidableEq, Repr

/-- A completion that waits to be recorded (18/R458). -/
structure Completion where
  lseq : Word
  tag : Word
  status : Nat
  queue : Nat
  done : Option (BitVec 24)
  launch : Option Nat
  /-- TIME at completion -/
  time : DWord
  deriving DecidableEq, Repr

/-- A budget (17/R445 to R447), with the values that the next period takes. -/
structure Budget where
  floor : Word
  ceil : Word
  nextFloor : Word
  nextCeil : Word
  fuse : Word
  used : Word
  deriving DecidableEq, Repr

/-- An error record that is still to be posted (15/R401): its KIND, unit, die, addresses, reader, and when it arose. -/
structure ErrRec where
  kind : Nat
  unit : Nat
  die : Nat
  pa : Nat
  va : Nat
  lseq : Word
  tid : Word
  time : DWord
  deriving DecidableEq, Repr

structure Part where
  state : PState
  dieFirst : Nat
  dieCount : Nat
  link : Nat
  -- privileged registers (15/R386)
  fq : Ring
  el : Ring
  saveBase : DWord
  saveCtl : Word
  ptroot : DWord
  fqOpen : List FqOpen
  /-- how often the fault queue has been enabled -/
  fqGen : Nat
  /-- FQDONE writes that the PCIe budget holds back, oldest first (18/R457, 17/R445) -/
  doneWait : List Word
  dropped : Word
  /-- error records that the PCIe budget holds back, oldest first (15/R401, 17/R445) -/
  elWait : List ErrRec
  -- distributor (17/R434 to R440)
  lseqNext : Word
  evbase : Option DWord
  events : List Nat
  rings : Vector Ring 64
  rotation : Nat
  /-- a submission entry that has been read, with its queue, whose caddy table waits to be read (17/R434, R445) -/
  taking : Option (Nat × List Byte)
  comp : Ring
  compWait : List Completion
  budgets : Vector Budget 6
  ever : BitVec 6
  migDep : DWord
  migFall : DWord
  migRef : DWord
  grants : List Grant
  sweeps : List Sweep
  deriving DecidableEq, Repr

/-! ### GFL ports -/

/-- A request that awaits responses (16/R430, R431): tag, the access it carries, nodes outstanding. -/
structure GReq where
  tag : BitVec 16
  entry : Nat
  part : Nat
  va : DWord
  lpa : DWord
  nodes : List (Nat × Nat)
  sentAt : DWord
  deriving DecidableEq, Repr

/-- A message queued for sending, as its slots of 16 bytes; a request or a response. -/
structure GMsg where
  slots : List (List Byte)
  response : Bool
  deriving DecidableEq, Repr

structure Port where
  up : Bool
  partner : BitVec 6
  -- sender
  txSeq : BitVec 12
  /-- unacknowledged DATA flits, oldest first: sequence number, slots, times sent -/
  replay : List (BitVec 12 × List Byte × Nat)
  /-- how many of the replay buffer are to be sent again -/
  resend : Nat
  rqCred : Nat
  rsCred : Nat
  outReq : List GMsg
  outRsp : List GMsg
  waiting : List GReq
  -- receiver
  rxNext : BitVec 12
  nak : Bool
  nakSent : Bool
  rqFreed : Nat
  rsFreed : Nat
  inReq : List (List (List Byte))
  inRsp : List (List (List Byte))
  /-- flits sent to the partner: what the link carries -/
  wire : List (BitVec 2048)
  lastGood : DWord
  lastAck : DWord
  trainFails : Nat
  -- inbound window (18/R456)
  winPart : Nat
  winBase : DWord
  winSize : DWord
  deriving DecidableEq, Repr

/-! ### The module -/

inductive Stage where
  | reset | booting | ready | failed
  deriving DecidableEq, Repr, Inhabited

/-- Who observes a run (10/R269): a team, the host, Cratal firmware, a GFL peer, an engine job of a team on the die
of its cluster, the blend unit or the inbox of a die, and the distributor of a partition. -/
inductive Observer where
  | team (t : Nat)
  | host
  | firmware
  | peer (port : Nat)
  | job (team : Nat)
  | blend (die : Nat)
  | inbox (die : Nat)
  | distributor (part : Nat)
  deriving DecidableEq, Repr

/-- The stream that an S or L instruction acts on. -/
inductive Cur where
  | none
  | s (team : Nat)
  | l (team : Nat)
  | v (visitor : Nat)
  deriving DecidableEq, Repr

/-- How a walk ends: a translation, or the cause of its failure with whether it is resolvable (16/R417). -/
inductive WEnd where
  | ok (t : Tlb)
  | fail (c : Cause) (resolvable : Bool)
  deriving DecidableEq, Repr

/-- A walk of the translation tables (16/R420): for whom, the partition and the 64 KiB page, what is to be read next (level
and table, or the descriptor of a replica set that a leaf names), the entries read, and its end. -/
structure TWalk where
  cur : Cur
  part : Nat
  page : Nat
  next : Nat × Nat
  leaf : Option Tlb
  reads : List Nat
  result : Option WEnd
  deriving DecidableEq, Repr

/-- One move of the schedule: the model's own record of which part acts next (10/R261, R263). -/
inductive Mover where
  /-- the S-stream or the L-stream of a team, or a visitor, issues; with the choice left to it -/
  | s (team choice : Nat)
  | l (team choice : Nat)
  | v (visitor choice : Nat)
  /-- a step of another agent, with the choice left to it -/
  | ev (i : Instr) (choice : Nat)
  /-- a cached translation is evicted: core, or die -/
  | evictL1 (core n : Nat)
  | evictL2 (die n : Nat)
  /-- a record-cache entry is evicted -/
  | evictRec (cluster n : Nat)
  /-- a team performs a load ahead of the instructions before it (10/R268): address, length, and whether it is of the
  scratchpad -/
  | early (team : Nat) (va : DWord) (n : Nat) (spad : Bool)
  /-- a walk for an access that is about to be made reads its next entry (16/R420): for whom, and the address -/
  | walk (cur : Cur) (part : Nat) (va : DWord)
  /-- a record's source is read ahead of its writes (10/R263, R276): cluster, channel, record, first unit and count; with a
  count of 0 the index of a GATHER row -/
  | kread (cluster ch r lo n : Nat)
  /-- a job reads bytes of an operand ahead of its pass, or performs a write that a pass has formed: its number -/
  | jread (cluster job space : Nat) (va : DWord) (n : Nat)
  | jwrite (cluster job n : Nat)
  /-- a port forms and sends its next flit -/
  | send (port : Nat)
  /-- an uncorrectable error arises in a protected unit (15/R399) -/
  | upset (unit inst lo len : Nat)
  /-- a soft error that the code corrects, with its logged record (15/R399): unit, die, physical address -/
  | corrected (unit die pa : Nat)
  deriving DecidableEq, Repr

/-- A protected unit of storage that holds an uncorrectable error (15/R399): the unit code of R401, the
instance, its first byte and its length. -/
structure BadUnit where
  unit : Nat
  inst : Nat
  lo : Nat
  len : Nat
  deriving DecidableEq, Repr

structure State where
  -- module registers (18/R449, R451, R459, R461)
  stage : Stage
  wdReset : Bool
  cmdAddr : DWord
  cmdBusy : Bool
  derr : BitVec 2
  /-- the command block that Cratal has read, with its address -/
  cmd : Option (Nat × List Byte)
  /-- the command has acted, and waits for what it started -/
  cmdBegun : Bool
  /-- a doorbell rung while Cratal is down, with CMDADDR at its time: the command waits until STATE is READY again (18/R461) -/
  cmdWait : Option (DWord × DoorLink)
  meas : Vector (BitVec 512) 8
  wdTime : DWord
  node : BitVec 6
  /-- PWRCAP in watts, and whether the limit registers are locked (18/R461) -/
  pwrCap : Word
  limitsLocked : Bool
  /-- the SHA-512 digest of the vendor's public key, fused (18/R459) -/
  keyFuse : BitVec 512
  thermal : Bool
  powered : Bool
  /-- physical cores that the harvest leaves fused off (17/R441), bit 36 * die + core -/
  fused : BitVec 288
  /-- fuse limits FUSEk for partitions of 1, 2, 4 and 8 dies (17/R447), at 6 * log2 size + k -/
  fuse : Vector Word 24
  time : DWord
  period : Nat
  /-- interrupt vectors raised, latest first (18/R448) -/
  irqs : List Nat
  -- the machine's parts
  parts : Vector Part 8
  dies : Vector Die 8
  clusters : Vector Cluster 72
  cores : Vector CoreSt 288
  ports : Vector Port 16
  -- work
  launches : List Launch
  gangs : List Gang
  teams : List Team
  visitors : List Visitor
  caddySets : List CaddySet
  /-- continuations in the channels, in departure order (10/R281) -/
  channel : List Cont
  /-- the forward queues, in order of entry; the arrived entries, in order of arrival -/
  fwd : List Entry
  arr : List Entry
  mem : Memory
  hostMem : Memory
  bad : List BadUnit
  -- the model's own fields
  nextId : Nat
  agenda : List Mover
  rotor : Nat
  cur : Cur
  choice : Nat
  observer : Option Observer
  walks : List TWalk
  /-- what units have accessed in the step: place, address, length -/
  touched : List (Dest × Nat × Nat)
  freeCtr : Nat
  deriving DecidableEq, Repr

/-- Why a step stops: -/
inductive Fault where
  /-- raised by the meaning of an S or L instruction when no stream stands in `cur` to execute it; safe:
  no stream of the machine runs then -/
  | noStream
  deriving DecidableEq, Repr

/-- Why a step has no meaning: -/
inductive Refusal where
  /-- raised by an arm of `exec` whose instruction has no meaning yet; safe -/
  | notModelled (mnemonic : String)
  deriving DecidableEq, Repr

/-! ### Reset (18/R453, R459, R464; 15/R386; 17/R440, R447) -/

def Ring.reset : Ring := ⟨0, 0, 0, 0⟩

def Budget.reset : Budget := ⟨0, 0, 0, 0, 0, 0⟩

def Part.reset : Part :=
  { state := .absent, dieFirst := 0, dieCount := 0, link := 0, fq := .reset, el := .reset,
    saveBase := 0, saveCtl := 0, ptroot := 0, fqOpen := [], fqGen := 0, doneWait := [], dropped := 0, elWait := [],
    lseqNext := 0, evbase := none, events := [], rings := Vector.replicate 64 .reset, rotation := 0, taking := none,
    comp := .reset, compWait := [], budgets := Vector.replicate 6 .reset, ever := 0, migDep := 0,
    migFall := 0, migRef := 0, grants := [], sweeps := [] }

def Cluster.reset : Cluster :=
  { channels := Vector.replicate 8 [], jobs := [], holder := none, acc := [], bstore := [],
    latches := [], recs := [], quarantine := [], freeUnits := 1024 }

def CoreSt.reset : CoreSt := { l1 := [], growQ := [], freeSlots := 16, freeRows := 8192 }

def Die.reset : Die := { l2 := [], inbox := [], reserved := 0 }

def Port.reset : Port :=
  { up := false, partner := 0, txSeq := 0, replay := [], resend := 0, rqCred := 0, rsCred := 0,
    outReq := [], outRsp := [], waiting := [], rxNext := 0, nak := false, nakSent := false,
    rqFreed := 0, rsFreed := 0, inReq := [], inRsp := [], wire := [], lastGood := 0, lastAck := 0,
    trainFails := 0, winPart := 0, winBase := 0, winSize := 0 }

/-- The machine right after reset: the module held in RESET (18/R464), no partition, every register of
the module page 0, memory with nothing listed. -/
def State.reset : State :=
  { stage := .reset, wdReset := false, cmdAddr := 0, cmdBusy := false, derr := 0, cmd := none, cmdBegun := false, cmdWait := none,
    meas := Vector.replicate 8 0, wdTime := 0, node := 0, pwrCap := 0, limitsLocked := false, keyFuse := 0, thermal := false, powered := true,
    fused := 0, fuse := Vector.replicate 24 0xFFFFFFFF, time := 0,
    period := 0, irqs := [], parts := Vector.replicate 8 .reset, dies := Vector.replicate 8 .reset,
    clusters := Vector.replicate 72 .reset, cores := Vector.replicate 288 .reset,
    ports := Vector.replicate 16 .reset, launches := [], gangs := [], teams := [], visitors := [],
    caddySets := [], channel := [], fwd := [], arr := [], mem := [], hostMem := [], bad := [],
    nextId := 0, agenda := [], rotor := 0, cur := .none, choice := 0, observer := none, walks := [], touched := [], freeCtr := 0 }

end Sys2Proof.Machine
end

