-- ==== Sys2Proof/Machine/Mem.lean ====
section
/-!
DEFINITION. Byte memories in canonical form, little-endian values (00/R2), masks over lanes (02/R28,
R29) and list helpers.
-/

namespace Sys2Proof.Machine

/-! ### Memory -/

/-- The byte at an address; an unlisted address reads as zero (18/R453, 11/R307, 12/R312). -/
def Memory.read (m : Memory) (a : Nat) : Byte :=
  match m with
  | [] => 0
  | (k, b) :: r => if k = a then b else if a < k then 0 else Memory.read r a

/-- Writing a byte: the canonical form is kept, so writing zero removes the entry. -/
def Memory.write (m : Memory) (a : Nat) (b : Byte) : Memory :=
  match m with
  | [] => if b = 0 then [] else [(a, b)]
  | (k, c) :: r =>
    if a < k then (if b = 0 then (k, c) :: r else (a, b) :: (k, c) :: r)
    else if a = k then (if b = 0 then r else (a, b) :: r)
    else (k, c) :: Memory.write r a b

/-- Whether every address of a memory is above a bound. -/
def Memory.above (lo : Nat) (m : Memory) : Bool :=
  match m with
  | [] => true
  | (k, _) :: _ => lo < k

/-- The canonical form: addresses strictly rising, no zero byte listed. -/
def Memory.wf (m : Memory) : Bool :=
  match m with
  | [] => true
  | (k, b) :: r => b != 0 && Memory.above k r && Memory.wf r

/-- `n` bytes from an address, in address order. -/
def Memory.readN (m : Memory) (a n : Nat) : List Byte :=
  match n with
  | 0 => []
  | k + 1 => m.read a :: Memory.readN m (a + 1) k

/-- Writing bytes from an address on, in address order. -/
def Memory.writeN (m : Memory) (a : Nat) (bs : List Byte) : Memory :=
  match bs with
  | [] => m
  | b :: r => Memory.writeN (m.write a b) (a + 1) r

/-- The memory without the bytes of `[lo, lo + n)`: they read as zero. -/
def Memory.clear (m : Memory) (lo n : Nat) : Memory :=
  m.filter (fun c => c.1 < lo || lo + n ≤ c.1)

/-! ### Little-endian values -/

/-- The number that bytes hold, the first least significant. -/
def leNat (bs : List Byte) : Nat :=
  match bs with
  | [] => 0
  | b :: r => b.toNat + 256 * leNat r

/-- The `n` bytes of a number, the first least significant. -/
def leBytes (n v : Nat) : List Byte :=
  match n with
  | 0 => []
  | k + 1 => BitVec.ofNat 8 v :: leBytes k (v / 256)

def w32le (w : Word) : List Byte := leBytes 4 w.toNat
def w64le (w : DWord) : List Byte := leBytes 8 w.toNat

/-- A field of a structure held as bytes. -/
def bytesAt (bs : List Byte) (off n : Nat) : List Byte := (bs.drop off).take n
def natAt (bs : List Byte) (off n : Nat) : Nat := leNat (bytesAt bs off n)
def wordAt (bs : List Byte) (off : Nat) : Word := BitVec.ofNat 32 (natAt bs off 4)
def dwordAt (bs : List Byte) (off : Nat) : DWord := BitVec.ofNat 64 (natAt bs off 8)

/-- Bits `[hi:lo]` of a number. -/
def bitsOf (x hi lo : Nat) : Nat := (x / 2 ^ lo) % 2 ^ (hi + 1 - lo)

def zeros (n : Nat) : List Byte := List.replicate n 0

def allZero (bs : List Byte) : Bool := bs.all (· == 0)

def roundUp (n m : Nat) : Nat := (n + m - 1) / m * m

/-! ### Masks -/

/-- The mask of lanes 0 to w - 1. -/
def Mask.full (w : Nat) : Mask := BitVec.ofNat 1024 (2 ^ w - 1)

/-- The mask with one lane. -/
def Mask.one (n : Nat) : Mask := BitVec.ofNat 1024 (2 ^ n)

/-- Word k of a mask (02/R27). -/
def Mask.word (m : Mask) (k : Nat) : Word := m.extractLsb' (32 * k) 32

/-- The summary word (02/R28). -/
def Mask.summary (m : Mask) : Word :=
  (List.range 32).foldl (fun acc k => if Mask.word m k = 0 then acc else acc ||| (1#32 <<< k)) 0

/-- The lanes of a mask below `w`, ascending. -/
def Mask.lanes (m : Mask) (w : Nat) : List Nat := (List.range w).filter (fun n => m.getLsbD n)

/-- The mask that holds a list of lanes. -/
def Mask.ofLanes (ls : List Nat) : Mask := ls.foldl (fun m n => m ||| Mask.one n) 0

/-- The mask of the lanes below `w` that satisfy a predicate. -/
def Mask.ofFn (w : Nat) (p : Nat → Bool) : Mask := Mask.ofLanes ((List.range w).filter p)

/-- The passes of an instruction: the non-zero words of its effective mask (02/R30). -/
def Mask.passes (m : Mask) : Nat := ((List.range 32).filter (fun k => Mask.word m k != 0)).length

/-- Lanes of the first mask that are not in the second. -/
def Mask.minus (a b : Mask) : Mask := a &&& ~~~b

/-- Whether two byte ranges share a byte. -/
def overlaps (a n b m : Nat) : Bool := a < b + m && b < a + n && 0 < n && 0 < m

/-! ### Vector registers (03/R65) -/

/-- The value of lane n. -/
def VReg.at (r : VReg) (n : Nat) : Word :=
  match r with
  | .u x => x
  | .a b y => b + BitVec.ofNat 32 n * y
  | .g xs => (xs[n]?).getD 0

/-- The tag as the image codes it: 0 U, 1 A, 2 G (14/R366). -/
def VReg.tag (r : VReg) : Nat :=
  match r with
  | .u _ => 0
  | .a _ _ => 1
  | .g _ => 2

/-- The values of lanes 0 to w - 1 (Expand of R67). -/
def VReg.expand (r : VReg) (w : Nat) : List Word := (List.range w).map r.at

/-! ### Lists -/

/-- The element at an index, changed. -/
def modifyAt {α : Type} (l : List α) (i : Nat) (f : α → α) : List α :=
  match l, i with
  | [], _ => []
  | x :: r, 0 => f x :: r
  | x :: r, k + 1 => x :: modifyAt r k f

/-- The list without the element at an index. -/
def removeAt {α : Type} (l : List α) (i : Nat) : List α :=
  match l, i with
  | [], _ => []
  | _ :: r, 0 => r
  | x :: r, k + 1 => x :: removeAt r k

/-- Insertion into a list sorted by a key. -/
def insertBy {α : Type} (le : α → α → Bool) (x : α) (l : List α) : List α :=
  match l with
  | [] => [x]
  | y :: r => if le x y then x :: y :: r else y :: insertBy le x r

/-- Stable insertion sort. -/
def sortBy {α : Type} (le : α → α → Bool) (l : List α) : List α :=
  match l with
  | [] => []
  | x :: r => insertBy le x (sortBy le r)

/-- The intervals without a sub-interval `[lo, hi)`. -/
def cutInterval (todo : List (Nat × Nat)) (lo hi : Nat) : List (Nat × Nat) :=
  todo.flatMap (fun p =>
    if hi ≤ p.1 || p.2 ≤ lo then [p]
    else (if p.1 < lo then [(p.1, lo)] else []) ++ (if hi < p.2 then [(hi, p.2)] else []))

/-- Whether `[lo, hi)` lies within one of the intervals. -/
def inIntervals (todo : List (Nat × Nat)) (lo hi : Nat) : Bool :=
  todo.any (fun p => p.1 ≤ lo && hi ≤ p.2)

/-- An element of a vector at a number; the number is taken modulo the length. -/
def vget {α : Type} {n : Nat} (v : Vector α (n + 1)) (i : Nat) : α :=
  v[i % (n + 1)]'(Nat.mod_lt i (Nat.succ_pos n))

/-- A vector with the element at a number changed; a number past the end changes nothing. -/
def vmod {α : Type} {n : Nat} (v : Vector α n) (i : Nat) (f : α → α) : Vector α n :=
  if h : i < n then v.set i (f v[i]) h else v

end Sys2Proof.Machine
end

