-- ==== Sys2Proof/Machine/Access.lean ====
section
/-!
DEFINITION. Where each piece of the state stands: the numbering of dies, clusters and cores (01/R13 to
R20, 17/R441), reading and changing one team, gang, launch, partition, cluster, core, die or port, and
the state in which a team starts (02/R49).
-/

namespace Sys2Proof.Machine

/-! ### Topology -/

/-- Physical die of a physical core (01/R13). -/
def dieOfCore (c : Nat) : Nat := c / 36
/-- Physical cluster (0 to 71) of a physical core (01/R14). -/
def clusterOfCore (c : Nat) : Nat := 9 * (c / 36) + c % 36 / 4
/-- Physical die of a cluster. -/
def dieOfCluster (c : Nat) : Nat := c / 9
/-- The physical cores of a cluster, ascending (01/R14). -/
def coresOfCluster (c : Nat) : List Nat :=
  (List.range 4).map (fun k => 36 * (c / 9) + 4 * (c % 9) + k)

/-- Bytes of a die's physical window, and of its HBM4E (01/R17). -/
def windowSize : Nat := 0x4000000000
def hbmSize : Nat := 0x2800000000

/-- The home of a physical address of the die windows (01/R17). -/
def homeOf (pa : Nat) : Nat := pa / windowSize
/-- Whether a physical address is populated HBM4E (01/R17). -/
def populated (pa : Nat) : Bool := pa < 8 * windowSize && pa % windowSize < hbmSize

/-! ### Reading and changing parts of the state -/

def State.modTeam (s : State) (t : Nat) (f : Team → Team) : State :=
  { s with teams := modifyAt s.teams t f }
def State.setTeam (s : State) (t : Nat) (T : Team) : State := s.modTeam t (fun _ => T)
def State.modGang (s : State) (g : Nat) (f : Gang → Gang) : State :=
  { s with gangs := modifyAt s.gangs g f }
def State.modLaunch (s : State) (l : Nat) (f : Launch → Launch) : State :=
  { s with launches := modifyAt s.launches l f }
def State.modVisitor (s : State) (v : Nat) (f : Visitor → Visitor) : State :=
  { s with visitors := modifyAt s.visitors v f }
def State.modSet (s : State) (k : Nat) (f : CaddySet → CaddySet) : State :=
  { s with caddySets := modifyAt s.caddySets k f }
def State.modCaddy (s : State) (set k : Nat) (f : Caddy → Caddy) : State :=
  s.modSet set (fun c => { c with caddies := modifyAt c.caddies k f })

def State.part (s : State) (p : Nat) : Part := vget s.parts p
def State.modPart (s : State) (p : Nat) (f : Part → Part) : State :=
  { s with parts := vmod s.parts p f }
def State.cluster (s : State) (c : Nat) : Cluster := vget s.clusters c
def State.modCluster (s : State) (c : Nat) (f : Cluster → Cluster) : State :=
  { s with clusters := vmod s.clusters c f }
def State.core (s : State) (c : Nat) : CoreSt := vget s.cores c
def State.modCore (s : State) (c : Nat) (f : CoreSt → CoreSt) : State :=
  { s with cores := vmod s.cores c f }
def State.die (s : State) (d : Nat) : Die := vget s.dies d
def State.modDie (s : State) (d : Nat) (f : Die → Die) : State := { s with dies := vmod s.dies d f }
def State.port (s : State) (p : Nat) : Port := vget s.ports p
def State.modPort (s : State) (p : Nat) (f : Port → Port) : State :=
  { s with ports := vmod s.ports p f }
def State.chan (s : State) (c ch : Nat) : List Chain := vget (s.cluster c).channels ch
def State.modChan (s : State) (c ch : Nat) (f : List Chain → List Chain) : State :=
  s.modCluster c (fun k => { k with channels := vmod k.channels ch f })

/-- A number no entry, chain, job or fill has yet. -/
def State.fresh (s : State) : Nat × State := (s.nextId, { s with nextId := s.nextId + 1 })

/-- A free value of this step: one that the spec leaves open, numbered within the step (log entry 5). -/
def State.freeWord (s : State) (k : Nat) : DWord := Config.freeValue (4096 * s.freeCtr + k)

/-- Raising an interrupt vector (18/R448). -/
def State.irq (s : State) (v : Nat) : State := { s with irqs := v :: s.irqs }

/-! ### Partitions and logical numbers -/

/-- Whether a partition holds a physical die (01/R19). -/
def Part.hasDie (p : Part) (d : Nat) : Bool :=
  p.state != .absent && p.dieFirst ≤ d && d < p.dieFirst + p.dieCount

/-- The partition that holds a physical die. -/
def State.partOfDie (s : State) (d : Nat) : Option Nat :=
  (List.range 8).find? (fun p => (s.part p).hasDie d)

/-- Whether a physical core works (17/R441). -/
def State.works (s : State) (c : Nat) : Bool := c < 288 && !s.fused.getLsbD c

/-- The working cores of a partition in logical order: entry j is logical core j (17/R441). -/
def State.coresOf (s : State) (p : Nat) : List Nat :=
  (List.range (36 * (s.part p).dieCount)).map (· + 36 * (s.part p).dieFirst) |>.filter s.works

/-- The clusters of a partition in logical order: entry j is logical cluster j (17/R441). -/
def State.clustersOf (s : State) (p : Nat) : List Nat :=
  (List.range (9 * (s.part p).dieCount)).map (· + 9 * (s.part p).dieFirst) |>.filter
    (fun c => (coresOfCluster c).any s.works)

/-- Logical number of a physical core: the working cores of the partition before it. -/
def State.logicalCore (s : State) (p c : Nat) : Nat :=
  ((s.coresOf p).filter (· < c)).length

/-- Logical number of a physical die (01/R20). -/
def State.logicalDie (s : State) (p d : Nat) : Nat := d - (s.part p).dieFirst

/-! ### Launches, gangs, teams -/

def Desc.blank : Desc :=
  { sentry := 0, lbase := 0, caddy := 0, handler := 0, args := 0, teams := 0, tag := 0, prio := 0,
    span := 1, gsize := 1, nmax := 8, n0 := 8, w := 32, sup := false, caddies := 0, lcirc := 0,
    spad := 0, deps := [], done := none, raw := [] }

def Launch.blank : Launch :=
  { part := 0, desc := .blank, lseq := 0, queue := 0, phase := .complete, circles := [], nextGang := 0,
    resumed := [], faulted := false, entry := false, caddySet := none }

def Gang.blank : Gang :=
  { part := 0, launch := 0, num := 0, phase := .retired, cluster := 0, cores := [], teams := [],
    spad := [], live := [], circles := [], image := none, unhandled := none, chains := [], jobs := [],
    engine := none, roam := [], killed := false }

def State.launch (s : State) (l : Nat) : Launch := (s.launches[l]?).getD .blank
def State.gang (s : State) (g : Nat) : Gang := (s.gangs[g]?).getD .blank

def Circle.empty : Circle := { members := [], arrived := [], phase := 0 }

def Token.start : Token :=
  { out := 0, err := false, cause := none, tspc := 0, taddr := 0, tseq := 0 }

/-- PRC at team start: C = 5, floor 0, RNE, PXE off (02/R49). -/
def prcStart : Word := 0x00000003

def Regs.start (n : Nat) : Regs :=
  { v := List.replicate n (.u 0), prc := .u prcStart, m := Vector.replicate 8 0 }

/-- Register rows of a team of width `w` with `n` registers (01/R15, 02/R50). -/
def rowsFor (n w : Nat) : Nat := n * (w / 32)

/-- A team at its start (02/R49): launch, gang, TID, rank and core, and the fields of the descriptor. -/
def Team.start (launch gang tid rank core : Nat) (d : Desc) : Team :=
  { launch := launch, gang := gang, tid := tid, rank := rank, core := core, resident := true,
    phase := .running, blocked := false, lblocked := false, w := d.w, n := d.n0, rows := rowsFor d.n0 d.w,
    spc := d.sentry,
    s := ((Vector.replicate 64 (0 : Word)).set 2 (d.args.extractLsb' 0 32)).set 3
      (d.args.extractLsb' 32 32),
    resume := d.sentry, nfc := 0, fpstat := 0, mstat := 0, tcause := 0, tlpc := 0, tspc := 0,
    taddr := 0, tlog := 0, tseq := 0, fmt := 0, rkey := 0, mcr := 0, handler := d.handler,
    migctl := 0, tok := Vector.replicate 8 .start, cmdCtr := 0, softSeq := 0, wait := .none,
    savedWait := .none, shold := none, pend := [], sOrd := [], lOrd := [], lMark := 0, recMark := 0,
    fqHeld := none, fqGen := 0, regs := .start d.n0, wcodes := 0, slots := Vector.replicate 8 0,
    laneQ := [], blk := none, asideQ := [], held := none, fmtAside := 0, nested := false, pendL := none,
    away := 0, returned := [], vtrap := none, oplog := Vector.replicate 4 none, lastPage := [],
    early := [], low := d.n0, shrinks := [] }

def Team.blank : Team := { Team.start 0 0 0 0 0 .blank with resident := false, phase := .ended }

def State.team (s : State) (t : Nat) : Team := (s.teams[t]?).getD .blank
def State.launchOf (s : State) (t : Nat) : Launch := s.launch (s.team t).launch
def State.descOf (s : State) (t : Nat) : Desc := (s.launchOf t).desc
def State.partOf (s : State) (t : Nat) : Nat := (s.launchOf t).part
def State.gangOf (s : State) (t : Nat) : Gang := s.gang (s.team t).gang

/-- The block with its fields at the start of a block (02/R32 to R34). -/
def Blk.start (q : LQ) (w : Nat) (fmt : Word) : Blk :=
  { lq := q, lpc := q.index, fmt := fmt, path := Mask.full w, stack := [], staged := 0, ew := false,
    latch := Vector.replicate 4 [], chainCount := 0, chainHead := q.index, restart := false, redo := [], redoM7 := false,
    redoSseq := none, fetchHold := none, part := 0, stash := [], rest := none }

/-- Teams of a core that hold a slot, and visitors on it (01/R15, 14/R367). -/
def State.coreTeams (s : State) (c : Nat) : List Team :=
  s.teams.filter (fun t => t.resident && t.core == c)
def State.coreVisitors (s : State) (c : Nat) : List Visitor :=
  s.visitors.filter (fun v => v.alive && v.core == c)

/-- Free team slots and register rows of a core (01/R15). -/
def State.freeSlots (s : State) (c : Nat) : Nat :=
  16 - ((s.coreTeams c).length + (s.coreVisitors c).length)
def State.freeRows (s : State) (c : Nat) : Nat :=
  8192 - (((s.coreTeams c).map (·.rows)).sum + ((s.coreVisitors c).map (·.rows)).sum)

/-- Free scratchpad units of a cluster: what no resident gang and no quarantine holds (17/R433). -/
def State.freeUnits (s : State) (c : Nat) : Nat :=
  1024 - ((s.gangs.filter (fun g => (g.phase == .resident || g.phase == .halting) && g.cluster == c)).map
    (fun g => (s.launch g.launch).desc.spad)).sum - ((s.cluster c).quarantine.map (·.2)).sum

/-- Bytes of a gang's scratchpad space (07/R160). -/
def State.spadBytes (s : State) (g : Nat) : Nat := 4096 * (s.launch (s.gang g).launch).desc.spad

/-! ### Scopes (10/R269, R270) -/

/-- Whether work of a team runs on a die: its own, or a visitor's. -/
def State.runsOn (s : State) (u d : Nat) : Bool :=
  dieOfCore (s.team u).core == d || s.visitors.any (fun v => v.alive && v.cont.team == u && dieOfCore v.core == d)

/-- Whether an observer lies within a scope (the codes of R121) of team `t`, for an access issued on die `d`
(10/R269). -/
def State.within (s : State) (scope t d : Nat) (o : Observer) : Bool :=
  match o with
  | .team u =>
    if scope = 0 then t == u
    else if scope = 1 then (s.team t).gang == (s.team u).gang
    else if scope = 2 then s.runsOn u d
    else s.partOf t == s.partOf u
  | .job u =>
    if scope = 0 then t == u
    else if scope = 1 then (s.team t).gang == (s.team u).gang
    else if scope = 2 then dieOfCore (s.team u).core == d
    else s.partOf t == s.partOf u
  | .blend e => if scope < 2 then false else if scope = 2 then e == d else (s.part (s.partOf t)).hasDie e
  | .inbox e => scope == 2 && e == d
  | .distributor p => 3 ≤ scope && p == s.partOf t
  | .host | .firmware | .peer _ => 4 ≤ scope

/-- Whether a constraint of a team at a scope, on accesses issued on a die, binds this run (10/R270): every
constraint does when the run has no single observer, else those within whose scope the observer lies. -/
def State.binds (s : State) (scope t d : Nat) : Bool :=
  match s.observer with
  | none => true
  | some o => s.within scope t d o

end Sys2Proof.Machine
end

