-- ==== Sys2Proof/Machine/Translate.lean ====
section
/-!
DEFINITION. Translation (16/R411 to R423): the walk of the four levels of tables, the checks on an
entry, the permission of an access, and the caches of translations. Also what a physical address holds:
HBM4E, the device information page (17/R444), host memory behind a grant (18/R455).
-/

namespace Sys2Proof.Machine

/-! ### Physical ranges (16/R415) -/

def infoBase : Nat := 0x3FFFFFF0000
def hostBase : Nat := 0x40000000000
def hostEnd : Nat := 0x80000000000

/-- Whether `[pa, pa + n)` lies in populated HBM4E of a partition's dies (16/R415). -/
def Part.inHbm (p : Part) (pa n : Nat) : Bool :=
  let d := homeOf pa
  populated pa && p.hasDie d && pa % windowSize + n ≤ hbmSize

/-- Bytes of `[w, w + n)` that a grant covers. -/
def Grant.inside (g : Grant) (w n : Nat) : Nat := min (g.w + g.size) (w + n) - max g.w w

/-- Whether grants cover the whole of `[w, w + n)` of a partition's host window, each with write permission where that is
asked for (18/R455); two grants never overlap. -/
def Part.granted (p : Part) (w n : Nat) (write : Bool) : Bool :=
  (p.grants.map (·.inside w n)).sum == n && (!write || p.grants.all (fun g => g.write || g.inside w n == 0))

/-- The grant that covers `[w, w + n)` of a partition's host window (18/R455). -/
def Part.grantOf (p : Part) (w n : Nat) : Option Grant :=
  p.grants.find? (fun g => g.w ≤ w && w + n ≤ g.w + g.size)

/-- log2 of a partition's die count. -/
def sizeIndex (n : Nat) : Nat := if n = 1 then 0 else if n = 2 then 1 else if n = 4 then 2 else 3

/-- The effective ceiling of a budget (17/R447). -/
def Budget.eceil (b : Budget) : Word :=
  let m := if b.ceil.toNat < b.floor.toNat then b.floor else b.ceil
  if b.fuse.toNat < m.toNat then b.fuse else m

/-- Whether a budget is spent (17/R446). -/
def Budget.spent (b : Budget) : Bool := b.eceil.toNat ≤ b.used.toNat

/-- Adding to a budget's counter, which saturates (17/R445). -/
def Budget.add (b : Budget) (n : Nat) : Budget :=
  { b with used := BitVec.ofNat 32 (min (b.used.toNat + n) 0xFFFFFFFF) }

def State.spent (s : State) (p k : Nat) : Bool := (vget (s.part p).budgets k).spent

/-- Counting against a budget; BSTAT.EVER records the budgets that were spent (17/R445, R447). -/
def State.charge (s : State) (p k n : Nat) : State :=
  s.modPart p (fun P =>
    let b := (vget P.budgets k).add n
    { P with budgets := vmod P.budgets k (fun _ => b),
             ever := if b.spent then P.ever ||| BitVec.ofNat 6 (2 ^ k) else P.ever })

/-- The doubleword fields of the device information page (17/R444). -/
def State.infoPage (s : State) (p : Nat) : List Byte :=
  let P := s.part p
  let dieEntry (d : Nat) : List Byte :=
    if d < P.dieCount then
      let pd := P.dieFirst + d
      leBytes 8 (pd * 2 ^ 40 + (s.fused.toNat / 2 ^ (36 * pd)) % 2 ^ 36)
    else zeros 8
  let budget (k : Nat) : List Byte :=
    let b := vget P.budgets k
    w32le b.floor ++ w32le b.eceil
  let clusters := s.clustersOf p
  let coreEntry (c : Nat) : List Byte :=
    let lc := (clusters.filter (· < clusterOfCore c)).length
    leBytes 4 (2 ^ 31 + (dieOfCore c - P.dieFirst) * 2 ^ 28 + dieOfCore c * 2 ^ 25 +
      (c % 36) * 2 ^ 19 + (c % 36 / 4) * 2 ^ 15 + lc * 2 ^ 8)
  leBytes 4 0x50494447 ++ leBytes 2 1 ++ leBytes 1 P.dieCount ++ leBytes 1 p ++
    leBytes 4 (s.coresOf p).length ++ leBytes 4 clusters.length ++ leBytes 4 1750000000 ++
    leBytes 4 10000 ++ leBytes 4 (8192 * 65536 + 16) ++ leBytes 4 1024 ++
    (List.range 8).flatMap dieEntry ++ (List.range 6).flatMap budget ++ zeros (0x100 - 0x90) ++
    (s.coresOf p).flatMap coreEntry

/-- The bytes at a physical address of a partition's space. -/
def State.readPhys (s : State) (p pa n : Nat) : List Byte :=
  if infoBase ≤ pa && pa < hostBase then
    (List.range n).map (fun k => ((s.infoPage p)[pa + k - infoBase]?).getD 0)
  else s.mem.readN pa n

/-- Whether a read of `[lo, lo + n)` in a storage array meets an uncorrectable error (15/R399): unit code
of R401 and instance. -/
def State.isBad (s : State) (unit inst lo n : Nat) : Bool :=
  s.bad.any (fun b => b.unit == unit && b.inst == inst && overlaps b.lo b.len lo n)

/-- A write that covers the whole protected unit clears the error (15/R399). -/
def State.healed (s : State) (unit inst lo n : Nat) : State :=
  { s with bad := s.bad.filter (fun b =>
      !(b.unit == unit && b.inst == inst && lo ≤ b.lo && b.lo + b.len ≤ lo + n)) }

/-! ### Table entries (16/R413, R414) -/

/-- What a walk of one entry finds. -/
inductive PteKind where
  | invalid
  | malformed
  | pointer (next : Nat)
  | leaf (addr : Nat) (r w x visit : Bool) (refuse : Nat) (replica : Bool)
  deriving DecidableEq, Repr

/-- Size of the page that a leaf at a level maps, and of the table below a pointer (16/R411). -/
def pageSize (level : Nat) : Nat := if level = 2 then 2 ^ 30 else if level = 1 then 2 ^ 21 else 2 ^ 16
def tableAlign (level : Nat) : Nat :=
  if level = 3 then 65536 else if level = 2 then 131072 else if level = 1 then 4096 else 256
/-- Index bits of a level (16/R411). -/
def levelIndex (va level : Nat) : Nat :=
  if level = 3 then bitsOf va 56 44 else if level = 2 then bitsOf va 43 30
  else if level = 1 then bitsOf va 29 21 else bitsOf va 20 16

/-- Whether a frame of `n` bytes is allowed with these attributes (16/R415, 18/R455). -/
def Part.frameOk (p : Part) (fa n : Nat) (w x visit : Bool) : Bool :=
  if fa < 8 * windowSize then p.inHbm fa n
  else if fa = infoBase then n = 65536 && !w && !x && !visit
  else if hostBase ≤ fa && fa + n ≤ hostEnd then
    !visit && p.granted (fa - hostBase) n w
  else false

/-- Reading a table entry at a level (16/R413, R414). -/
def Part.pte (p : Part) (level : Nat) (e : Nat) : PteKind :=
  let bit (k : Nat) : Bool := bitsOf e k k = 1
  let addr := bitsOf e 51 8 * 256
  let refuse := bitsOf e 7 6
  if !bit 0 then .invalid
  else if bitsOf e 63 53 != 0 || refuse = 3 then .malformed
  else if !bit 1 then
    if level = 0 || bitsOf e 7 2 != 0 || bit 52 || addr % tableAlign (level - 1) != 0 ||
        !p.inHbm addr (tableAlign (level - 1)) then .malformed
    else .pointer addr
  else if level = 3 || (bit 3 && !bit 2) || (bit 5 && bit 52) || (refuse != 0 && !bit 5) then .malformed
  else if bit 52 then
    if addr % 256 != 0 || !p.inHbm addr 64 then .malformed
    else .leaf addr (bit 2) (bit 3) (bit 4) false 0 true
  else if addr % pageSize level != 0 || !p.frameOk addr (pageSize level) (bit 3) (bit 4) (bit 5) then
    .malformed
  else .leaf addr (bit 2) (bit 3) (bit 4) (bit 5) refuse false

/-- The members of a replica descriptor (16/R422): local, port, node, frame; `none` when it breaks the
rule. -/
def Part.replicaSet (p : Part) (size : Nat) (w x : Bool) (img : List Byte) :
    Option (List (Bool × Nat × Nat × Nat)) :=
  let raw := (List.range 8).map (fun k => natAt img (8 * k) 8) |>.filter (fun e => bitsOf e 63 63 = 1)
  let mem := raw.map (fun e =>
    (bitsOf e 62 62 == 1, bitsOf e 61 58, bitsOf e 57 52, bitsOf e 51 16 * 65536))
  let ok := raw.all (fun e =>
    bitsOf e 15 0 == 0 && bitsOf e 51 16 * 65536 % size == 0 &&
      (bitsOf e 62 62 == 0 || (bitsOf e 61 52 == 0 && p.frameOk (bitsOf e 51 16 * 65536) size w x false)))
  let locals := (mem.filter (·.1)).length
  if mem.isEmpty || 1 < locals || !ok then none else some mem

/-- Whether a virtual address is canonical (16/R411). -/
def canonical (va : DWord) : Bool :=
  let hi := bitsOf va.toNat 63 56
  hi = 0 || hi = 255

/-- The storage of HBM4E or of the home die's L2 in which a read at a physical address meets an uncorrectable error
(15/R399): the unit code of R401. -/
def State.badMem (s : State) (pa n : Nat) : Option Nat :=
  if s.isBad 0 0 pa n then some 0 else if s.isBad 1 (homeOf pa) pa n then some 1 else none

/-- A walk at its beginning (16/R411, R412): of the rows of R417 that hold, the one with the lowest cause is reported
(05/R466). A ROOT that names no populated HBM4E of the partition is walked like any other, wherever it lies (DESIGN CHOICE:
01/R20, R415 forbid it and say nothing of what follows; log entry 124). -/
def Part.walkStart (P : Part) (cur : Cur) (p : Nat) (va : DWord) : TWalk :=
  let root := P.ptroot.toNat
  { cur := cur, part := p, page := va.toNat / 65536, next := (3, bitsOf root 51 16 * 65536), leaf := none, reads := [],
    result := if !canonical va then some (.fail .access false)
              else if bitsOf root 0 0 = 0 then some (.fail .page false) else none }

/-- A walk reads its next entry, or the descriptor of a replica set (16/R411, R413, R417, R420, R422). -/
def State.walkStep (s : State) (k : TWalk) : TWalk :=
  if k.result.isSome then k
  else
    let P := s.part k.part
    match k.leaf with
    | some t =>
      let k := { k with reads := k.reads ++ [t.frame] }
      if (s.badMem t.frame 64).isSome then { k with result := some (.fail .deviceError false) }
      else
        match P.replicaSet t.size t.w t.x (s.mem.readN t.frame 64) with
        | none => { k with result := some (.fail .access false) }
        | some ms => { k with result := some (.ok { t with members := ms }) }
    | none =>
      let level := k.next.1
      let va := k.page * 65536
      let ea := k.next.2 + 8 * levelIndex va level
      let k := { k with reads := k.reads ++ [ea] }
      if (s.badMem ea 8).isSome then { k with result := some (.fail .deviceError false) }
      else
        match P.pte level (leNat (s.mem.readN ea 8)) with
        | .invalid => { k with result := some (.fail .page true) }
        | .malformed => { k with result := some (.fail .access false) }
        | .pointer next => { k with next := (level - 1, next) }
        | .leaf addr r w x visit refuse replica =>
          let size := pageSize level
          let t : Tlb := ⟨k.part, va / size * size, size, addr, r, w, x, visit, refuse, [], replica⟩
          if replica then { k with leaf := some t } else { k with result := some (.ok t) }

/-- The rest of a walk, read at once: at most four levels and a descriptor. -/
def State.walkOn (s : State) (k : TWalk) : TWalk :=
  (List.range 5).foldl (fun k _ => s.walkStep k) k

/-- A walk that is begun and ended at once, with the addresses of the entries it reads. -/
def State.walk (s : State) (p : Nat) (va : DWord) : WEnd × List Nat :=
  let k := s.walkOn ((s.part p).walkStart s.cur p va)
  (k.result.getD (.fail .access false), k.reads)

/-- Whether a walk in the list is that of the current stream for a page, and has ended. -/
def State.walkReady (s : State) (p : Nat) (va : DWord) (k : TWalk) : Bool :=
  k.cur == s.cur && k.part == p && k.page == va.toNat / 65536 && k.result.isSome

/-! ### Permissions and caches -/

/-- What an access needs of its leaf (16/R416). -/
structure Need where
  r : Bool := false
  w : Bool := false
  x : Bool := false
  /-- an atomic that R425 does not allow on a REPLICA page -/
  atom : Bool := false
  deriving DecidableEq, Repr

def Tlb.permits (t : Tlb) (n : Need) : Bool := (!n.r || t.r) && (!n.w || t.w) && (!n.x || t.x)

def Tlb.covers (t : Tlb) (p : Nat) (va : DWord) : Bool :=
  t.part == p && t.vbase ≤ va.toNat && va.toNat < t.vbase + t.size

/-- Whether a walk has ended in a translation that permits an access. -/
def TWalk.serves (k : TWalk) (n : Need) : Bool := match k.result with | some (.ok t) => t.permits n | _ => false

/-- The walk that serves an access: one whose entries have been read at earlier steps, or one that reads them now (16/R420).
The first is used up; one that has met an entry that denies the access is not used, since that entry may have been made
valid meanwhile without a sweep (16/R419). -/
def State.walkFor (s : State) (p : Nat) (va : DWord) (n : Need) : WEnd × List Nat × State :=
  let s' := { s with walks := s.walks.filter (fun x => !s.walkReady p va x) }
  match s.walks.find? (fun k => s.walkReady p va k && k.serves n) with
  | some k => (k.result.getD (.fail .access false), k.reads, s')
  | none =>
    let w := s.walk p va
    (w.1, w.2, { s' with touched := w.2.map (fun a => (.home (homeOf a), a, 8)) ++ s'.touched })

/-- A walk reads its next entry ahead of the access that it serves, unless an earlier access among some is to come before
that read: `held` says so of the entries read. -/
def State.walkAhead (s : State) (cur : Cur) (p : Nat) (va : DWord) (held : List Nat → Bool) : State :=
  let mine (k : TWalk) : Bool := k.cur == cur && k.part == p && k.page == va.toNat / 65536
  let next (k : TWalk) : TWalk := let z := s.walkStep k; if held z.reads then k else z
  if s.walks.any mine then { s with walks := s.walks.map (fun k => if mine k then next k else k) }
  else { s with walks := next ((s.part p).walkStart cur p va) :: s.walks }

/-- The physical address that a translation gives, at the LOCAL member of a replica set. -/
def Tlb.pa (t : Tlb) (va : DWord) : Nat :=
  let off := va.toNat - t.vbase
  match t.members.find? (·.1) with
  | some m => m.2.2.2 + off
  | none => t.frame + off

/-- Whether no member of a replica set is in the module: its reads return free values (16/R423; log entry 5). -/
def Tlb.away (t : Tlb) : Bool := t.replica && !t.members.any (·.1)

def findTlb (l : List Tlb) (p : Nat) (va : DWord) : Option Tlb := l.find? (·.covers p va)
def dropTlb (l : List Tlb) (p : Nat) (va : DWord) : List Tlb := l.filter (fun t => !t.covers p va)

/-- Filling a cache of a size: the oldest entry leaves when it is full. -/
def fillTlb (l : List Tlb) (size : Nat) (t : Tlb) : List Tlb :=
  (t :: l.filter (fun u => !(u.part == t.part && u.vbase == t.vbase && u.size == t.size))).take size

/-- Where an access at a physical address is performed (16/R415, R423), and its address there. The
device information page is served by the base die, numbered 8. A part of the host window whose grant has been revoked
reaches nothing (18/R452, R455; log entry 100). -/
def Part.place (p : Part) (pa n : Nat) : Dest × Nat :=
  if hostBase ≤ pa then
    match p.grantOf (pa - hostBase) n with
    | some g => (.host, g.host + (pa - hostBase - g.w))
    | none => (.gone, pa)
  else if infoBase ≤ pa then (.home 8, pa)
  else (.home (homeOf pa), pa)

/-- Where a read at a virtual address is performed: at the LOCAL member of a replica set, and nowhere when it has none. -/
def Part.at (p : Part) (t : Tlb) (va : DWord) (n : Nat) : Dest × Nat :=
  if t.away then (.gone, va.toNat) else p.place (t.pa va) n

end Sys2Proof.Machine
end

