-- ==== Sys2Proof/Machine/Entry.lean ====
section
/-!
DEFINITION. The ordering machine's queues (10/R262 to R274): entering an access, which entries are
earlier accesses of an issue point, and what an order lets an issue point enter next. The forward
queues are one list in order of entry; an entry's queue is named by its team, die and destination.
-/

namespace Sys2Proof.Machine

/-! ### Entries -/

def Acc.isLoad (a : Acc) : Bool :=
  match a with
  | .load _ | .softLd _ _ => true
  | _ => false

def Acc.isAtom (a : Acc) : Bool :=
  match a with
  | .atom .. => true
  | _ => false

def Acc.isStore (a : Acc) : Bool := !a.isLoad && !a.isAtom

/-- What goes to a steep buffer, and to no address (13/R350). -/
def Acc.isSteep (a : Acc) : Bool :=
  match a with
  | .record .. | .close .. => true
  | _ => false

/-- Bytes that an entry covers where it is performed. -/
def Acc.len (a : Acc) : Nat :=
  match a with
  | .load n => n
  | .softLd _ _ => 4
  | .store bs | .mcast bs => bs.length
  | .atom _ n _ _ => n
  | _ => 0

/-- Entries delivered or not, that have not been performed. -/
def State.flight (s : State) : List Entry := s.fwd ++ s.arr

/-- Whether an entry has not been performed. -/
def State.isOut (s : State) (id : Nat) : Bool := s.flight.any (·.id == id)

/-- Whether an entry that has not been performed counts at a scope: a store or reduction that a GFL peer has
still to perform, and a store that host memory has still to accept, count at system scope only (10/R271). What
returns a value counts until it has. -/
def Entry.counts (e : Entry) (scope : Nat) : Bool :=
  match e.dest with
  | .peer _ _ => e.op.isLoad || 4 ≤ scope
  | .host => !e.op.isStore || 4 ≤ scope
  | _ => true

def isS (i : Issuer) (t : Nat) : Bool := i == .s t
def isL (i : Issuer) (t : Nat) : Bool := i == .l t

/-- Whether an issue point is that of a team's L-stream, or of a visitor of the team. -/
def isLV (e : Entry) (t : Nat) : Bool :=
  match e.owner with
  | .l u => u == t
  | .v _ => e.team == some t
  | _ => false

/-- The entries in flight that are earlier accesses of a team's S-issue point: its own, and those of
the blocks that it has waited for, their visitors' among them (10/R274). -/
def State.sEarlier (s : State) (t : Nat) : List Entry :=
  s.flight.filter (fun e => isS e.owner t || (isLV e t && e.id < (s.team t).lMark))

/-- The entries in flight that are earlier accesses of the L-issue point in a block: its own, and the
S accesses before the block's `lrun` (10/R274). -/
def State.lEarlier (s : State) (t : Nat) (sMark : Nat) : List Entry :=
  s.flight.filter (fun e => isL e.owner t || (isS e.owner t && e.id < sMark))

/-- The entries in flight of a visitor's issue point. -/
def State.vEarlier (s : State) (v : Nat) : List Entry :=
  s.flight.filter (fun e => e.owner == .v v)

/-- Whether some accesses of a team have been performed at a scope, as far as the run's observer lies within it of
the die where each was issued (10/R269 to R271). -/
def State.settled (s : State) (t scope : Nat) (es : List Entry) : Bool :=
  es.all (fun e => !(e.counts scope && s.binds scope t e.die))

/-- Whether a release of the S-stream at a scope may take place (10/R273): every earlier access has been
performed. -/
def State.sReleased (s : State) (t scope : Nat) : Bool := s.settled t scope (s.sEarlier t)

/-- The same for a block of the L-stream. -/
def State.lReleased (s : State) (t sMark scope : Nat) : Bool := s.settled t scope (s.lEarlier t sMark)

/-! ### Orders (10/R272) -/

/-- Whether an order has been met. -/
def State.met (s : State) (t : Nat) (o : Ord) : Bool :=
  s.settled t o.scope (s.flight.filter (fun e => o.waits.contains e.id))

/-- Whether orders let a load, or a store or atomic, be entered. -/
def State.mayEnter (s : State) (t : Nat) (os : List Ord) (load store : Bool) : Bool :=
  os.all (fun o => s.met t o || !((load && o.loads) || (store && o.stores)))

/-- Orders that still wait for an entry. -/
def State.pruneOrd (s : State) (os : List Ord) : List Ord :=
  os.filter (fun o => o.waits.any s.isOut)

/-- The order that a fence leaves: acquire 1, release 2, full 3 (05/R121, 10/R272). -/
def fenceOrd (order scope : Nat) (es : List Entry) : Ord :=
  if order = 1 then
    { waits := (es.filter (fun e => !e.op.isStore)).map (·.id), scope := scope, loads := true,
      stores := true }
  else if order = 2 then
    { waits := es.map (·.id), scope := scope, loads := false, stores := true }
  else { waits := es.map (·.id), scope := scope, loads := true, stores := true }

/-- The order that an acquire access leaves: later accesses wait for its own entries. -/
def acquireOrd (scope : Nat) (ids : List Nat) : Ord :=
  { waits := ids, scope := scope, loads := true, stores := true }

/-! ### Entering -/

/-- Appending an entry to its forward queue, under a number of its own. -/
def State.enter (s : State) (owner : Issuer) (team : Option Nat) (part die : Nat) (dest : Dest)
    (addr : Nat) (va : DWord) (op : Acc) (ret : Ret) (lane : Option Nat) (rpage : Option Nat := none) : State :=
  { s with
    fwd := s.fwd ++ [{ id := s.nextId, owner := owner, team := team, part := part, die := die,
                       dest := dest, addr := addr, va := va, op := op, ret := ret, lane := lane, rpage := rpage }],
    nextId := s.nextId + 1 }

/-- The ports of the peer members of a replica set, each once, with the members behind it. -/
def peerPorts (ms : List (Bool × Nat × Nat × Nat)) : List (Nat × List (Nat × Nat)) :=
  (List.range 16).filterMap (fun p =>
    let here := ms.filter (fun m => !m.1 && m.2.1 == p)
    if here.isEmpty then none else some (p, here.map (fun m => (m.2.2.1, m.2.2.2))))

/-- Entering one line part of a global access: at the home of its address, or, for a store or reduction
to a REPLICA page, at every member (16/R423, R425). A load of a REPLICA page without a LOCAL member has
no member in the module to be performed at, and never crosses a link: it returns free values. -/
def State.enterGlobal (s : State) (owner : Issuer) (team : Option Nat) (part die : Nat) (t : Tlb)
    (va : DWord) (op : Acc) (ret : Ret) (lane : Option Nat) : State :=
  let P := s.part part
  let pa := t.pa va
  let off := va.toNat - t.vbase
  let page : Option Nat := if t.replica && !op.isLoad then some t.vbase else none
  let here (s : State) : State :=
    let d := P.place pa op.len
    s.enter owner team part die d.1 d.2 va op ret lane page
  if t.replica then
    let hasLocal := t.members.any (·.1)
    let s := if hasLocal then here s else s
    if op.isLoad then
      if hasLocal then s else s.enter owner team part die .gone va.toNat va op ret lane
    else
      (peerPorts t.members).foldl (fun s pm =>
        s.enter owner team part die (.peer pm.1 (pm.2.map (fun m => (m.1, m.2 + off))))
          (if hasLocal then pa else 0) va op .none lane page) s
  else here s

/-- The parts of `n` bytes at an address that lie in one 64-byte line each: offset and length
(08/R204, 10/R264). -/
def lineParts (fuel a off n : Nat) : List (Nat × Nat) :=
  match fuel with
  | 0 => []
  | f + 1 =>
    if n = 0 then []
    else
      let l := min n (64 - a % 64)
      (off, l) :: lineParts f (a + l) (off + l) (n - l)

/-! ### Scratchpad -/

/-- Whether bytes of a gang's scratchpad overlap a live barrier word (07/R182, R188). -/
def Gang.liveAt (g : Gang) (a n : Nat) : Bool := g.live.any (fun w => overlaps w 8 a n)

/-- Writing scratchpad bytes of a gang. -/
def State.writeSpad (s : State) (g a : Nat) (bs : List Byte) : State :=
  s.modGang g (fun G => { G with spad := G.spad.writeN a bs })

/-! ### PTE lines -/

/-- The entries that a walk for a team's stream on a die comes after, where they go to its lines: those in the team's forward
queues there, into which its S- and L-issue points and its visitors enter (10/R262, R265), and those that have arrived at
the homes (R266). -/
def State.teamQueue (s : State) (t die : Nat) : List Entry :=
  s.fwd.filter (fun e => e.team == some t && e.die == die) ++ s.arr

/-- Whether an entry of some queues targets the line of a table entry that a walk reads: the walk's loads enter
behind it, and so read what it leaves (16/R420, 10/R265, R266). -/
def walkBlocked (es : List Entry) (reads : List Nat) : Bool :=
  es.any (fun e =>
    match e.dest with
    | .home _ => !e.op.isLoad && !e.op.isSteep && reads.any (fun a => a / 64 == e.addr / 64)
    | _ => false)

/-! ### Loads performed ahead (10/R268) -/

/-- Whether an entry goes to the line of a load performed ahead. -/
def Early.meets (x : Early) (e : Entry) : Bool := e.dest == x.dest && !e.op.isSteep && e.addr / 64 == x.addr / 64

/-- What is left of the loads performed ahead when one of them is used: those that were performed before it at its line are
given up. The latest stands first. -/
def earlyAfter (l : List Early) (x : Early) : List Early :=
  match l with
  | [] => []
  | y :: r => if y == x then r.filter (fun z => !(z.dest == x.dest && z.addr / 64 == x.addr / 64)) else y :: earlyAfter r x

/-- What a step has entered since a number makes of the loads performed ahead: those of a team whose line one of its
own accesses goes to are given up, as accesses to one line are performed in program order (10/R268). -/
def State.dropEarly (s : State) (mark : Nat) : State :=
  if s.teams.all (fun (T : Team) => T.early.isEmpty) then s
  else
    { s with teams := s.teams.zipIdx.map (fun (x : Team × Nat) =>
        { x.1 with early := x.1.early.filter (fun y =>
            !s.fwd.any (fun e => mark ≤ e.id && isS e.owner x.2 && y.meets e)) }) }

/-- Whether an instruction's access is a release, whose walk comes after every earlier access too (10/R272, 16/R420). -/
def releases (i : Instr) : Bool :=
  match i with
  | .atom _ _ _ o _ _ | .atoms _ _ _ o _ _ => o.getLsbD 1
  | .vld f | .vst f | .vatom f => f.md.getLsbD 3
  | _ => false

/-- A stream that has moved has no walk begun ahead: the next is of another access (16/R420). -/
def State.endWalks (s : State) (cur : Cur) : State :=
  if s.walks.isEmpty then s else { s with walks := s.walks.filter (fun k => k.cur != cur) }

/-- Whether an S instruction lets a load behind it be performed before it completes (10/R268): it is no acquire, no wait for
lane work, whose accesses come first (02/R36, 10/R274), and no instruction of the system. -/
def passesLoads (i : Instr) : Bool :=
  match i with
  | .atom _ _ _ o _ _ | .atoms _ _ _ o _ _ => !o.getLsbD 0
  | .fence o _ => o == 2
  | .wrx _ n => n != 0x10
  | .lwait | .lget _ _ | .fqpop _ => false
  | .rfence | .csync _ _ | .twait _ | .bwait _ _ _ | .steepWait _ _ | .tresume | .tresumeAt _ | .endTeam | .svc _
  | .eret | .tinval _ | .tsync | .ctxsave _ | .ctxload _ | .sysw _ _ => false
  | _ => true

/-- The load performed ahead at a place. -/
def Team.earlyAt (T : Team) (d : Dest) (a n : Nat) : Option Early :=
  T.early.find? (fun x => x.dest == d && x.addr == a && x.bytes.length == n)

/-- What an S instruction leaves of the loads performed ahead of it. -/
def State.keepEarly (s : State) (t : Nat) (i : Option Instr) : State :=
  if (match i with | some i => passesLoads i | none => false) then s
  else s.modTeam t (fun T => { T with early := [] })

end Sys2Proof.Machine
end

