-- ==== Sys2Proof/Machine/Record.lean ====
section
/-!
DEFINITION. Transfer records of the kettle (11/R289 to R298): their fields, the checks at fetch, and their footprints.
-/

namespace Sys2Proof.Machine

/-! ### Transfer records (R289 to R295) -/

/-- The control word of a record. -/
def kCtl (b : List Byte) : Nat := natAt b 8 4
def kOwn (b : List Byte) : Bool := bitsOf (kCtl b) 31 31 == 1
def kType (b : List Byte) : Nat := bitsOf (kCtl b) 30 28
def kSsp (b : List Byte) : Nat := bitsOf (kCtl b) 27 26
def kDsp (b : List Byte) : Nat := bitsOf (kCtl b) 25 24
def kBar (b : List Byte) : Bool := bitsOf (kCtl b) 23 23 == 1
def kNext (b : List Byte) : DWord := dwordAt b 0
def kSrc (b : List Byte) : DWord := dwordAt b 0x10
def kDst (b : List Byte) : DWord := dwordAt b 0x18
def kBarrier (b : List Byte) : Nat := natAt b 0x38 8

/-- BYTES of LINEAR and FILL, COUNT of GATHER: the word at 0x20. -/
def kCount (b : List Byte) : Nat := natAt b 0x20 4

-- TILE
def kRows (b : List Byte) : Nat := natAt b 0x20 2
def kCols (b : List Byte) : Nat := natAt b 0x22 2
def kHalo (b : List Byte) : Nat := bitsOf (natAt b 0x2C 4) 3 0
def kSstride (b : List Byte) : Nat := if kType b = 2 then natAt b 0x30 4 else natAt b 0x24 4
def kDstride (b : List Byte) : Nat := natAt b 0x28 4
def kRt (b : List Byte) : Nat := kRows b + 2 * kHalo b
def kCt (b : List Byte) : Nat := kCols b + 2 * kHalo b
/-- The element size of a TILE, the row size of a GATHER. -/
def kElem (b : List Byte) : Nat :=
  if kType b = 1 then 2 ^ bitsOf (natAt b 0x2C 4) 5 4
  else 4 * (bitsOf (natAt b 0x24 4) 5 0 + 1)

-- GATHER
def kIsp (b : List Byte) : Nat := bitsOf (natAt b 0x24 4) 7 6
def kIndex (b : List Byte) : DWord := dwordAt b 0x28
def kSlimit (b : List Byte) : Nat := natAt b 0x34 4

/-- The byte count of a record. -/
def kBytes (b : List Byte) : Nat :=
  match kType b with
  | 1 => kRt b * kCt b * kElem b
  | 2 => kCount b * kElem b
  | 3 => 0
  | _ => kCount b

/-- The units of work of a record: bytes, elements, the 4-byte parts of rows (R294), or the one arrival. -/
def kUnits (b : List Byte) : Nat :=
  match kType b with
  | 1 => kRt b * kCt b
  | 2 => kCount b * (kElem b / 4)
  | 3 => 1
  | _ => kCount b

/-! ### Footprints (R298, 12/R322) -/

/-- A piece of a footprint: a byte range of a space (0 global, 1 the gang's scratchpad, 2 the B-store), or a
rectangle of an accumulator tile. -/
inductive Extent where
  | range (space : Nat) (lo : DWord) (len : Nat) (write : Bool)
  | acc (tile r0 rows c0 cols : Nat) (write : Bool)
  deriving DecidableEq, Repr

/-- Whether two ranges modulo 2^64 share a byte. -/
def wrapOverlap (a : DWord) (n : Nat) (b : DWord) (m : Nat) : Bool :=
  n != 0 && m != 0 && (decide ((a - b).toNat < m) || decide ((b - a).toNat < n))

/-- Whether two pieces overlap and either side writes the overlap (10/R277). -/
def Extent.clash (x y : Extent) : Bool :=
  match x, y with
  | .range s a n w, .range t b m v => s == t && wrapOverlap a n b m && (w || v)
  | .acc s a n b m w, .acc t c k d l v => s == t && overlaps a n c k && overlaps b m d l && (w || v)
  | _, _ => false

def clashes (xs ys : List Extent) : Bool := xs.any (fun x => ys.any x.clash)

/-- The footprint of a record (R298). -/
def kFootprint (b : List Byte) : List Extent :=
  let e := kElem b
  match kType b with
  | 0 => [.range (kSsp b) (kSrc b) (kCount b) false, .range (kDsp b) (kDst b) (kCount b) true]
  | 4 => [.range (kDsp b) (kDst b) (kCount b) true]
  | 1 =>
    [.range (kSsp b) (kSrc b - BitVec.ofNat 64 (kHalo b * kSstride b + kHalo b * e))
      ((kRt b - 1) * kSstride b + kCt b * e) false,
     .range (kDsp b) (kDst b) ((kRt b - 1) * kDstride b + kCt b * e) true]
  | 2 =>
    [.range (kSsp b) (kSrc b) ((kSlimit b - 1) * kSstride b + e) false,
     .range (kIsp b) (kIndex b) (4 * kCount b) false,
     .range (kDsp b) (kDst b) (kCount b * e) true]
  | _ => [.range 1 (BitVec.ofNat 64 (kBarrier b)) 8 true]

def Extent.isWrite (x : Extent) : Bool :=
  match x with
  | .range _ _ _ w => w
  | .acc _ _ _ _ _ w => w

/-- The range that a record enters into the scoreboard (10/R278): its write range when DSP = 1. -/
def kRange (b : List Byte) : Option (Nat × Nat) :=
  if kType b = 3 || kDsp b != 1 then none
  else
    match (kFootprint b).find? Extent.isWrite with
    | some (.range _ lo n _) => some (lo.toNat, n)
    | _ => none

/-- The limits of a type's own fields (R292 to R295). -/
def kFieldsOk (b : List Byte) : Bool :=
  let z (off n : Nat) : Bool := natAt b off n = 0
  let al (a : DWord) (e : Nat) : Bool := a.toNat % e = 0
  let e := kElem b
  match kType b with
  | 0 => 1 ≤ kCount b && z 0x24 20
  | 4 => 1 ≤ kCount b && z 0x24 4 && z 0x30 8 && kSrc b = 0 && kSsp b = 0
  | 1 =>
    1 ≤ kRows b && 1 ≤ kCols b && kSstride b % e = 0 && kDstride b % e = 0 && kCt b * e ≤ kDstride b &&
      bitsOf (natAt b 0x2C 4) 31 10 = 0 && z 0x30 8 && al (kSrc b) e && al (kDst b) e
  | 2 =>
    1 ≤ kCount b && kCount b ≤ 1048576 && bitsOf (natAt b 0x24 4) 31 8 = 0 && kIsp b < 2 &&
      al (kIndex b) 4 && kSstride b % 4 = 0 && 1 ≤ kSlimit b && al (kSrc b) 4 && al (kDst b) 4
  | 3 =>
    1 ≤ kCount b && kCount b ≤ 1023 && z 0x24 20 && kBar b && kSrc b = 0 && kDst b = 0 && kSsp b = 0 &&
      kDsp b = 0
  | _ => false

/-- The checks at fetch (R296), for a gang with some bytes of scratchpad. -/
def kOk (b : List Byte) (spad : Nat) : Bool :=
  kOwn b && bitsOf (kCtl b) 22 0 = 0 && natAt b 0x0C 4 = 0 && kSsp b < 2 && kDsp b < 2 && kFieldsOk b &&
    (kNext b).toNat % 64 = 0 && kBytes b ≤ 16777216 &&
    (if kBar b then kBarrier b % 8 = 0 && kBarrier b + 8 ≤ spad else kBarrier b = 0) &&
    (kType b = 3 ||
      !clashes ((kFootprint b).filter (fun x => !x.isWrite)) ((kFootprint b).filter Extent.isWrite))

end Sys2Proof.Machine
end

