-- ==== Sys2Proof/Machine/Queue.lean ====
section
/-!
DEFINITION. The queues of the ordering machine (10/R262, R266, R278, R280): which entries stand in one forward queue, which
meet at a place and line, and which of those that have arrived wait there.
-/

namespace Sys2Proof.Machine

/-! ### Forward queues (R262) -/

/-- Whether two destinations are one: the peers behind a port are reached through it (R262; log entry 102). -/
def Dest.same (a b : Dest) : Bool :=
  match a, b with
  | .peer p _, .peer q _ => p == q
  | _, _ => a == b

/-- Whether two entries come from one source: a team's issue points on a die, a port, a unit's chain, job or apply, wherever
it is resumed (R262, 16/R426). -/
def Entry.sameSource (a b : Entry) : Bool :=
  match a.owner, b.owner with
  | .unit x _, .unit y _ => x == y
  | x, y => a.team == b.team && a.die == b.die && (a.team.isSome || x == y)

/-- Whether two entries stand in one forward queue: that of a source and a destination (R262). -/
def Entry.sameQueue (a b : Entry) : Bool := a.sameSource b && a.dest.same b.dest

/-! ### Order at a place (R266, R278, R280) -/

/-- The caddies of a set. -/
def State.caddies (s : State) (set : Nat) : List Caddy :=
  match s.caddySets[set]? with | some S => S.caddies | none => []

/-- Whether an entry reads or writes memory at a home, and the lines there are those of physical addresses. -/
def Entry.atHome (e : Entry) : Bool := match e.dest with | .home _ => true | _ => false

/-- Whether two entries are performed at one place and line. -/
def Entry.meets (a b : Entry) : Bool :=
  (a.dest == b.dest || (a.atHome && b.atHome)) && a.addr / 64 == b.addr / 64

/-- The node that a port's request came from. -/
def Entry.askedBy (e : Entry) : Option (BitVec 6) := match e.ret with | .gfl _ _ n => some n | _ => none

/-- Whether two stores or reductions of one source go to one REPLICA page: a member performs them in the order in which
the source entered them (16/R426, R431). -/
def Entry.sharesPage (a b : Entry) : Bool :=
  a.rpage.isSome && a.rpage == b.rpage && a.sameSource b && a.askedBy == b.askedBy

/-- The destination ranges in a gang's scratchpad that the scoreboard holds (10/R278): those of records that have begun and
have not retired. -/
def State.heldRanges (s : State) (g : Nat) : List (Nat × Nat) :=
  let c := (s.gang g).cluster
  (List.range 8).flatMap (fun ch =>
    (s.chan c ch).flatMap (fun k =>
      if k.gang == g then
        k.recs.filterMap (fun r => if r.ranged && !r.retired then kRange r.image else none)
      else []))

/-- Whether the range scoreboard of a cluster holds a scratchpad access (R278). -/
def State.scoreHeld (s : State) (e : Entry) : Bool :=
  match e.dest with
  | .bank g => (s.heldRanges g).any (fun r => overlaps r.1 r.2 e.addr e.op.len)
  | _ => false

/-- Whether the apply of a caddy is under way: the soft loads of it are held (R280). -/
def State.applying (s : State) (op : Acc) : Bool :=
  match op with
  | .softLd set k =>
    (match (s.caddies set)[k]? with
     | some c => match c.apply with | some a => a.begun | none => false
     | none => false)
  | _ => false

/-- The entries of a list that wait at the scoreboard or for an apply: those that are held, and those behind one of their own
forward queue for its line. Entries of other queues pass them (R266, R278, R280). -/
def State.waiting (s : State) (before es : List Entry) : List Entry :=
  match es with
  | [] => before
  | e :: r =>
    let w := s.scoreHeld e || s.applying e.op || before.any (fun b => b.sameQueue e && b.meets e)
    State.waiting s (if w then before ++ [e] else before) r

/-- Whether an entry may be performed after those that arrived before it: each of those that it meets waits at the
scoreboard or for an apply, and it does not; none is an earlier one of its source for its REPLICA page. -/
def State.mayPerform (s : State) (n : Nat) (e : Entry) : Bool :=
  let prior := s.arr.take n
  let held := s.waiting [] (prior ++ [e])
  !held.any (·.id == e.id) && prior.all (fun p => (!p.meets e || held.any (·.id == p.id)) && !p.sharesPage e)

/-! ### The arbiter of a PCIe link (17/R447) -/

/-- Whether a budget's counter is below its floor, so that its requests come first. -/
def State.belowFloor (s : State) (p k : Nat) : Bool :=
  let b := vget (s.part p).budgets k
  decide (b.used.toNat < b.floor.toNat)

/-- Whether an access to host memory is held by its partition's budget (17/R445). -/
def State.hostSpent (s : State) (e : Entry) : Bool := e.dest == .host && s.spent e.part 4

/-- The arbiter of a PCIe link serves `x` before `e`: by floors first, then by age. -/
def State.servedFirst (s : State) (x e : Entry) : Bool :=
  (s.part x.part).link == (s.part e.part).link &&
    (if s.belowFloor x.part 4 == s.belowFloor e.part 4 then decide (x.id < e.id) else s.belowFloor x.part 4)

/-- Whether an access to host memory has its turn at the link: none that may cross stands before it. -/
def State.linkTurn (s : State) (e : Entry) : Bool :=
  e.dest != .host ||
    s.arr.zipIdx.all (fun x => x.1.dest != .host || !s.servedFirst x.1 e || !s.mayPerform x.2 x.1 || s.hostSpent x.1)

/-- Whether an access that waits at a partition's link, and may cross, comes before a transfer that the partition begins now: it is
older, and a floor does not put the partition first. -/
def State.linkTaken (s : State) (p : Nat) : Bool :=
  s.arr.zipIdx.any (fun x => x.1.dest == .host && (s.part x.1.part).link == (s.part p).link && s.mayPerform x.2 x.1 &&
    !s.hostSpent x.1 && (s.belowFloor x.1.part 4 || !s.belowFloor p 4))

/-- Whether a partition may begin no transfer over PCIe now: its budget is spent (17/R445), or its link serves an access first. -/
def State.linkShut (s : State) (p : Nat) : Bool := s.spent p 4 || s.linkTaken p

/-! ### The accesses of units (R267, R276) -/

/-- Whether bytes at a place lie in a line for which an entry has arrived that has not been performed and does not wait: a
unit's access that arrives now comes after it (DEDUCED from R266, R267: log entry 135). -/
def State.lineBusy (s : State) (d : Dest) (a n : Nat) : Bool :=
  !s.arr.isEmpty &&
    (let held := s.waiting [] s.arr
     s.arr.any (fun e => (e.dest == d || (e.atHome && (match d with | .home _ => true | _ => false))) &&
       a / 64 ≤ e.addr / 64 && e.addr / 64 ≤ (a + (n - 1)) / 64 && !held.any (·.id == e.id)))

/-- Noting that a unit's step accesses bytes at a place. -/
def State.note (s : State) (d : Dest) (a n : Nat) : State := { s with touched := (d, a, n) :: s.touched }

/-- Whether a step of a unit would access a line before an entry that arrived there earlier. -/
def State.lineHeld (s : State) (f : State → State) : Bool :=
  !s.arr.isEmpty && (f { s with touched := [] }).touched.any (fun p => s.lineBusy p.1 p.2.1 p.2.2)

/-! ### Reads that meet an uncorrectable error (15/R399) -/

/-- Whether some entries write the line of a place: an error there may be gone when a read behind them is performed. -/
def mending (es : List Entry) (d : Dest) (a : Nat) : Bool :=
  es.any (fun e => !e.op.isLoad && !e.op.isSteep && (e.dest == d || (e.atHome && (match d with | .home _ => true | _ => false))) &&
    e.addr / 64 == a / 64)

/-- Whether an access in flight reads storage that an error would lie in. It was checked when it was entered, and is sound. -/
def State.underRead (s : State) (unit inst lo n : Nat) : Bool :=
  s.flight.any (fun e => !e.op.isStore && overlaps e.addr e.op.len lo n &&
    (match e.dest with
     | .home _ => unit ≤ 1
     | .bank g => unit == 2 && inst == g
     | _ => false))

end Sys2Proof.Machine
end

