-- ==== Sys2Proof/Machine/Unit.lean ====
section
/-!
DEFINITION. Memory as the machine's units reach it: what a perform step reads and writes at a place, and
the virtual reads and writes of the kettle, the matrix engine, the blend unit and the S-stream's own
structures (descriptors, request blocks, images), each translated part by part (10/R276, 16/R423).
-/

namespace Sys2Proof.Machine

/-! ### At a place -/

/-- Bytes that nothing in the module serves (16/R423): free values. -/
def State.freeBytes (s : State) (a n : Nat) : List Byte :=
  ((List.range (n / 8 + 1)).flatMap (fun j => leBytes 8 (s.freeWord (2048 + a % 1024 + j)).toNat)).take n

/-- The bytes at a place. -/
def State.readAt (s : State) (part : Nat) (d : Dest) (a n : Nat) : List Byte :=
  match d with
  | .home _ => s.readPhys part a n
  | .host => s.hostMem.readN a n
  | .bank g => (s.gang g).spad.readN a n
  | .gone => s.freeBytes a n
  | _ => zeros n

/-- Writing bytes at a place. Bytes of a live barrier word are not written (07/R188); a write that covers
a bad unit clears it (15/R399). -/
def State.writeAt (s : State) (d : Dest) (a : Nat) (bs : List Byte) : State :=
  match d with
  | .home _ => (({ s with mem := s.mem.writeN a bs }).healed 0 0 a bs.length).healed 1 (homeOf a) a bs.length
  | .host => { s with hostMem := s.hostMem.writeN a bs }
  | .bank g =>
    if (s.gang g).liveAt a bs.length then s
    else (s.writeSpad g a bs).healed 2 g a bs.length
  | _ => s

/-- Counting bytes that cross PCIe (17/R445). -/
def State.pcie (s : State) (part : Nat) (d : Dest) (n : Nat) : State :=
  match d with
  | .host => s.charge part 4 n
  | _ => s

/-- Whether a transfer to or from host memory is held at the link (17/R445 to R447). -/
def State.pcieHeld (s : State) (part : Nat) (d : Dest) : Bool :=
  match d with
  | .host => s.linkShut part
  | _ => false

/-! ### Rings (15/R386, R394, R401, 18/R457) -/

/-- Whether a ring is enabled, its LOG2N, and whether it is full. -/
def Ring.on (r : Ring) : Bool := r.ctl.getLsbD 31
def Ring.log (r : Ring) : Nat := bitsOf r.ctl.toNat 4 0
def Ring.full (r : Ring) : Bool := (r.tail - r.head).toNat == 2 ^ r.log

/-- Whether a partition's fault queue takes entries (15/R386). -/
def Part.fqOn (P : Part) : Bool := P.fq.on

/-- The address of entry `j` of a ring with entries of a size. -/
def Ring.slot (r : Ring) (size : Nat) (j : Word) : Nat := r.base.toNat + size * (j.toNat % 2 ^ r.log)

/-- Writing an entry of 64 bytes to a ring named by a physical address of the partition. -/
def State.writeEntry (s : State) (p pa : Nat) (bs : List Byte) : State :=
  let d := (s.part p).place pa bs.length
  (s.writeAt d.1 d.2 bs).pcie p d.1 bs.length

/-- Writing an error record to the log (15/R401); a record that finds the log full is counted in the next. A log that is
not enabled takes none. -/
def State.writeError (s : State) (p : Nat) (r : ErrRec) : State :=
  let P := s.part p
  if !P.el.on then s
  else if P.el.full then s.modPart p (fun P => { P with dropped := P.dropped + 1 })
  else
    let bs := leBytes 4 (r.kind * 2 ^ 24 + r.unit * 2 ^ 16 + s.logicalDie p r.die * 2 ^ 8) ++ w32le P.el.tail ++
      w64le r.time ++ leBytes 8 r.pa ++ leBytes 8 r.va ++ w32le r.lseq ++ w32le r.tid ++ w32le P.dropped ++ zeros 20
    let s := s.writeEntry p (P.el.slot 64 P.el.tail) bs
    (s.modPart p (fun P =>
      { P with el := { P.el with tail := P.el.tail + 1 }, dropped := 0 })).irq (4 * p + 2)

/-- Whether the log's next record is held: it lies in host memory, and the budget is spent (17/R445). -/
def State.errorHeld (s : State) (p : Nat) : Bool :=
  let P := s.part p
  P.el.on && !P.el.full && s.pcieHeld p (P.place (P.el.slot 64 P.el.tail) 64).1

/-- Writing the error records that wait, in order, up to one that is held. -/
def State.postErrors (s : State) (p : Nat) : State :=
  let (rest, s) := (s.part p).elWait.foldl (fun (x : List ErrRec × State) r =>
    if !x.1.isEmpty || x.2.errorHeld p then (x.1 ++ [r], x.2) else (x.1, x.2.writeError p r)) ([], s)
  s.modPart p (fun P => { P with elWait := rest })

/-- Posting an error record (15/R401), behind those that the budget holds back. -/
def State.postError (s : State) (p kind unit die pa va : Nat) (lseq tid : Word) : State :=
  let r : ErrRec := { kind := kind, unit := unit, die := die, pa := pa, va := va, lseq := lseq, tid := tid, time := s.time }
  if !(s.part p).el.on then s
  else (s.modPart p (fun P => { P with elWait := P.elWait ++ [r] })).postErrors p

/-- The record of an uncorrectable error that a read met (15/R399); HBM4E names its home die. -/
def State.metBad (s : State) (p unit die pa va : Nat) (reader : Option Nat) : State :=
  let (lseq, tid) : Word × Word := match reader with
    | some t => ((s.launchOf t).lseq, BitVec.ofNat 32 (s.team t).tid)
    | none => (0, 0xFFFFFFFF)
  s.postError p 2 unit die (if unit ≤ 1 then pa else 0) va lseq tid

/-- The storage in which a read at a place meets an uncorrectable error (15/R399): the unit code of R401. -/
def State.badAt (s : State) (d : Dest) (a n : Nat) : Option Nat :=
  match d with
  | .home _ => s.badMem a n
  | .bank g => if s.isBad 2 g a n then some 2 else none
  | _ => none

/-! ### Translation -/

/-- A translation with the caches as it leaves them: the answer, the entries that a walk read, the state.
`core` is the core whose L1 TLB serves the access, if any; `last` a lane's last-page register
(16/R418, R419); `who` the team that an error record of a bad entry names (15/R401). -/
def State.translate (s : State) (p : Nat) (core : Option Nat) (die : Nat) (last : Option Tlb)
    (va : DWord) (need : Need) (who : Option Nat) : WEnd × List Nat × State :=
  let cached : Option Tlb :=
    match last with
    | some t => if t.covers p va then some t else none
    | none => none
  let l1 : Option Tlb :=
    match core with
    | some c => findTlb (s.core c).l1 p va
    | none => none
  let l2 := findTlb (s.die die).l2 p va
  let hit : Option Tlb := cached.or (l1.or l2)
  let fill1 (s : State) (t : Tlb) : State :=
    match core with
    | some c => s.modCore c (fun k => { k with l1 := fillTlb k.l1 128 t })
    | none => s
  let finish (t : Tlb) (reads : List Nat) (s : State) : WEnd × List Nat × State :=
    if t.replica && need.atom then (.fail .access false, reads, s) else (.ok t, reads, s)
  let usable : Option Tlb :=
    match hit with
    | some t => if t.permits need then some t else none
    | none => none
  match usable with
  | some t =>
    if cached.isSome || l1.isSome then finish t [] s else finish t [] (fill1 s t)
  | none =>
    let s := { s with
      cores := (match core with
                | some c => vmod s.cores c (fun k => { k with l1 := dropTlb k.l1 p va })
                | none => s.cores),
      dies := vmod s.dies die (fun d => { d with l2 := dropTlb d.l2 p va }) }
    match s.walkFor p va need with
    | (.fail c res, reads, s) =>
      let ea := reads.getLast?.getD 0
      (.fail c res, reads,
        if c = .deviceError then s.metBad p ((s.badMem ea 8).getD ((s.badMem ea 64).getD 0)) (homeOf ea) ea va.toNat who else s)
    | (.ok t, reads, s) =>
      if t.permits need then
        finish t reads (fill1 (s.modDie die (fun d => { d with l2 := fillTlb d.l2 8192 t })) t)
      else (.fail .access true, reads, s)

/-! ### Virtual accesses of a unit on a die -/

/-- What a unit's access comes to: a value, or a failure with its address. -/
inductive UOut (α : Type) where
  | ok (x : α)
  | fail (c : Cause) (resolvable : Bool) (va : DWord)

/-- The address a failure reports: the access's own for its first part, else the part's (16/R417). -/
def partVa (va : DWord) (off : Nat) : DWord := va + BitVec.ofNat 64 off

/-- Translating every line part of an access, in order: the parts with their translations, or the first
failure. The caches fill as they go. -/
def State.unitParts (s : State) (part : Nat) (core : Option Nat) (die : Nat) (va : DWord) (need : Need)
    (who : Option Nat) (ps : List (Nat × Nat)) : UOut (List (Nat × Nat × Tlb)) × State :=
  match ps with
  | [] => (.ok [], s)
  | (off, n) :: r =>
    match s.translate part core die none (partVa va off) need who with
    | (.fail c res, _, s) => (.fail c res (partVa va off), s)
    | (.ok t, _, s) =>
      match State.unitParts s part core die va need who r with
      | (.ok l, s) => (.ok ((off, n, t) :: l), s)
      | (.fail c res a, s) => (.fail c res a, s)

/-- Translating the parts of an access of `n` bytes. -/
def State.unitSplit (s : State) (part : Nat) (core : Option Nat) (die : Nat) (va : DWord) (n : Nat) (need : Need)
    (who : Option Nat) : UOut (List (Nat × Nat × Tlb)) × State :=
  s.unitParts part core die va need who (lineParts (n / 64 + 2) va.toNat 0 n)

/-- Reading translated parts. A bad unit raises DEVICE_ERROR (15/R399), in the record of which the team that
consumes the bytes stands (15/R401). -/
def State.readParts (s : State) (part : Nat) (va : DWord) (who : Option Nat) (l : List (Nat × Nat × Tlb)) :
    UOut (List Byte) × State :=
  let place (p : Nat × Nat × Tlb) : Dest × Nat := (s.part part).at p.2.2 (partVa va p.1) p.2.1
  let bad (p : Nat × Nat × Tlb) : Option Nat := s.badAt (place p).1 (place p).2 p.2.1
  match l.find? (fun p => (bad p).isSome) with
  | some p =>
    (.fail .deviceError false (partVa va p.1),
      s.metBad part ((bad p).getD 0) (homeOf (place p).2) (place p).2 (partVa va p.1).toNat who)
  | none =>
    (.ok (l.flatMap (fun p => s.readAt part (place p).1 (place p).2 p.2.1)),
      l.foldl (fun s p => (s.pcie part (place p).1 p.2.1).note (place p).1 (place p).2 p.2.1) s)

/-- Reading `n` bytes at a virtual address for a team. -/
def State.unitRead (s : State) (part : Nat) (core : Option Nat) (die : Nat) (va : DWord) (n : Nat) (who : Option Nat) :
    UOut (List Byte) × State :=
  match s.unitSplit part core die va n { r := true } who with
  | (.fail c res a, s) => (.fail c res a, s)
  | (.ok l, s) => s.readParts part va who l

/-- Writing one translated part: at its home, and for a REPLICA page at every member (16/R425). The entries of its
peers are of one source, as the unit's number tells (16/R426). -/
def State.writePart (s : State) (part die src : Nat) (va : DWord) (bs : List Byte) (who : Option Nat) (p : Nat × Nat × Tlb) :
    State :=
  let t := p.2.2
  let a := partVa va p.1
  let chunk := bytesAt bs p.1 p.2.1
  let pl := (s.part part).place (t.pa a) p.2.1
  let s := if t.away then s else ((s.writeAt pl.1 pl.2 chunk).pcie part pl.1 p.2.1).note pl.1 pl.2 p.2.1
  if t.replica then
    (peerPorts t.members).foldl (fun s pm =>
      s.enter (.unit src who) none part die
        (.peer pm.1 (pm.2.map (fun m => (m.1, m.2 + (a.toNat - t.vbase)))))
        (if t.away then 0 else t.pa a) a (.store chunk) .none none) s
  else s

/-- Writing bytes at a virtual address. -/
def State.unitWrite (s : State) (part : Nat) (core : Option Nat) (die src : Nat) (va : DWord)
    (bs : List Byte) (who : Option Nat) : UOut Unit × State :=
  match s.unitSplit part core die va bs.length { w := true } who with
  | (.fail c res a, s) => (.fail c res a, s)
  | (.ok l, s) => (.ok (), l.foldl (fun s p => s.writePart part die src va bs who p) s)

/-- A change of the state that counts against no budget of a partition (17/R446). -/
def State.uncounted (s : State) (p : Nat) (s' : State) : State :=
  s'.modPart p (fun P => { P with budgets := (s.part p).budgets, ever := (s.part p).ever })

/-- Whether any of some translated parts is in host memory. -/
def State.inHost (s : State) (part : Nat) (va : DWord) (l : List (Nat × Nat × Tlb)) : Bool :=
  l.any (fun p => match ((s.part part).at p.2.2 (partVa va p.1) p.2.1).1 with
                  | .host => true
                  | _ => false)

/-- Whether any line part of a virtual range would be held at PCIe, or comes after an entry that has arrived at its line. -/
def State.unitHeld (s : State) (part : Nat) (core : Option Nat) (die : Nat) (va : DWord) (n : Nat)
    (need : Need) : Bool :=
  (s.linkShut part || !s.arr.isEmpty) &&
  (match s.unitSplit part core die va n need none with
   | (.ok l, _) =>
     (s.linkShut part && s.inHost part va l) ||
       l.any (fun p =>
         let d := (s.part part).at p.2.2 (partVa va p.1) p.2.1
         s.lineBusy d.1 d.2 p.2.1)
   | _ => false)

/-- Whether a step of a unit waits: it would cross PCIe while the partition may not (17/R445, R447), or access a line before an
entry that has arrived there (10/R266, R267). -/
def State.crossHeld (s : State) (p : Nat) (f : State → State) : Bool :=
  (s.linkShut p &&
    (let z := s.modPart p (fun P => { P with budgets := vmod P.budgets 4 (fun b => { b with used := 0 }) })
     (vget ((f z).part p).budgets 4).used != 0)) || s.lineHeld f

/-- The same of a step of a unit whose end is known: `s'` is what it makes of the state. -/
def State.heldTo (s : State) (p : Nat) (s' : State) : Bool :=
  (s.linkShut p && (vget (s'.part p).budgets 4).used != (vget (s.part p).budgets 4).used) ||
    (s'.touched.take (s'.touched.length - s.touched.length)).any (fun x => s.lineBusy x.1 x.2.1 x.2.2)

/-- Whether a walk for `n` bytes that a team's stream reaches would enter behind an entry of the team that is still to be
performed (16/R420): `own` is the die on which the stream enters its accesses. -/
def State.walkStalls (s : State) (part : Nat) (core : Option Nat) (die t own : Nat) (va : DWord) (n : Nat) (need : Need) : Bool :=
  let reads (a : DWord) : List Nat := (s.translate part core die none a need none).2.1
  walkBlocked (s.teamQueue t own) (reads va ++ reads (va + BitVec.ofNat 64 (n - 1)))

end Sys2Proof.Machine
end

