-- ==== Sys2Proof/Machine/Circle.lean ====
section
/-!
DEFINITION. Circles (02/R44, R45) and what their membership decides: the closing of steeps (13/R350,
R351, R353).
-/

namespace Sys2Proof.Machine

/-! ### One circle (02/R45) -/

/-- Check(): when every member of a non-empty circle has arrived, the phase ends. -/
def Circle.check (c : Circle) : Circle :=
  if !c.members.isEmpty && c.members.all c.arrived.contains then
    { c with arrived := [], phase := c.phase + 1 }
  else c

def Circle.join (c : Circle) (m : Nat) : Circle :=
  if c.members.contains m then c else { c with members := c.members ++ [m] }

def Circle.leave (c : Circle) (m : Nat) : Circle :=
  if c.members.contains m then
    ({ c with members := c.members.filter (· != m), arrived := c.arrived.filter (· != m) }).check
  else c

def Circle.arrive (c : Circle) (m : Nat) : Circle :=
  ({ c with arrived := c.arrived ++ [m] }).check

/-- Member count, and the number of members below `m`, or 0xFFFFFFFF if `m` is no member. -/
def Circle.info (c : Circle) (m : Nat) : Word × Word :=
  (BitVec.ofNat 32 c.members.length,
    if c.members.contains m then BitVec.ofNat 32 (c.members.filter (· < m)).length else 0xFFFFFFFF)

/-! ### Steeps -/

def Caddy.segAddr (c : Caddy) (steep : Word) : DWord :=
  c.tape + BitVec.ofNat 64 (64 + steep.toNat % (if c.tdepth = 0 then 1 else c.tdepth) * c.tseg)

/-- RoundUp64(80 + 36 D) (13/R339). -/
def Caddy.recSize (c : Caddy) : Nat := roundUp (80 + 36 * c.d) 64
/-- Records that a segment holds (13/R339). -/
def Caddy.segMax (c : Caddy) : Nat := (c.tseg - 64) / c.recSize

/-- A segment header (13/R353). -/
def segHeader (steep : Word) (count : Nat) (applied : Bool) (cause : Option Nat) (overflow : Bool) :
    List Byte :=
  w32le steep ++ leBytes 4 count ++
    leBytes 4 ((if applied then 2 ^ 31 else 0) + (match cause with | some c => 256 * c + 2 | none => 0) +
      (if overflow then 1 else 0)) ++ zeros 52

/-- Whether the live launches that share a caddy set include one (13/R341). -/
def State.liveLaunches (s : State) (set : CaddySet) : List Nat :=
  set.launches.filter (fun l => (s.launch l).phase != .complete)

/-- The current members of a caddy's circle, over every live sharing launch (13/R351). -/
def State.steepMembers (s : State) (set : CaddySet) (circle : Nat) : List (Nat × Nat) :=
  (s.liveLaunches set).flatMap (fun l =>
    match (s.launch l).circles[circle]? with
    | some c => c.members.map (fun m => (l, m))
    | none => [])

/-- LSEQ of the oldest live sharing launch (13/R352). -/
def State.oldestLseq (s : State) (set : CaddySet) : Word :=
  match s.liveLaunches set with
  | l :: _ => (s.launch l).lseq
  | [] => 0

/-- The number of the steep that is open, while those before it wait for their applies. -/
def Caddy.openSteep (c : Caddy) : Word :=
  match c.apply with
  | some _ => c.steep + 1 + BitVec.ofNat 32 c.later.length
  | none => c.steep

/-- The number under which a caddy's writes are one source (16/R426). -/
def caddySrc (set k : Nat) : Nat := 2 * (64 * set + k) + 1

/-- The number under which a walk's writes are one source (16/R426): that of its team. -/
def walkSrc (t : Nat) : Nat := 2 * (2 ^ 40 + t) + 1

/-- Whether a failed access of the blend unit is held (13/R354). -/
def State.blendHolds (s : State) (p : Nat) (res : Bool) : Bool := res && (s.part p).fqOn

def blendHold (c : Cause) (a : DWord) (w : Bool) : Hold :=
  { cause := c, addr := a, write := w, exec := false, seq := none, res := none }

/-- An access to the tape of the open steep fails: it holds the blend unit, or marks the steep FAULT (13/R354). -/
def State.openFails (s : State) (set k p : Nat) (e : Cause) (res : Bool) (a : DWord) : State :=
  s.modCaddy set k (fun c =>
    if s.blendHolds p res then { c with hold := some (blendHold e a true), holdOpen := true } else { c with fault := some e })

/-- Writing the header of the open steep, once (13/R353): the state, and whether it stands. -/
def State.openHeader (s : State) (set k p : Nat) (c : Caddy) : Bool × State :=
  if c.opened then (true, s)
  else
    match s.unitWrite p none c.home (caddySrc set k) (c.segAddr c.openSteep) (segHeader c.openSteep 0 false none false) none with
    | (.ok _, s) => (true, s.modCaddy set k (fun c => { c with opened := true }))
    | (.fail e r a, s) => (false, s.openFails set k p e r a)

/-- The header of a steep that opens (13/R353). While the blend unit is held, or the write would wait, it is still to be
written. -/
def State.openSegment (s : State) (set k : Nat) : State :=
  match s.caddySets[set]? with
  | none => s
  | some S =>
    match S.caddies[k]? with
    | none => s
    | some c =>
      let go (s : State) : State := (s.openHeader set k S.part c).2
      if !c.made || c.opened || c.fault.isSome || c.hold.isSome || s.crossHeld S.part go then s else go s

/-- Closing the open steep of a caddy when its circle's members all lie within the closers (13/R350,
R351). The steep waits for its apply, behind those that closed before it, and the next one opens. -/
def State.tryClose (s : State) (set k : Nat) : State :=
  match s.caddySets[set]? with
  | none => s
  | some S =>
    match S.caddies[k]? with
    | none => s
    | some c =>
      let ms := s.steepMembers S c.circle
      if S.created && !ms.isEmpty && ms.all c.closers.contains then
        let a : Apply := { steep := c.openSteep, recs := c.recs, begun := false, count := c.count,
                           overflow := c.overflow, fault := c.fault, oldest := c.oldest, pre := [], pos := 0, headerDue := false }
        let s := s.modCaddy set k (fun c =>
          { c with
            apply := some (c.apply.getD a), later := if c.apply.isSome then c.later ++ [a] else c.later,
            closers := [], recs := [], count := 0, overflow := false, fault := none, opened := false,
            oldest := s.oldestLseq S })
        s.openSegment set k
      else s

/-- The condition of R351, tested at a change of membership of a launch's circles. -/
def State.testCloses (s : State) (l : Nat) : State :=
  match (s.launch l).caddySet with
  | none => s
  | some set =>
    match s.caddySets[set]? with
    | none => s
    | some S => (List.range S.caddies.length).foldl (fun s k => s.tryClose set k) s

/-! ### Circles of a gang and of a launch -/

/-- The name of a team in a circle: its rank in a gang circle, its TID in a launch circle. -/
def Team.circleName (T : Team) (launch : Bool) : Nat := if launch then T.tid else T.rank

/-- The circle of a kind and number that a team names; `none` when the number is not below LCIRC. -/
def State.circle (s : State) (t : Nat) (launch : Bool) (n : Nat) : Option Circle :=
  if launch then (s.launchOf t).circles[n]? else (s.gangOf t).circles[n]?

/-- An operation on a circle of a team. -/
def State.modCircle (s : State) (t : Nat) (launch : Bool) (n : Nat) (f : Circle → Circle) : State :=
  let T := s.team t
  if launch then
    (s.modLaunch T.launch (fun L => { L with circles := modifyAt L.circles n f })).testCloses T.launch
  else s.modGang T.gang (fun G => { G with circles := modifyAt G.circles n f })

/-- A team leaves every circle of which it is a member (02/R42). -/
def State.leaveAll (s : State) (t : Nat) : State :=
  let T := s.team t
  let s := s.modGang T.gang (fun G => { G with circles := G.circles.map (·.leave T.rank) })
  (s.modLaunch T.launch (fun L => { L with circles := L.circles.map (·.leave T.tid) })).testCloses
    T.launch

end Sys2Proof.Machine
end

