-- ==== Sys2Proof/Machine/Gang.lean ====
section
/-!
DEFINITION. What becomes of gangs and launches: a team's end and its gang's retirement (02/R42, R43),
pre-emption's halt (15/R402 to R404), removal without an image (15/R398), and a launch's completion.
-/

namespace Sys2Proof.Machine

/-! ### Visitors and continuations of a team -/

/-- Whether a team belongs to a gang. -/
def State.inGang (s : State) (g t : Nat) : Bool := (s.team t).gang == g

/-- Whether a continuation or a visitor of a team is anywhere: in a channel, in an inbox, or running
(14/R374). -/
def State.roaming (s : State) (t : Nat) : Bool :=
  s.channel.any (·.team == t) || s.visitors.any (fun v => v.alive && v.cont.team == t) ||
    s.dies.toList.any (fun d => d.inbox.any (·.team == t))

/-- Dropping every continuation and visitor of a gang (15/R398). Inbox entries free with them. -/
def State.dropRoaming (s : State) (g : Nat) : State :=
  let mine (c : Cont) : Bool := s.inGang g c.team
  let reservedFor (d : Nat) : Nat := (s.channel.filter (fun c => mine c && c.reserved && c.dst == d)).length
  { s with
    visitors := s.visitors.map (fun (v : Visitor) => if mine v.cont then { v with alive := false, fly := none } else v),
    dies := Vector.ofFn (fun d : Fin 8 =>
      let D := s.die d.val
      { D with inbox := D.inbox.filter (fun c => !mine c), reserved := D.reserved - reservedFor d.val }),
    channel := s.channel.filter (fun c => !mine c) }

/-! ### Launches -/

/-- Gangs of a launch (02/R40). -/
def Desc.gangs (d : Desc) : Nat := d.teams / (if d.gsize = 0 then 1 else d.gsize)

def State.gangsOf (s : State) (l : Nat) : List Gang := s.gangs.filter (·.launch == l)

/-- Discarding the steep state of caddy sets that no live launch shares any more (13/R341), once every steep that
has closed has been applied. -/
def State.endSets (s : State) : State :=
  { s with caddySets := s.caddySets.map (fun (S : CaddySet) =>
      if S.created && (s.liveLaunches S).isEmpty && S.caddies.all (·.apply.isNone) then
        { S with created := false, caddies := S.caddies.map (fun (c : Caddy) =>
            { c with steep := 0, wrapped := false, closers := [], recs := [], count := 0, overflow := false, fault := none,
                     opened := false, apply := none, walker := none, hold := none, holdOpen := false, made := false }) }
      else S) }

/-- Completing a launch with a status (17/R440): its circles dissolve (02/R46), and its record waits. -/
def State.completeLaunch (s : State) (l status : Nat) : State :=
  let L := s.launch l
  let s := s.modLaunch l (fun L => { L with phase := .complete, circles := [], entry := false })
  let s := s.modPart L.part (fun P =>
    { P with compWait := P.compWait ++
      [{ lseq := L.lseq, tag := L.desc.tag, status := status, queue := L.queue, done := L.desc.done,
         launch := some l, time := s.time }] })
  let s := s.endSets
  match L.caddySet with
  | some set =>
    match s.caddySets[set]? with
    | some S => (List.range S.caddies.length).foldl (fun s k => s.tryClose set k) s
    | none => s
  | none => s

/-- A launch completes when every one of its gangs has retired or been removed (02/R53, 15/R398). -/
def State.checkLaunch (s : State) (l : Nat) : State :=
  let L := s.launch l
  let gs := s.gangsOf l
  if L.phase != .complete && L.nextGang == L.desc.gangs &&
      gs.all (fun g => g.phase == .retired || g.phase == .removed) then
    s.completeLaunch l (if L.faulted then 3 else 0)
  else s

/-! ### Engines of a gang -/

/-- Whether a job stands within a pass: writes that the pass has formed are still to be performed, and nothing holds them. -/
def Job.inPass (j : Job) : Bool := !j.failed && j.hold.isNone && !j.wbuf.isEmpty

/-- The gang leaves the engine of its cluster: its jobs are dropped, one within a pass when the pass has ended, and the state it
held is cleared (12/R312, 15/R398). -/
def State.dropEngine (s : State) (g : Nat) : State :=
  s.modCluster (s.gang g).cluster (fun c =>
    let held := c.holder == some g
    { c with
      jobs := c.jobs.filter (fun j => j.gang != g || j.inPass), latches := c.latches.filter (·.gang != g),
      holder := if held then none else c.holder, acc := if held then [] else c.acc,
      bstore := if held then [] else c.bstore })

/-- A gang's scratchpad allocation enters quarantine (11/R308): its live words lose their tags. -/
def State.quarantine (s : State) (g : Nat) : State :=
  let G := s.gang g
  let n := (s.launch G.launch).desc.spad
  let s := s.modGang g (fun G => { G with live := [] })
  if n = 0 then s
  else s.modCluster G.cluster (fun c => { c with quarantine := c.quarantine ++ [(g, n)] })

/-! ### Ending -/

/-- A held crew `mma` whose MCR lists a team that ends faults CREW (02/R43). -/
def mcrLists (mcr : Word) (rank : Nat) : Bool :=
  let n := bitsOf mcr.toNat 26 24
  (List.range n).any (fun k => bitsOf mcr.toNat (4 * k + 3) (4 * k) == rank)

def State.breakCrews (s : State) (t : Nat) : State :=
  let T := s.team t
  let c := (s.gangOf t).cluster
  let hit := (s.cluster c).latches.filter (fun h => h.gang == T.gang && mcrLists h.mcr T.rank)
  let s := s.modCluster c (fun k =>
    { k with latches := k.latches.filter (fun h => !(h.gang == T.gang && mcrLists h.mcr T.rank)) })
  hit.foldl (fun s h =>
    if h.mem.team == t then s else s.modTeam h.mem.team (fun U => { U with wait := .crewDone false })) s

/-- The gang retires when its last team has ended (02/R42): its slots free, its allocation enters
quarantine, and the engine state that it held frees. -/
def State.retireIfDone (s : State) (g : Nat) : State :=
  let G := s.gang g
  if G.phase == .resident && G.teams.all (fun t => (s.team t).phase == .ended) then
    let s := s.quarantine g
    let s := s.dropEngine g
    let s := { s with teams := s.teams.map (fun (T : Team) =>
      if T.gang == g then { T with resident := false, oplog := Vector.replicate 4 none, lastPage := [] }
      else T) }
    let s := s.modGang g (fun G => { G with phase := .retired, circles := [] })
    s.checkLaunch G.launch
  else s

/-- A team ends (02/R42, R43). -/
def State.endTeam (s : State) (t : Nat) : State :=
  let s := s.leaveAll t
  let s := s.breakCrews t
  let s := s.modTeam t (fun T =>
    { T with phase := .ended, rows := 0, laneQ := [], blk := none, asideQ := [], held := none,
             pendL := none, oplog := Vector.replicate 4 none, wait := .none, savedWait := .none,
             shrinks := [], away := 0, returned := [], early := [], blocked := false, lblocked := false, regs := { T.regs with v := [] } })
  s.retireIfDone (s.team t).gang

/-! ### Removal (15/R398) -/

/-- A chain stops fetching at pre-emption (11/R309). Records at its end that have not begun count as not fetched, with what failed
among them at its fetch (log entry 106); every record before one that has begun can still end. -/
def Chain.stop (k : Chain) : Chain :=
  let n := k.recs.length - (k.recs.reverse.takeWhile (fun r => !r.released && !r.retired)).length
  match (k.recs.drop n).find? (fun r => !r.failed) with
  | some x =>
    let kept := k.recs.takeWhile (fun r => r.num != x.num)
    { k with stopped := true, recs := kept, next := x.addr, fetched := false, failed := kept.any (·.failed) }
  | none => { k with stopped := true }

/-- The chains of a removed gang stop fetching; those with no record in flight are over (15/R398). -/
def State.stopChains (s : State) (g : Nat) : State :=
  let over_ (k : Chain) : Bool := k.gang == g && !k.recs.any (fun r => (!r.retired && !r.failed) || r.fate.isSome)
  s.modCluster (s.gang g).cluster (fun c =>
    { c with channels := c.channels.map (fun (l : List Chain) =>
        (l.map (fun k => if k.gang == g then { k.stop with next := 0, fetched := true, hold := none } else k)).filter
          (fun k => !over_ k)) })

/-- A gang is removed without an image. -/
def State.removeGang (s : State) (g : Nat) : State :=
  let G := s.gang g
  if G.phase == .retired || G.phase == .removed then s
  else
    let wasOn := G.phase == .resident || G.phase == .halting
    let s := s.dropRoaming g
    let s := if wasOn then s.stopChains g else s
    let s := if wasOn then s.dropEngine g else s
    let s := G.teams.foldl (fun s t =>
      if (s.team t).phase == .ended then s else (s.leaveAll t).breakCrews t) s
    let s := { s with
      teams := s.teams.map (fun (T : Team) =>
        if T.gang == g then
          { T with resident := false, phase := .ended, rows := 0, laneQ := [], blk := none, asideQ := [],
                   held := none, pendL := none, oplog := Vector.replicate 4 none, wait := .none,
                   savedWait := .none, shold := none, pend := [], shrinks := [], lastPage := [],
                   away := 0, returned := [], early := [], blocked := false, lblocked := false, fqHeld := none }
        else T),
      cores := s.cores.map (fun (c : CoreSt) => { c with growQ := c.growQ.filter (fun t => !s.inGang g t) }) }
    let s := if wasOn then s.quarantine g else s
    let s := s.modGang g (fun G =>
      { G with phase := .removed, circles := [], image := none, unhandled := none })
    let s := match G.image with
      | some i =>
        match i.waiter with
        | some w => s.modTeam w (fun U => { U with wait := .ctxDone })
        | none => s
      | none => s
    let s := s.modLaunch G.launch (fun L =>
      { L with faulted := true, resumed := L.resumed.filter (· != g) })
    s.checkLaunch G.launch

/-! ### Pre-emption's halt (15/R402 to R404) -/

/-- A block at a team switch: its latches are lost (03/R75). -/
def Blk.cut (b : Blk) : Blk := { b with restart := true, latch := Vector.replicate 4 [] }

/-- A slot at a team switch: the chain of its latch write is over. -/
def Slot.cut (k : Slot) : Slot := { k with latch := false }

/-- A wait abandoned at pre-emption: its instruction issues again, `ctxsave` too. A performed `csync` arrival, an open `svc`, and
what has been completed meanwhile are kept (15/R403). -/
def Wait.abandon (w : Wait) : Wait :=
  match w with
  | .bwait _ _ | .grow | .crew | .ctx _ => .none
  | w => w

/-- Halting a resident gang at an instruction boundary: its image is to be written to a place. -/
def State.halt (s : State) (g : Nat) (loc : ImageLoc) : State :=
  let G := s.gang g
  if G.phase != .resident then s
  else
    let s := { s with
      teams := s.teams.map (fun (T : Team) => if T.gang == g then
          { T with wait := T.wait.abandon, lastPage := [], early := [],
                   blk := T.blk.map Blk.cut, oplog := T.oplog.map (fun (o : Option Slot) => o.map Slot.cut) }
        else T),
      visitors := s.visitors.map (fun (v : Visitor) => if s.inGang g v.cont.team then { v with halted := true } else v),
      caddySets := s.caddySets.map (fun (S : CaddySet) => { S with caddies := S.caddies.map (fun (c : Caddy) =>
        match c.walker with
        | some t => if s.inGang g t then { c with walker := none } else c
        | none => c) }),
      cores := s.cores.map (fun (c : CoreSt) => { c with growQ := c.growQ.filter (fun t => !s.inGang g t) }) }
    let s := s.modCluster G.cluster (fun c =>
      { c with latches := c.latches.filter (·.gang != g),
               channels := c.channels.map (fun (l : List Chain) => l.map (fun (k : Chain) =>
                 if k.gang == g then k.stop else k)) })
    s.modGang g (fun G => { G with phase := .halting, image := some loc })

/-! ### The save pool (15/R386, R402) -/

/-- Slots of a partition's save pool that hold an image or are to hold one. -/
def State.usedSlots (s : State) (p : Nat) : List Nat :=
  s.gangs.filterMap (fun g =>
    if g.part == p then (match g.image with | some i => i.slot | none => none) else none)

/-- The lowest free slot of the save pool, and its address. -/
def State.freeSaveSlot (s : State) (p : Nat) : Option (Nat × DWord) :=
  let P := s.part p
  let cnt := bitsOf P.saveCtl.toNat 31 20
  let sz := bitsOf P.saveCtl.toNat 11 0
  let used := s.usedSlots p
  match (List.range cnt).find? (fun k => !used.contains k) with
  | some k => if sz = 0 then none else some (k, P.saveBase + BitVec.ofNat 64 (k * sz * 2 ^ 20))
  | none => none

/-- Bytes of a slot of the save pool. -/
def Part.slotSize (P : Part) : Nat := bitsOf P.saveCtl.toNat 11 0 * 2 ^ 20

end Sys2Proof.Machine
end

