-- ==== Sys2Proof/Decode.lean ====
section
/-!
DEFINITION. The decoder of S words and L instructions (05/R115 to R130, with the slot classes of
R191, R226, R232, R343 and R376), and after it the encoder written from the same tables.
A word that fails several checks is refused with the lowest cause: ILLEGAL before RESERVED_FIELD
(R115). The PRIVILEGED check depends on the team and stands in the meanings of majors 0x3C and 0x3D.
-/

namespace Sys2Proof

/-! ### Field packing: the formats of R117 and R123 -/

/-- The bits `[lo + n - 1 : lo]` of a word. -/
abbrev fld (w : Word) (lo n : Nat) : BitVec n := w.extractLsb' lo n

/-- SA: major, d, a, b, function byte. -/
def packSA (m d a b : BitVec 6) (f : BitVec 8) : Word := m ++ d ++ a ++ b ++ f
/-- SI: major, d, a, imm14. -/
def packSI (m d a : BitVec 6) (imm : BitVec 14) : Word := m ++ d ++ a ++ imm
/-- SU: major, d, imm20. -/
def packSU (m d : BitVec 6) (imm : BitVec 20) : Word := m ++ d ++ imm
/-- SM: major, d, pair q, size, imm13. -/
def packSM (m d : BitVec 6) (q : BitVec 5) (sz : BitVec 2) (imm : BitVec 13) : Word :=
  m ++ d ++ q ++ sz ++ imm
/-- SB: major, a, condition, offset16. -/
def packSB (m a : BitVec 6) (c : BitVec 4) (off : BitVec 16) : Word := m ++ a ++ c ++ off
/-- SJ and SL: major, 26 bits. -/
def packSJ (m : BitVec 6) (off : BitVec 26) : Word := m ++ off
/-- SE: major, a, b, c, token, function. -/
def packSE (m a b c : BitVec 6) (t : BitVec 3) (f : BitVec 5) : Word := m ++ a ++ b ++ c ++ t ++ f

/-- An even register number: what a pair slot of an S word must hold (R118). -/
def evenReg (r : BitVec 6) : Bool := !r.getLsbD 0

/-! ### S words -/

/-- The ALU function byte of major 0x01 (R120). -/
def aluOf (f : Nat) (d a b : BitVec 6) : Option Instr :=
  match f with
  | 0x00 => some (.add d a b)
  | 0x01 => some (.sub d a b)
  | 0x02 => some (.mul d a b)
  | 0x03 => some (.mulh d a b)
  | 0x04 => some (.mulhu d a b)
  | 0x05 => some (.div d a b)
  | 0x06 => some (.divu d a b)
  | 0x07 => some (.rem d a b)
  | 0x08 => some (.remu d a b)
  | 0x10 => some (.and d a b)
  | 0x11 => some (.or d a b)
  | 0x12 => some (.xor d a b)
  | 0x13 => some (.andn d a b)
  | 0x14 => some (.shl d a b)
  | 0x15 => some (.shr d a b)
  | 0x16 => some (.sra d a b)
  | 0x17 => some (.rot d a b)
  | 0x20 => some (.min d a b)
  | 0x21 => some (.minu d a b)
  | 0x22 => some (.max d a b)
  | 0x23 => some (.maxu d a b)
  | 0x30 => some (.seq d a b)
  | 0x31 => some (.sne d a b)
  | 0x32 => some (.slt d a b)
  | 0x33 => some (.sltu d a b)
  | 0x34 => some (.sle d a b)
  | 0x35 => some (.sleu d a b)
  | 0x24 => some (.clz d a)
  | 0x25 => some (.popc d a)
  | _ => none

/-- The S instruction that the operation fields of a word name (R119 to R122), its operand fields
filled in. An unassigned operation value is ILLEGAL; the reserved kinds of R121 that leave no
instruction to name are RESERVED_FIELD. -/
def buildS (w : Word) : Except DecodeFault Instr :=
  let r1 := fld w 20 6
  let r2 := fld w 14 6
  let r3 := fld w 8 6
  let fn := (fld w 0 8).toNat
  let i14 := fld w 0 14
  let tok := fld w 5 3
  let fe := (fld w 0 5).toNat
  let orIll (o : Option Instr) : Except DecodeFault Instr :=
    match o with
    | some i => .ok i
    | none => .error .illegal
  match (fld w 26 6).toNat with
  | 0x01 => orIll (aluOf fn r1 r2 r3)
  | 0x02 => .ok (.addi r1 r2 i14)
  | 0x03 => .ok (.andi r1 r2 i14)
  | 0x04 => .ok (.ori r1 r2 i14)
  | 0x05 => .ok (.xori r1 r2 i14)
  | 0x06 =>
    match (fld w 12 2).toNat with
    | 0 => .ok (.shli r1 r2 (fld w 0 5))
    | 1 => .ok (.shri r1 r2 (fld w 0 5))
    | 2 => .ok (.srai r1 r2 (fld w 0 5))
    | _ => .ok (.roti r1 r2 (fld w 0 5))
  | 0x07 => .ok (.slti r1 r2 i14)
  | 0x08 => .ok (.lui r1 (fld w 0 20))
  | 0x09 =>
    match fn with
    | 0 => .ok (.dadd r1 r2 r3)
    | 1 => .ok (.dsub r1 r2 r3)
    | 2 => .ok (.dshl r1 r2 r3)
    | 3 => .ok (.dshr r1 r2 r3)
    | 4 => .ok (.dsra r1 r2 r3)
    | _ => .error .illegal
  | 0x0A => .ok (.daddi r1 r2 i14)
  | 0x0B => .ok (.rdx r1 (fld w 0 8))
  | 0x0C => .ok (.wrx r2 (fld w 0 8))
  | 0x10 => .ok (.ld r1 (fld w 15 5) (fld w 13 2) (fld w 0 13))
  | 0x11 => .ok (.st r1 (fld w 15 5) (fld w 13 2) (fld w 0 13))
  | 0x12 => .ok (.atom r1 r2 r3 (fld w 6 2) (fld w 4 2) (fld w 0 4))
  | 0x14 => .ok (.lds r1 (fld w 15 5) (fld w 13 2) (fld w 0 13))
  | 0x15 => .ok (.sts r1 (fld w 15 5) (fld w 13 2) (fld w 0 13))
  | 0x16 => .ok (.atoms r1 r2 r3 (fld w 6 2) (fld w 4 2) (fld w 0 4))
  | 0x17 =>
    match (fld w 12 2).toNat with
    | 0 => .ok (.fence (fld w 10 2) (fld w 7 3))
    | 1 => .ok .rfence
    | _ => .error .reservedField
  | 0x18 => .ok (.bCond r1 (fld w 16 4) (fld w 0 16))
  | 0x19 => .ok (.jmp (fld w 0 26))
  | 0x1A => .ok (.call (fld w 0 26))
  | 0x1B =>
    match fn with
    | 0 => .ok (.jr r2)
    | 1 => .ok (.ret r2)
    | _ => .error .illegal
  | 0x20 => .ok (.lrun (fld w 0 26))
  | 0x21 => .ok .lwait
  | 0x22 => .ok (.lget r1 (fld w 0 3))
  | 0x23 =>
    match (fld w 13 1).toNat with
    | 0 => .ok (.grow (fld w 0 4))
    | _ => .ok (.shrink (fld w 0 4))
  | 0x24 =>
    match (fld w 12 2).toNat with
    | 0 => .ok (.cjoin (fld w 11 1) (fld w 0 6))
    | 1 => .ok (.cleave (fld w 11 1) (fld w 0 6))
    | 2 => .ok (.csync (fld w 11 1) (fld w 0 6))
    | _ => .ok (.cinfo r1 (fld w 11 1) (fld w 0 6))
  | 0x25 => if fn = 0 then .ok (.pour r2) else .error .illegal
  | 0x26 => if fn = 0 then .ok (.withdraw r2) else .error .illegal
  | 0x27 =>
    match fn with
    | 0 => .ok .endTeam
    | 1 => .ok .yield
    | 2 => .ok .tresume
    | 3 => .ok (.tresumeAt r2)
    | _ => .error .illegal
  | 0x28 => .ok (.kpour r1 tok (fld w 0 3))
  | 0x29 =>
    match (fld w 8 1).toNat with
    | 0 => .ok (.twait (fld w 0 8))
    | _ => .ok (.tprobe r1 (fld w 0 8))
  | 0x2A => if fe = 0 then .ok (.binit r1 r2 r3) else .error .illegal
  | 0x2B =>
    match fe with
    | 0 => .ok (.barrive r1 r2)
    | 1 => .ok (.bexpect r1 r2)
    | _ => .error .illegal
  | 0x2C => if fe = 0 then .ok (.bwait r1 r2 r3) else .error .illegal
  | 0x2D => if fe = 0 then .ok (.binval r1) else .error .illegal
  | 0x30 => if fn = 0 then .ok (.mcrew r2) else .error .illegal
  | 0x31 => if fe = 0 then .ok (.bput r1 r2 tok) else .error .illegal
  | 0x32 =>
    if (fld w 0 2).toNat = 0 then
      .ok (.mma r1 r2 r3 tok (fld w 4 1) (fld w 3 1) (fld w 2 1))
    else .error .illegal
  | 0x33 =>
    match fe with
    | 0 => .ok (.accld r1 r3 tok)
    | 1 => .ok (.accst r1 r3 tok)
    | _ => .error .illegal
  | 0x34 => if fe = 0 then .ok (.mxreq r1 r2 tok) else .error .illegal
  | 0x35 => if fn = 0 then .ok (.mstat r1) else .error .illegal
  | 0x38 => .ok (.steepClose (fld w 0 6))
  | 0x39 => .ok (.steepWait r2 (fld w 0 6))
  | 0x3A => .ok (.steepGrad r1 r2 (fld w 0 6))
  | 0x3C =>
    match (fld w 13 1).toNat with
    | 0 => .ok (.sysr r1 (fld w 0 12))
    | _ => .ok (.sysw r2 (fld w 0 12))
  | 0x3D =>
    match fn with
    | 0 => .ok .eret
    | 1 => .ok (.tinval r2)
    | 2 => .ok .tsync
    | 3 => .ok (.ctxsave r2)
    | 4 => .ok (.ctxload r2)
    | 5 => .ok (.fqpop r1)
    | _ => .error .illegal
  | 0x3E => .ok (.svc (fld w 0 20))
  | _ => .error .illegal

/-- The width in bits of the special a number names (R59), and whether `wrx` writes it. -/
def specialInfo (n : Nat) : Option (Nat × Bool) :=
  match n with
  | 0x00 | 0x01 | 0x02 | 0x03 | 0x04 | 0x05 => some (32, false)
  | 0x06 => some (64, false)
  | 0x07 | 0x08 | 0x09 => some (32, true)
  | 0x0A | 0x0B => some (32, false)
  | 0x0C | 0x0D => some (64, false)
  | 0x0E | 0x0F => some (32, false)
  | 0x10 | 0x12 | 0x14 => some (32, true)
  | 0x11 | 0x13 => some (64, true)
  | _ => none

/-- The 64-bit privileged registers, which take a pair (R386). -/
def privWide (r : BitVec 12) : Bool :=
  r.toNat = 0x010 || r.toNat = 0x018 || r.toNat = 0x020 || r.toNat = 0x028

/-- The ILLEGAL checks on the operand fields of an S instruction: an odd register in a pair slot
(R118), an unlisted special (R59), an unassigned atomic function (R122). -/
def legalS (i : Instr) : Bool :=
  match i with
  | .dadd d a b | .dsub d a b => evenReg d && evenReg a && evenReg b
  | .dshl d a _ | .dshr d a _ | .dsra d a _ => evenReg d && evenReg a
  | .daddi d a _ => evenReg d && evenReg a
  | .rdx d n =>
    match specialInfo n.toNat with
    | some (w, _) => w != 64 || evenReg d
    | none => false
  | .wrx a n =>
    match specialInfo n.toNat with
    | some (w, wr) => wr && (w != 64 || evenReg a)
    | none => false
  | .ld d _ sz _ | .st d _ sz _ | .lds d _ sz _ | .sts d _ sz _ => sz.toNat != 3 || evenReg d
  | .atom d a b order scope op =>
    op.toNat != 15 && !(order.toNat = 0 && scope.toNat != 0) && evenReg a &&
      (op.toNat < 12 || (evenReg d && evenReg b))
  | .atoms d a b _ scope op =>
    op.toNat != 15 && scope.toNat = 0 && evenReg a && (op.toNat < 12 || (evenReg d && evenReg b))
  | .jr a => evenReg a
  | .lget d _ | .cinfo d _ _ | .fqpop d => evenReg d
  | .pour a | .kpour a _ _ | .binit a _ _ | .barrive a _ | .bexpect a _ | .bwait a _ _ | .binval a
  | .bput a _ _ | .accld a _ _ | .accst a _ _ | .steepGrad _ a _ | .tinval a | .ctxsave a
  | .ctxload a => evenReg a
  | .mma a b _ _ _ _ _ | .mxreq a b _ => evenReg a && evenReg b
  | .sysr d r => !privWide r || evenReg d
  | .sysw a r => !privWide r || evenReg a
  | _ => true

/-- The reserved values of the operand fields of an S instruction (R121). -/
def unreservedS (i : Instr) : Bool :=
  match i with
  | .fence order scope => order.toNat != 0 && scope.toNat < 5
  | .bCond _ cond _ => cond.toNat < 6
  | .grow k | .shrink k => k.toNat != 0
  | .cjoin kind n | .cleave kind n | .csync kind n | .cinfo _ kind n =>
    kind.toNat = 1 || n.toNat < 16
  | _ => true

/-- The word of an S instruction (R117 to R122); `none` for what is not an S instruction. -/
def encodeS (i : Instr) : Option Word :=
  match i with
  | .add d a b => some (packSA 0x01 d a b 0x00)
  | .sub d a b => some (packSA 0x01 d a b 0x01)
  | .mul d a b => some (packSA 0x01 d a b 0x02)
  | .mulh d a b => some (packSA 0x01 d a b 0x03)
  | .mulhu d a b => some (packSA 0x01 d a b 0x04)
  | .div d a b => some (packSA 0x01 d a b 0x05)
  | .divu d a b => some (packSA 0x01 d a b 0x06)
  | .rem d a b => some (packSA 0x01 d a b 0x07)
  | .remu d a b => some (packSA 0x01 d a b 0x08)
  | .and d a b => some (packSA 0x01 d a b 0x10)
  | .or d a b => some (packSA 0x01 d a b 0x11)
  | .xor d a b => some (packSA 0x01 d a b 0x12)
  | .andn d a b => some (packSA 0x01 d a b 0x13)
  | .shl d a b => some (packSA 0x01 d a b 0x14)
  | .shr d a b => some (packSA 0x01 d a b 0x15)
  | .sra d a b => some (packSA 0x01 d a b 0x16)
  | .rot d a b => some (packSA 0x01 d a b 0x17)
  | .min d a b => some (packSA 0x01 d a b 0x20)
  | .minu d a b => some (packSA 0x01 d a b 0x21)
  | .max d a b => some (packSA 0x01 d a b 0x22)
  | .maxu d a b => some (packSA 0x01 d a b 0x23)
  | .seq d a b => some (packSA 0x01 d a b 0x30)
  | .sne d a b => some (packSA 0x01 d a b 0x31)
  | .slt d a b => some (packSA 0x01 d a b 0x32)
  | .sltu d a b => some (packSA 0x01 d a b 0x33)
  | .sle d a b => some (packSA 0x01 d a b 0x34)
  | .sleu d a b => some (packSA 0x01 d a b 0x35)
  | .clz d a => some (packSA 0x01 d a 0 0x24)
  | .popc d a => some (packSA 0x01 d a 0 0x25)
  | .addi d a imm => some (packSI 0x02 d a imm)
  | .andi d a imm => some (packSI 0x03 d a imm)
  | .ori d a imm => some (packSI 0x04 d a imm)
  | .xori d a imm => some (packSI 0x05 d a imm)
  | .shli d a n => some (packSI 0x06 d a (0#2 ++ 0#7 ++ n))
  | .shri d a n => some (packSI 0x06 d a (1#2 ++ 0#7 ++ n))
  | .srai d a n => some (packSI 0x06 d a (2#2 ++ 0#7 ++ n))
  | .roti d a n => some (packSI 0x06 d a (3#2 ++ 0#7 ++ n))
  | .slti d a imm => some (packSI 0x07 d a imm)
  | .lui d imm => some (packSU 0x08 d imm)
  | .dadd d a b => some (packSA 0x09 d a b 0)
  | .dsub d a b => some (packSA 0x09 d a b 1)
  | .dshl d a b => some (packSA 0x09 d a b 2)
  | .dshr d a b => some (packSA 0x09 d a b 3)
  | .dsra d a b => some (packSA 0x09 d a b 4)
  | .daddi d a imm => some (packSI 0x0A d a imm)
  | .rdx d n => some (packSI 0x0B d 0 (0#6 ++ n))
  | .wrx a n => some (packSI 0x0C 0 a (0#6 ++ n))
  | .ld d q sz imm => some (packSM 0x10 d q sz imm)
  | .st d q sz imm => some (packSM 0x11 d q sz imm)
  | .atom d a b order scope op => some (packSA 0x12 d a b (order ++ scope ++ op))
  | .lds d q sz imm => some (packSM 0x14 d q sz imm)
  | .sts d q sz imm => some (packSM 0x15 d q sz imm)
  | .atoms d a b order scope op => some (packSA 0x16 d a b (order ++ scope ++ op))
  | .fence order scope => some (packSI 0x17 0 0 (0#2 ++ order ++ scope ++ 0#7))
  | .rfence => some (packSI 0x17 0 0 (1#2 ++ 0#12))
  | .bCond a cond off => some (packSB 0x18 a cond off)
  | .jmp off => some (packSJ 0x19 off)
  | .call off => some (packSJ 0x1A off)
  | .jr a => some (packSA 0x1B 0 a 0 0)
  | .ret a => some (packSA 0x1B 0 a 0 1)
  | .lrun index => some (packSJ 0x20 index)
  | .lwait => some (packSJ 0x21 0)
  | .lget d slot => some (packSI 0x22 d 0 (0#11 ++ slot))
  | .grow k => some (packSI 0x23 0 0 (0#1 ++ 0#9 ++ k))
  | .shrink k => some (packSI 0x23 0 0 (1#1 ++ 0#9 ++ k))
  | .cjoin kind n => some (packSI 0x24 0 0 (0#2 ++ kind ++ 0#5 ++ n))
  | .cleave kind n => some (packSI 0x24 0 0 (1#2 ++ kind ++ 0#5 ++ n))
  | .csync kind n => some (packSI 0x24 0 0 (2#2 ++ kind ++ 0#5 ++ n))
  | .cinfo d kind n => some (packSI 0x24 d 0 (3#2 ++ kind ++ 0#5 ++ n))
  | .pour a => some (packSA 0x25 0 a 0 0)
  | .withdraw a => some (packSA 0x26 0 a 0 0)
  | .endTeam => some (packSA 0x27 0 0 0 0)
  | .yield => some (packSA 0x27 0 0 0 1)
  | .tresume => some (packSA 0x27 0 0 0 2)
  | .tresumeAt a => some (packSA 0x27 0 a 0 3)
  | .kpour a tok ch => some (packSE 0x28 a 0 0 tok (0#2 ++ ch))
  | .twait mask => some (packSI 0x29 0 0 (0#5 ++ 0#1 ++ mask))
  | .tprobe d mask => some (packSI 0x29 d 0 (0#5 ++ 1#1 ++ mask))
  | .binit a b c => some (packSE 0x2A a b c 0 0)
  | .barrive a b => some (packSE 0x2B a b 0 0 0)
  | .bexpect a b => some (packSE 0x2B a b 0 0 1)
  | .bwait a b c => some (packSE 0x2C a b c 0 0)
  | .binval a => some (packSE 0x2D a 0 0 0 0)
  | .mcrew a => some (packSA 0x30 0 a 0 0)
  | .bput a b tok => some (packSE 0x31 a b 0 tok 0)
  | .mma a b c tok crew sparse orient =>
    some (packSE 0x32 a b c tok (crew ++ sparse ++ orient ++ 0#2))
  | .accld a c tok => some (packSE 0x33 a 0 c tok 0)
  | .accst a c tok => some (packSE 0x33 a 0 c tok 1)
  | .mxreq a b tok => some (packSE 0x34 a b 0 tok 0)
  | .mstat d => some (packSA 0x35 d 0 0 0)
  | .steepClose k => some (packSI 0x38 0 0 (0#8 ++ k))
  | .steepWait a k => some (packSI 0x39 0 a (0#8 ++ k))
  | .steepGrad d a k => some (packSI 0x3A d a (0#8 ++ k))
  | .sysr d r => some (packSI 0x3C d 0 (0#1 ++ 0#1 ++ r))
  | .sysw a r => some (packSI 0x3C 0 a (1#1 ++ 0#1 ++ r))
  | .eret => some (packSA 0x3D 0 0 0 0)
  | .tinval a => some (packSA 0x3D 0 a 0 1)
  | .tsync => some (packSA 0x3D 0 0 0 2)
  | .ctxsave a => some (packSA 0x3D 0 a 0 3)
  | .ctxload a => some (packSA 0x3D 0 a 0 4)
  | .fqpop d => some (packSA 0x3D d 0 0 5)
  | .svc imm => some (packSU 0x3E 0 imm)
  | _ => none

/-- Decoding an S word (R115). Every bit that the named instruction does not use must be zero: the
word must be the one the instruction's own fields give back. -/
def decodeS (w : Word) : Except DecodeFault Instr :=
  match buildS w with
  | .error e => .error e
  | .ok i =>
    if !legalS i then .error .illegal
    else if encodeS i != some w || !unreservedS i then .error .reservedField
    else .ok i

/-! ### L instructions: fields (R123 to R127) -/

/-- The type a code names (R127). -/
def LType.ofCode (c : BitVec 4) : LType :=
  match c.toNat with
  | 0 => .i32 | 1 => .n32 | 2 => .i16 | 3 => .n16 | 4 => .i8 | 5 => .n8 | 6 => .i64 | 7 => .n64
  | 8 => .f32 | 9 => .f16 | 10 => .bf16 | 11 => .e4m3 | 12 => .e5m2 | 13 => .e2m1 | 14 => .ef
  | _ => .blk

/-- The code of a type (R127). -/
def LType.code (t : LType) : BitVec 4 :=
  match t with
  | .i32 => 0 | .n32 => 1 | .i16 => 2 | .n16 => 3 | .i8 => 4 | .n8 => 5 | .i64 => 6 | .n64 => 7
  | .f32 => 8 | .f16 => 9 | .bf16 => 10 | .e4m3 => 11 | .e5m2 => 12 | .e2m1 => 13 | .ef => 14
  | .blk => 15

/-- The register a 9-bit number names; a reserved number names none (R126). -/
def Reg.ofNum (n : BitVec 9) : Option Reg :=
  if n.toNat < 128 then some (.v (n.extractLsb' 0 7))
  else if n.toNat < 144 then some (.e (n.extractLsb' 0 4))
  else if n.toNat < 152 then some (.m (n.extractLsb' 0 3))
  else if n.toNat < 160 then none
  else if n.toNat < 176 then some (.p (n.extractLsb' 0 4))
  else if n.toNat = 176 then some .prc
  else if n.toNat = 178 then some .lid
  else if n.toNat = 179 then some .tid
  else if n.toNat = 511 then some .zero
  else none

/-- The number of a register (R126). -/
def Reg.num (r : Reg) : BitVec 9 :=
  match r with
  | .v n => 0#2 ++ n
  | .e n => 0b01000#5 ++ n
  | .m n => 0b010010#6 ++ n
  | .p n => 0b01010#5 ++ n
  | .prc => 176
  | .lid => 178
  | .tid => 179
  | .zero => 511

/-- What a 12-bit source field names (R124): a latch when bit 11 is set, else a register. The bits
that must be zero are checked by encoding the instruction again. -/
def Src.ofBits (f : BitVec 12) : Option Src :=
  if f.getLsbD 11 then some (.lat (f.extractLsb' 9 2))
  else (Reg.ofNum (f.extractLsb' 0 9)).map .reg

/-- The 12-bit source field of an operand (R124). -/
def Src.bits (s : Src) : BitVec 12 :=
  match s with
  | .reg r => 0#3 ++ r.num
  | .lat k => 1#1 ++ k ++ 0#9

/-- What the destination fields name (R125): NW, latch, latch write and register number. `none`
when they name nothing (a reserved number, or NW without a latch write and no register). -/
def Dst.ofBits (f : BitVec 13) : Option Dst :=
  let k := f.extractLsb' 10 2
  let n := f.extractLsb' 0 9
  match f.getLsbD 12, f.getLsbD 9 with
  | false, false => (Reg.ofNum n).map .r
  | false, true => (Reg.ofNum n).map (.rl · k)
  | true, true => if n.toNat = 511 then some (.l k) else (Reg.ofNum n).map (.rl · k)
  | true, false => if n.toNat = 511 then none else (Reg.ofNum n).map .r

/-- The 13 destination bits of a destination (R125). -/
def Dst.bits (d : Dst) : BitVec 13 :=
  match d with
  | .r x => 0#1 ++ 0#2 ++ 0#1 ++ x.num
  | .rl x k => 0#1 ++ k ++ 1#1 ++ x.num
  | .l k => 1#1 ++ k ++ 1#1 ++ 511#9

/-- Word 0 of an L instruction (R123). -/
def packL0 (op : BitVec 8) (sub : BitVec 4) (ty : LType) (ms : BitVec 3) (d : BitVec 13) : Word :=
  op ++ sub ++ ty.code ++ ms ++ d
/-- Word 1: source A, source B, source C [11:4]. -/
def packL1 (a b c : BitVec 12) : Word := a ++ b ++ c.extractLsb' 4 8
/-- Word 2: source C [3:0], modifier, imm24. -/
def packL2 (c : BitVec 12) (md : BitVec 4) (imm : BitVec 24) : Word := c.extractLsb' 0 4 ++ md ++ imm

/-! ### L instructions: the opcode map (R128) -/

/-- The instruction that an opcode and a sub-operation name, with its operand fields (R128). The
sub-operation stays in the fields of the instructions whose meaning it selects. -/
def instrOfCode (op : BitVec 8) (f : LF) : Option Instr :=
  let only (i : LF → Instr) : Option Instr :=
    if f.sub.toNat = 0 then some (i f) else none
  match op.toNat with
  | 0x00 => only .vadd
  | 0x01 => only .vsub
  | 0x02 => only .vmul
  | 0x03 => only .vmulh
  | 0x04 => only .vmad
  | 0x05 => only .vdiv
  | 0x06 => only .vrem
  | 0x07 =>
    match f.sub.toNat with
    | 0 => some (.vneg (LF.noSub f))
    | 1 => some (.vabs (LF.noSub f))
    | _ => none
  | 0x08 => only .vand
  | 0x09 => only .vor
  | 0x0A => only .vxor
  | 0x0B => only .vandn
  | 0x0C => only .vshl
  | 0x0D => only .vshr
  | 0x0E => only .vsra
  | 0x0F => only .vrot
  | 0x10 => only .vmin
  | 0x11 => only .vmax
  | 0x12 => only .vclz
  | 0x13 => only .vpopc
  | 0x14 => some (.vcmp f)
  | 0x15 => only .vsel
  | 0x16 => only .vmov
  | 0x17 => only .vlea
  | 0x18 => only .vbfx
  | 0x19 => only .vbfi
  | 0x20 => only .vsqrt
  | 0x21 => only .vrcp
  | 0x22 => only .vrsq
  | 0x23 => only .vexp2
  | 0x24 => only .vlog2
  | 0x25 => only .vcls
  | 0x26 => only .vfinq
  | 0x27 => only .vcvt
  | 0x28 => only .vcvtSr
  | 0x29 => only .vmxq
  | 0x2A => only .vmxd
  | 0x2B => only .vprune
  | 0x2C => only .vrng
  | 0x30 => only .ewin
  | 0x31 => only .eprec
  | 0x32 => only .eround
  | 0x33 => only .esig
  | 0x34 => only .eld
  | 0x35 => only .eldn
  | 0x36 => only .est
  | 0x40 => only .vld
  | 0x41 => only .vst
  | 0x42 => some (.vatom f)
  | 0x44 => only .vlds
  | 0x45 => only .vsts
  | 0x46 => some (.vatoms f)
  | 0x47 => only .vmcast
  | 0x48 => only .vprf
  | 0x49 => some (.vfence f)
  | 0x50 => some (.softLd f)
  | 0x51 => some (.softSt f)
  | 0x52 => some (.softHarden f)
  | 0x53 => some (.softLdg f)
  | 0x60 => only .vballot
  | 0x61 => only .vrank
  | 0x62 => only .vswz
  | 0x63 => only .vbcast
  | 0x64 => some (.vred f)
  | 0x65 => some (.vscan f)
  | 0x66 =>
    match f.sub.toNat with
    | 0 => some (.mand (LF.noSub f))
    | 1 => some (.mor (LF.noSub f))
    | 2 => some (.mxor (LF.noSub f))
    | 3 => some (.mnot (LF.noSub f))
    | _ => none
  | 0x67 => only .mmov
  | 0x68 => only .vsync
  | 0x69 => only .vput
  | 0x70 => only .lif
  | 0x71 => only .lelse
  | 0x72 => only .lfi
  | 0x73 => only .ldo
  | 0x74 => only .lwhile
  | 0x75 => only .lod
  | 0x76 => only .lret
  | 0x77 => only .lhome
  | 0x78 => only .lfmt
  | 0x79 => only .ltrap
  | 0x7A => only .lnop
  | 0x80 => only .vaway
  | 0x81 => only .vrdx
  | _ => none

/-- The opcode of an L instruction of three-operand form, and its fields with the sub-operation in
place (R128). -/
def codeOf (i : Instr) : Option (BitVec 8 × LF) :=
  match i with
  | .vadd f => some (0x00, f)
  | .vsub f => some (0x01, f)
  | .vmul f => some (0x02, f)
  | .vmulh f => some (0x03, f)
  | .vmad f => some (0x04, f)
  | .vdiv f => some (0x05, f)
  | .vrem f => some (0x06, f)
  | .vneg f => some (0x07, LF.withSub f 0)
  | .vabs f => some (0x07, LF.withSub f 1)
  | .vand f => some (0x08, f)
  | .vor f => some (0x09, f)
  | .vxor f => some (0x0A, f)
  | .vandn f => some (0x0B, f)
  | .vshl f => some (0x0C, f)
  | .vshr f => some (0x0D, f)
  | .vsra f => some (0x0E, f)
  | .vrot f => some (0x0F, f)
  | .vmin f => some (0x10, f)
  | .vmax f => some (0x11, f)
  | .vclz f => some (0x12, f)
  | .vpopc f => some (0x13, f)
  | .vcmp f => some (0x14, f)
  | .vsel f => some (0x15, f)
  | .vmov f => some (0x16, f)
  | .vlea f => some (0x17, f)
  | .vbfx f => some (0x18, f)
  | .vbfi f => some (0x19, f)
  | .vsqrt f => some (0x20, f)
  | .vrcp f => some (0x21, f)
  | .vrsq f => some (0x22, f)
  | .vexp2 f => some (0x23, f)
  | .vlog2 f => some (0x24, f)
  | .vcls f => some (0x25, f)
  | .vfinq f => some (0x26, f)
  | .vcvt f => some (0x27, f)
  | .vcvtSr f => some (0x28, f)
  | .vmxq f => some (0x29, f)
  | .vmxd f => some (0x2A, f)
  | .vprune f => some (0x2B, f)
  | .vrng f => some (0x2C, f)
  | .ewin f => some (0x30, f)
  | .eprec f => some (0x31, f)
  | .eround f => some (0x32, f)
  | .esig f => some (0x33, f)
  | .eld f => some (0x34, f)
  | .eldn f => some (0x35, f)
  | .est f => some (0x36, f)
  | .vld f => some (0x40, f)
  | .vst f => some (0x41, f)
  | .vatom f => some (0x42, f)
  | .vlds f => some (0x44, f)
  | .vsts f => some (0x45, f)
  | .vatoms f => some (0x46, f)
  | .vmcast f => some (0x47, f)
  | .vprf f => some (0x48, f)
  | .vfence f => some (0x49, f)
  | .softLd f => some (0x50, f)
  | .softSt f => some (0x51, f)
  | .softHarden f => some (0x52, f)
  | .softLdg f => some (0x53, f)
  | .vballot f => some (0x60, f)
  | .vrank f => some (0x61, f)
  | .vswz f => some (0x62, f)
  | .vbcast f => some (0x63, f)
  | .vred f => some (0x64, f)
  | .vscan f => some (0x65, f)
  | .mand f => some (0x66, LF.withSub f 0)
  | .mor f => some (0x66, LF.withSub f 1)
  | .mxor f => some (0x66, LF.withSub f 2)
  | .mnot f => some (0x66, LF.withSub f 3)
  | .mmov f => some (0x67, f)
  | .vsync f => some (0x68, f)
  | .vput f => some (0x69, f)
  | .lif f => some (0x70, f)
  | .lelse f => some (0x71, f)
  | .lfi f => some (0x72, f)
  | .ldo f => some (0x73, f)
  | .lwhile f => some (0x74, f)
  | .lod f => some (0x75, f)
  | .lret f => some (0x76, f)
  | .lhome f => some (0x77, f)
  | .lfmt f => some (0x78, f)
  | .ltrap f => some (0x79, f)
  | .lnop f => some (0x7A, f)
  | .vaway f => some (0x80, f)
  | .vrdx f => some (0x81, f)
  | _ => none

/-- The classes of registers that an operand slot accepts (R191, R232, R343). -/
inductive Cls where
  /-- the slot is unused: it holds zero -/
  | no
  /-- `v`, `p`, `prc`, `lid`, `tid`, zero or a latch -/
  | v32
  /-- an even `v` or `p`, or zero -/
  | pair
  /-- an even `v` -/
  | vpair
  | m
  | mz
  | e
  | v
  | vz
  /-- a writable 32-bit register: `v`, `prc`, zero -/
  | dv
  /-- an even `v`, or zero -/
  | dpair
  | prc
  /-- `mmov`: a mask or a V32 source -/
  | mv
  /-- `mmov`: a mask or a `v` destination -/
  | dmv
  /-- `esig` with a reserved op: `v` or `e` -/
  | ve
  /-- a group of `n` `v` registers, aligned (R245) -/
  | gv (n : Nat)
  /-- a group of `n` `v` or `p` registers, aligned (R245) -/
  | gvp (n : Nat)
  /-- a group of `n` `e` registers (R245) -/
  | ge (n : Nat)
  deriving DecidableEq, Repr

/-- Whether a class accepts a register (R126, R191, R232). A group that would run past `e15` names registers that there are
not, and is not accepted (R245; log entry 113). -/
def Cls.okReg (c : Cls) (r : Reg) : Bool :=
  match c, r with
  | .no, _ => true
  | .v32, .v _ | .v32, .p _ | .v32, .prc | .v32, .lid | .v32, .tid | .v32, .zero => true
  | .pair, .v n => !n.getLsbD 0
  | .pair, .p n => !n.getLsbD 0
  | .pair, .zero => true
  | .vpair, .v n => !n.getLsbD 0
  | .m, .m _ | .mz, .m _ | .mz, .zero => true
  | .e, .e _ => true
  | .v, .v _ | .vz, .v _ | .vz, .zero => true
  | .dv, .v _ | .dv, .prc | .dv, .zero => true
  | .dpair, .v n => !n.getLsbD 0
  | .dpair, .zero => true
  | .prc, .prc => true
  | .mv, .m _ | .mv, .v _ | .mv, .p _ | .mv, .prc | .mv, .lid | .mv, .tid | .mv, .zero => true
  | .dmv, .m _ | .dmv, .v _ => true
  | .ve, .v _ | .ve, .e _ => true
  | .gv n, .v j => j.toNat % n == 0
  | .gvp n, .v j => j.toNat % n == 0
  | .gvp n, .p j => j.toNat % n == 0
  | .ge n, .e j => j.toNat + n ≤ 16
  | _, _ => false

/-- Whether a class accepts a latch (R124). -/
def Cls.okLatch (c : Cls) : Bool :=
  match c with
  | .no | .v32 | .mv => true
  | _ => false

/-- Whether a class accepts what a source slot names; a reserved number names nothing. -/
def Cls.okSrc (c : Cls) (s : Option Src) : Bool :=
  match s with
  | some (.reg r) => c.okReg r
  | some (.lat _) => c.okLatch
  | none => true

/-- Whether a class accepts what the destination fields name. A latch-only destination names no
register, which only `eprec`, whose destination is `prc`, refuses (R251). -/
def Cls.okDst (c : Cls) (d : Option Dst) : Bool :=
  match d with
  | some (.r r) | some (.rl r _) => c.okReg r
  | some (.l _) => c != .prc
  | none => true

/-- The type sets of R127. -/
def LType.isInt (t : LType) : Bool := t.code.toNat < 8
def LType.isW32 (t : LType) : Bool := t = .i32 || t = .n32
def LType.isW64 (t : LType) : Bool := t = .i64 || t = .n64
def LType.isW (t : LType) : Bool := t.isW32 || t.isW64
def LType.isFlt (t : LType) : Bool := t = .f32 || t = .f16 || t = .bf16

/-- The pairs of types that `vcvt` converts between: destination, source (R244). -/
def vcvtPair (d s : LType) : Bool :=
  match d with
  | .f32 => s = .i32 || s = .n32 || s = .i64 || s = .n64 || s = .f16 || s = .bf16 || s = .e4m3 ||
      s = .e5m2 || s = .e2m1 || s = .ef
  | .f16 => s = .f32 || s = .bf16 || s = .i16 || s = .n16 || s = .ef
  | .bf16 => s = .f32 || s = .f16 || s = .i16 || s = .n16 || s = .ef
  | .e4m3 | .e5m2 => s = .f32 || s = .f16 || s = .bf16 || s = .ef
  | .e2m1 => s = .f32 || s = .f16 || s = .bf16
  | .i16 | .n16 => s = .f16 || s = .bf16
  | .i32 | .n32 | .i64 | .n64 => s = .f32 || s = .ef
  | .ef => s = .i32 || s = .n32 || s = .i64 || s = .n64 || s = .f32 || s = .f16 || s = .bf16
  | .i8 | .n8 | .blk => false

/-- The sub-operation and the type an opcode accepts (R128), and the type pairs of the conversions
(R244, R247). -/
def lTypeOk (op : Nat) (f : LF) : Bool :=
  let t := f.ty
  let s := f.sub.toNat
  match op with
  | 0x00 | 0x01 | 0x02 | 0x04 | 0x10 | 0x11 => t.isInt || t.isFlt || t = .ef
  | 0x03 | 0x08 | 0x09 | 0x0A | 0x0B | 0x0C | 0x0D | 0x0E | 0x0F | 0x12 | 0x13 => t.isInt
  | 0x05 => t.isW || t = .f32 || t = .ef
  | 0x06 => t.isW
  | 0x07 => t = .i32 || t = .i16 || t = .i8 || t = .i64 || t.isFlt || t = .ef
  | 0x14 => s < 8 && (((t.isW) && s < 6) || t = .f32 || t = .ef)
  | 0x15 | 0x16 => t = .i32 || t = .i64 || t = .ef
  | 0x17 | 0x18 | 0x19 => t.isW32
  | 0x20 | 0x21 | 0x22 | 0x23 | 0x24 | 0x25 | 0x26 => t.isFlt || t = .ef
  | 0x27 => vcvtPair t (LType.ofCode f.md)
  | 0x28 =>
    (t = .f16 || t = .bf16 || t = .e4m3 || t = .e5m2 || t = .e2m1) &&
      (LType.ofCode f.md = .f32 || LType.ofCode f.md = .ef)
  | 0x29 | 0x2A => t = .blk
  | 0x2B => t.isFlt
  | 0x2C => t = .n32 || t = .f32
  | 0x30 | 0x31 | 0x32 | 0x33 | 0x34 | 0x35 | 0x36 => t = .ef
  | 0x40 | 0x41 | 0x44 | 0x45 => t.isInt || t.isFlt
  | 0x42 | 0x46 =>
    if s = 0 then t.isW || t = .f32 || t = .bf16
    else if s < 6 then t.isW
    else if s = 6 then t.isW || t = .f32
    else if s = 7 then t.isW
    else false
  | 0x49 => t = .i32 && s < 5
  | 0x50 | 0x51 | 0x53 => t = .f32 && s < 8
  | 0x52 => t = .f32
  | 0x62 | 0x63 | 0x69 => t = .i32 || t = .i64
  | 0x64 => s < 6 && (t.isW || ((t = .f32 || t = .ef) && s < 3))
  | 0x65 => s % 8 < 6 && (t.isW || ((t = .f32 || t = .ef) && s % 8 < 3))
  | _ => t = .i32

/-- The opcodes that accept an immediate in place of source B (R191, R192). -/
def acceptsIB (op : Nat) : Bool :=
  op < 0x07 || (0x08 ≤ op && op < 0x12) || op = 0x14

/-- Whether an instruction takes its B operand from imm24 (R192). -/
def immB (op : Nat) (f : LF) : Bool := acceptsIB op && f.ty.isInt && f.md.getLsbD 0

/-- Elements of a type in a 32-bit lane, as R245 counts them. -/
def LType.perLane (t : LType) : Nat :=
  match t with
  | .i16 | .n16 | .f16 | .bf16 => 2
  | .i8 | .n8 | .e4m3 | .e5m2 => 4
  | .e2m1 => 8
  | _ => 1

/-- The classes of the four slots of an instruction. -/
structure Slots where
  d : Cls := .no
  a : Cls := .no
  b : Cls := .no
  c : Cls := .no
  deriving DecidableEq, Repr

/-- The class of one side of a conversion (R232, R245): a group when the side has fewer elements
per register, a pair for the 64-bit types, `e` registers for the elastic type. -/
def cvtCls (t : LType) (n : Nat) (dst : Bool) : Cls :=
  if t = .ef then .ge n
  else if t.isW64 then (if dst then .vpair else .pair)
  else if 1 < n then (if dst then .gv n else .gvp n)
  else if dst then .v else .v32

/-- The number of registers on a side with `s` elements per register, against `o` on the other. -/
def groupLen (s o : Nat) : Nat := if s < o then o / s else 1

/-- The register classes of the operand slots (R191, R226, R232, R343, R376). -/
def lSlots (op : Nat) (f : LF) : Slots :=
  let t := f.ty
  let val : Cls := if t = .ef then .e else if t.isW64 then .pair else .v32
  let dw : Cls := if t.isW64 then .dpair else .dv
  let dst : Cls := if t = .ef then .e else if t.isInt then dw else .v
  let vb : Cls := if immB op f then .no else val
  match op with
  | 0x00 | 0x01 | 0x02 | 0x03 | 0x05 | 0x06 | 0x08 | 0x09 | 0x0A | 0x0B | 0x0C | 0x0D | 0x0E
  | 0x0F | 0x10 | 0x11 => ⟨dst, val, vb, .no⟩
  | 0x04 => ⟨dst, val, vb, val⟩
  | 0x07 | 0x12 | 0x13 => ⟨dst, val, .no, .no⟩
  | 0x14 => ⟨.m, val, vb, .no⟩
  | 0x15 => ⟨dst, val, val, .m⟩
  | 0x16 => ⟨dst, val, .no, .no⟩
  | 0x17 => ⟨.vpair, .pair, .v32, .no⟩
  | 0x18 => ⟨.dv, .v32, .no, .no⟩
  | 0x19 => ⟨.dv, .v32, .v32, .no⟩
  | 0x20 | 0x21 | 0x22 | 0x23 | 0x24 => ⟨dst, val, .no, .no⟩
  | 0x25 => ⟨.v, val, .no, .no⟩
  | 0x26 => ⟨dst, val, val, .no⟩
  | 0x27 =>
    let s := LType.ofCode f.md
    ⟨cvtCls t (groupLen t.perLane s.perLane) true, cvtCls s (groupLen s.perLane t.perLane) false,
      .no, .no⟩
  | 0x28 =>
    let s := LType.ofCode f.md
    ⟨.v, cvtCls s (groupLen s.perLane t.perLane) false, .gv (groupLen s.perLane t.perLane), .no⟩
  | 0x29 | 0x2A => ⟨.v, .v32, .no, .no⟩
  | 0x2B => ⟨.v, .v32, .pair, .v32⟩
  | 0x2C => ⟨.v, .pair, .no, .no⟩
  | 0x30 => ⟨.no, .pair, .no, .no⟩
  | 0x31 => ⟨.prc, .no, .no, .no⟩
  | 0x32 => ⟨.e, .e, .no, .no⟩
  | 0x33 =>
    let k := (f.imm.extractLsb' 8 2).toNat
    ⟨if k = 0 then .v else if k = 1 then .e else .ve, .e, .no, .no⟩
  | 0x34 => ⟨.e, .pair, .no, .no⟩
  | 0x35 => ⟨.e, .vpair, .no, .no⟩
  | 0x36 => ⟨.no, .pair, .e, .no⟩
  | 0x40 | 0x44 => ⟨dw, .pair, .no, .no⟩
  | 0x41 | 0x45 => ⟨.no, .pair, val, .no⟩
  | 0x42 | 0x46 => ⟨dw, .pair, val, if f.sub.toNat = 7 then val else .no⟩
  | 0x47 => ⟨.no, .pair, .v32, .v32⟩
  | 0x48 => ⟨.no, .pair, .no, .no⟩
  | 0x50 => ⟨.v, .v, .no, .no⟩
  | 0x51 => ⟨.no, .v, .v, .no⟩
  | 0x52 => ⟨.vz, .v, .vz, if 8 ≤ f.sub.toNat then .vpair else .no⟩
  | 0x53 => ⟨.v, .v, .v, .no⟩
  | 0x60 => ⟨.mz, .v32, .no, .no⟩
  | 0x61 => ⟨.dv, .v32, .v32, .no⟩
  | 0x62 => ⟨dw, val, .v32, .no⟩
  | 0x63 => ⟨dw, val, .no, .no⟩
  | 0x64 | 0x65 => ⟨if t = .ef then .e else dw, val, .no, .no⟩
  | 0x66 => ⟨.m, .m, if f.sub.toNat = 3 then .no else .m, .no⟩
  | 0x67 => ⟨.dmv, .mv, .no, .no⟩
  | 0x68 => ⟨.no, .m, .no, .no⟩
  | 0x69 => ⟨.no, val, .no, .no⟩
  | 0x70 | 0x74 => ⟨.no, .m, .no, .no⟩
  | 0x80 => ⟨.m, .no, .no, .no⟩
  | 0x81 => ⟨if (f.imm.extractLsb' 0 8).toNat = 6 then .dpair else .dv, .no, .no, .no⟩
  | _ => ⟨.no, .no, .no, .no⟩

/-- Whether the destination fields ask for a latch write (R125). -/
def Dst.latches (d : Dst) : Bool :=
  match d with
  | .r _ => false
  | _ => true

/-- Whether an instruction has a 32-bit lane result, which a latch can take (R125, R206, R232,
R343). -/
def hasResult32 (op : Nat) (f : LF) (d : Option Dst) : Bool :=
  match (lSlots op f).d with
  | .dv =>
    match op, d with
    | 0x42, some (.rl .zero _) | 0x46, some (.rl .zero _) => false
    | _, _ => true
  | .v => op != 0x50 && op != 0x53
  | .prc => true
  | .dmv =>
    match d with
    | some (.rl (.m _) _) => false
    | _ => true
  | .ve => true
  | _ => false

/-- `mmov` with a `v` or latch destination takes its source from a mask (R225). -/
def mmovOk (op : Nat) (d : Option Dst) (a : Option Src) : Bool :=
  if op = 0x67 then
    match d, a with
    | some (.r (.m _)), _ => true
    | some _, some (.reg (.m _)) => true
    | _, none | none, _ => true
    | _, _ => false
  else true

/-- Whether a slot of a soft instruction names a `v` register, zero, or a number that names nothing (R343). -/
def plainSrc (x : Option Src) : Bool :=
  match x with
  | some (.reg (.v _)) | some (.reg .zero) | none => true
  | _ => false

/-- The same of its destination fields. -/
def plainDst (x : Option Dst) : Bool :=
  match x with
  | some (.r (.v _)) | some (.r .zero) | some (.rl (.v _) _) | some (.rl .zero _) | some (.l _) | none => true
  | _ => false

/-- The soft instructions accept no latch, `p`, `e` or `m` register and no lane special in any slot, used or not (R343). -/
def softPlain (op : Nat) (d : Option Dst) (a b c : Option Src) : Bool :=
  op < 0x50 || 0x53 < op || (plainDst d && plainSrc a && plainSrc b && plainSrc c)

/-- The ILLEGAL checks of an L instruction (R115, R124 to R128): its type, its operand classes, a
latch write without a 32-bit result. -/
def legalL (op : Nat) (f : LF) (d : Option Dst) (a b c : Option Src) : Bool :=
  let s := lSlots op f
  lTypeOk op f && s.d.okDst d && s.a.okSrc a && s.b.okSrc b && s.c.okSrc c &&
    mmovOk op d a && softPlain op d a b c &&
    (match d with
     | some x => !x.latches || hasResult32 op f d
     | none => true)

/-- A slot that the instruction does not use holds zero (R124, R125). -/
def Cls.unusedOk (c : Cls) (isZero : Bool) : Bool := c != .no || isZero

/-- The modifier's reserved values (R129, R191, R192). -/
def modOk (op : Nat) (f : LF) : Bool :=
  let o := (f.md.extractLsb' 2 2).toNat
  let sc := (f.md.extractLsb' 0 2).toNat
  match op with
  | 0x40 => o < 2 && (sc = 0 || o != 0)
  | 0x41 => (o = 0 || o = 2) && (sc = 0 || o != 0)
  | 0x42 => sc = 0 || o != 0
  | 0x44 => o < 2 && sc = 0
  | 0x45 => (o = 0 || o = 2) && sc = 0
  | 0x46 => sc = 0
  | 0x49 => o != 0 && sc = 0
  | 0x17 => f.md.toNat < 8
  | 0x27 | 0x28 => true
  | _ => if acceptsIB op && f.ty.isInt then f.md.toNat < 2 else f.md.toNat = 0

/-- The reserved values of imm24 (R129, R191, R192, R198, R214, R217, R218, R220, R221, R226, R242,
R243, R251, R257, R259, R260, R343). -/
def immOk (op : Nat) (f : LF) : Bool :=
  let n := f.imm.toNat
  match op with
  | 0x17 | 0x34 | 0x35 | 0x36 | 0x40 | 0x41 | 0x42 | 0x44 | 0x45 | 0x46 | 0x47 | 0x48 => true
  | 0x70 | 0x71 | 0x73 | 0x75 | 0x79 => true
  | 0x18 | 0x19 => n < 2048 && n % 32 + n / 32 + 1 ≤ 32
  | 0x2B => n < 65536
  | 0x2C => n / 65536 ≤ 24 && (f.ty = .n32 || n / 65536 = 0)
  | 0x31 =>
    !f.imm.getLsbD 23 && (f.imm.extractLsb' 16 4).toNat = 0 &&
      (f.imm.getLsbD 22 || (f.imm.extractLsb' 12 4).toNat = 0) &&
      (f.imm.getLsbD 21 || (f.imm.extractLsb' 4 8).toNat = 0) &&
      (f.imm.getLsbD 20 || (f.imm.extractLsb' 0 4).toNat = 0)
  | 0x32 => n < 17 && n != 1
  | 0x33 => n < 512 && (256 ≤ n || n = 0)
  | 0x50 | 0x51 | 0x52 | 0x53 => n < 64
  | 0x60 => n < 16
  | 0x64 => n < 16 && (f.ty != .ef || n < 8)
  | 0x63 => n < 1024
  | 0x69 => n < 8
  | 0x78 => n < 256
  | 0x81 => n < 7 || n = 16
  | _ => immB op f || n = 0

/-- The opcodes whose mask select must be zero (R130, R252, R376). -/
def maskSelOk (op : Nat) (f : LF) : Bool :=
  f.ms.toNat = 0 ||
    !((0x70 ≤ op && op ≤ 0x7A) || op = 0x30 || op = 0x49 || op = 0x4A || op = 0x68 || op = 0x80)

/-- The RESERVED_FIELD checks of an L instruction on the values its fields keep (R115). -/
def unreservedL (op : Nat) (f : LF) : Bool :=
  let s := lSlots op f
  s.d.unusedOk (f.d == .r (.v 0)) && s.a.unusedOk (f.a == .reg (.v 0)) &&
    s.b.unusedOk (f.b == .reg (.v 0)) && s.c.unusedOk (f.c == .reg (.v 0)) &&
    modOk op f && immOk op f && maskSelOk op f

/-- The three words of an L instruction (R123). -/
def encodeL (i : Instr) : Option (Word × Word × Word) :=
  match i with
  | .vmovImm ty ms d imm =>
    some (packL0 0x16 1 ty ms d.bits, imm.extractLsb' 0 32, imm.extractLsb' 32 32)
  | .vstage ew imm =>
    some (packL0 0x4A (if ew then 1 else 0) .i32 0 0, imm.extractLsb' 0 32, imm.extractLsb' 32 32)
  | _ =>
    match codeOf i with
    | some (op, f) =>
      some (packL0 op f.sub f.ty f.ms f.d.bits, packL1 f.a.bits f.b.bits f.c.bits,
        packL2 f.c.bits f.md f.imm)
    | none => none

/-- The checks of `vmov` in LX form (R191, R200): ILLEGAL, then the rest. -/
def vmovImmLegal (ty : LType) (d : Option Dst) : Bool :=
  (ty = .i32 || ty = .i64) &&
    (if ty = .i64 then Cls.okDst .dpair d else Cls.okDst .dv d) &&
    (match d with
     | some x => !x.latches || ty = .i32
     | none => true)

/-- Decoding the three words of an L instruction (R115, R123 to R130). -/
def decodeL (w0 w1 w2 : Word) : Except DecodeFault Instr :=
  let op := fld w0 24 8
  let sub := fld w0 20 4
  let ty := LType.ofCode (fld w0 16 4)
  let ms := fld w0 13 3
  let db := fld w0 0 13
  let d := Dst.ofBits db
  if op.toNat = 0x4A then
    if ty != .i32 || 2 ≤ sub.toNat || db.getLsbD 9 then .error .illegal
    else if ms.toNat != 0 || db.toNat != 0 then .error .reservedField
    else .ok (.vstage (sub.getLsbD 0) (w2 ++ w1))
  else if op.toNat = 0x16 && sub.toNat = 1 then
    if !vmovImmLegal ty d || (d.isNone && db.getLsbD 9 && ty != .i32) then .error .illegal
    else
      match d with
      | none => .error .reservedField
      | some x =>
        if x.bits != db || (ty = .i32 && w2.toNat != 0) then .error .reservedField
        else .ok (.vmovImm ty ms x (w2 ++ w1))
  else
    let fa := fld w1 20 12
    let fb := fld w1 8 12
    let fc : BitVec 12 := fld w1 0 8 ++ fld w2 28 4
    let a := Src.ofBits fa
    let b := Src.ofBits fb
    let c := Src.ofBits fc
    let f : LF := ⟨ty, sub, ms, d.getD (.r (.v 0)), a.getD (.reg (.v 0)), b.getD (.reg (.v 0)),
      c.getD (.reg (.v 0)), fld w2 24 4, fld w2 0 24⟩
    match instrOfCode op f with
    | none => .error .illegal
    | some i =>
      if (lSlots op.toNat f).d = .no && db.getLsbD 9 then .error .illegal
      else if !legalL op.toNat f d a b c then .error .illegal
      -- a latch write of a result that is none of 32 bits, with a destination number that names nothing (R125)
      else if d.isNone && db.getLsbD 9 && !hasResult32 op.toNat f d then .error .illegal
      else if f.d.bits != db || f.a.bits != fa || f.b.bits != fb || f.c.bits != fc ||
          !unreservedL op.toNat f then .error .reservedField
      else .ok i

/-! ### Bytes and table words -/

/-- The word that four bytes hold, least significant first (00/R2). -/
def wordOfBytes (b0 b1 b2 b3 : Byte) : Word := b3 ++ b2 ++ b1 ++ b0

/-- Decoding the bytes of an instruction: an S word from four bytes. -/
def decodeSBytes (bs : List Byte) : Except DecodeFault (Instr × List Byte) :=
  match bs with
  | b0 :: b1 :: b2 :: b3 :: rest => (decodeS (wordOfBytes b0 b1 b2 b3)).map (·, rest)
  | _ => .error .illegal

/-- Decoding the bytes of an L instruction: three words at increasing addresses. -/
def decodeLBytes (bs : List Byte) : Except DecodeFault (Instr × List Byte) :=
  match bs with
  | a0 :: a1 :: a2 :: a3 :: b0 :: b1 :: b2 :: b3 :: c0 :: c1 :: c2 :: c3 :: rest =>
    (decodeL (wordOfBytes a0 a1 a2 a3) (wordOfBytes b0 b1 b2 b3) (wordOfBytes c0 c1 c2 c3)).map
      (·, rest)
  | _ => .error .illegal

/-- The `n` low bytes of a number, least significant first: how the memory holds it. -/
def bytesOfNat (n w : Nat) : List Byte :=
  match n with
  | 0 => []
  | k + 1 => BitVec.ofNat 8 w :: bytesOfNat k (w / 256)

/-- The instruction that the decoder reads from the bits `w` of an instruction, numbered as
spec/opcode_table.json numbers them: an S word for up to 32 bits, else the three words of an L
instruction, the first in the low bits. -/
def decodeTableWord (nbits w : Nat) : Option Instr :=
  if nbits ≤ 32 then
    match decodeSBytes (bytesOfNat 4 w) with
    | .ok (i, _) => some i
    | .error _ => none
  else
    match decodeLBytes (bytesOfNat 12 w) with
    | .ok (i, _) => some i
    | .error _ => none

/-! ### The encoder -/

/-- The words of an instruction: one for an S instruction, three for an L instruction, none for a
step of another agent. -/
def encode (i : Instr) : List Word :=
  match encodeS i with
  | some w => [w]
  | none =>
    match encodeL i with
    | some (w0, w1, w2) => [w0, w1, w2]
    | none => []

/-- Decoding a list of words: one word is an S word, three are an L instruction. -/
def decode (ws : List Word) : Except DecodeFault Instr :=
  match ws with
  | [w] => decodeS w
  | [w0, w1, w2] => decodeL w0 w1 w2
  | _ => .error .illegal

/-- The decode checks on an instruction's own fields: what an S or L instruction must satisfy to be
one that the decoder answers. A step of another agent has no encoding and passes. -/
def checkInstr (i : Instr) : Option DecodeFault :=
  match encodeS i with
  | some _ =>
    if !legalS i then some .illegal else if !unreservedS i then some .reservedField else none
  | none =>
    match i with
    | .vmovImm ty _ d imm =>
      if !vmovImmLegal ty (some d) then some .illegal
      else if ty = .i32 && (imm.extractLsb' 32 32).toNat != 0 then some .reservedField else none
    | _ =>
      match codeOf i with
      | some (op, f) =>
        if !(instrOfCode op f = some i) then some .illegal
        else if (lSlots op.toNat f).d = .no && f.d.latches then some .illegal
        else if !legalL op.toNat f (some f.d) (some f.a) (some f.b) (some f.c) then some .illegal
        else if !unreservedL op.toNat f then some .reservedField
        else none
      | none => none

end Sys2Proof
end

