-- ==== Sys2Proof/Machine/Names.lean ====
section
/-!
DEFINITION. What an L instruction names: its opcode and fields, the classes of its slots, and the latches that it reads
(03/R72, R73).
-/

namespace Sys2Proof.Machine

/-- The opcode and fields of an L instruction as its slots see them; `vmov` of an immediate and `vstage`
stand with their own. -/
def lCode (i : Instr) : Nat × LF :=
  match i with
  | .vmovImm ty ms d _ => (0x16, { ty := ty, sub := 1, ms := ms, d := d })
  | .vstage ew _ => (0x4A, { sub := if ew then 1 else 0 })
  | _ => match codeOf i with | some (op, f) => (op.toNat, f) | none => (0, {})

/-- The classes of the slots; the LX form of `vmov` has a destination only (05/R123). -/
def lSlotsOf (i : Instr) : Slots :=
  let (op, f) := lCode i
  if op = 0x16 && f.sub = 1 then { d := if f.ty.isW64 then .dpair else .dv }
  else lSlots op f

/-- How many registers a slot of a class names. -/
def clsCount (c : Cls) : Nat :=
  match c with
  | .pair | .vpair | .dpair => 2
  | .gv n | .gvp n | .ge n => n
  | .no => 0
  | _ => 1

/-- Source slots of an instruction with their register counts. For `vcvtSr` and the soft instructions the
slots that their rules give more registers name those (09/R245, 13/R343). -/
def srcSlots (i : Instr) : List (Nat × Src) :=
  let (_, f) := lCode i
  let s := lSlotsOf i
  [(clsCount s.a, f.a), (clsCount s.b, f.b), (clsCount s.c, f.c)]

/-- The latches that an instruction reads (03/R73). -/
def latchReads (i : Instr) : List Nat :=
  (srcSlots i).filterMap (fun p =>
    match p.2 with
    | .lat k => if p.1 = 0 then none else some k.toNat
    | _ => none)

/-- Lane control: opcodes 0x70 to 0x7A (03/R73). -/
def isLaneControl (i : Instr) : Bool := let (op, _) := lCode i; 0x70 ≤ op && op ≤ 0x7A

end Sys2Proof.Machine
end

