-- ==== Sys2Proof/Machine/Image.lean ====
section
/-!
DEFINITION. The context image (15/R407 to R410) and the visitor image (14/R365, R366): the bytes that
pre-emption writes, the checks of `ctxload` (15/R392), and the values that resumption loads from them.
-/

namespace Sys2Proof.Machine

/-- The code of a cause (03/R64). -/
def causeCode (c : Cause) : Nat :=
  match c with
  | .illegal => 0x01 | .reservedField => 0x02 | .privileged => 0x03 | .align => 0x04
  | .access => 0x05 | .page => 0x06 | .scratchRange => 0x07 | .barrierStore => 0x08
  | .barrierState => 0x09 | .tokenError => 0x0A | .shape => 0x0B | .record => 0x0C | .crew => 0x0D
  | .membership => 0x0E | .reconvergenceOverflow => 0x0F | .chain => 0x10 | .window => 0x11
  | .capacity => 0x12 | .precision => 0x13 | .elasticFormat => 0x14 | .migrationRefused => 0x15
  | .notCarried => 0x16 | .softIndex => 0x17 | .steep => 0x18 | .arith => 0x19 | .queue => 0x1A
  | .grow => 0x1B | .user => 0x1C | .deviceError => 0x1E

def allCauses : List Cause :=
  [.illegal, .reservedField, .privileged, .align, .access, .page, .scratchRange, .barrierStore,
   .barrierState, .tokenError, .shape, .record, .crew, .membership, .reconvergenceOverflow, .chain,
   .window, .capacity, .precision, .elasticFormat, .migrationRefused, .notCarried, .softIndex, .steep,
   .arith, .queue, .grow, .user, .deviceError]

/-- The cause that a code names. -/
def causeOf (n : Nat) : Option Cause := allCauses.find? (fun c => causeCode c == n)

def codeOr0 (c : Option Cause) : Nat := match c with | some x => causeCode x | none => 0

/-- Padding bytes to a multiple of 8: each part begins on an 8-byte boundary (15/R407). -/
def pad8 (bs : List Byte) : List Byte := bs ++ zeros (roundUp bs.length 8 - bs.length)

/-! ### Reserved values of the specials (03/R60, R62, R70, R71; 14/R364) -/

def fmtOk (x : Word) : Bool := bitsOf x.toNat 31 8 = 0 && bitsOf x.toNat 5 3 < 5 && bitsOf x.toNat 2 0 < 5
def mcrOk (x : Word) : Bool :=
  bitsOf x.toNat 31 27 = 0 && bitsOf x.toNat 26 24 != 1 && bitsOf x.toNat 26 24 != 7
def migctlOk (x : Word) : Bool := bitsOf x.toNat 31 6 = 0 && bitsOf x.toNat 3 3 = 0
def prcOk (x : Word) : Bool := bitsOf x.toNat 31 16 = 0 && bitsOf x.toNat 14 12 < 5 && bitsOf x.toNat 3 0 < 15

/-! ### Parts that teams and continuations share -/

/-- A mask as its summary word and W/32 words (15/R409). -/
def maskBytes (w : Nat) (m : Mask) : List Byte :=
  w32le (Mask.summary m) ++ (List.range (w / 32)).flatMap (fun k => w32le (Mask.word m k))

/-- W/32 words of a mask, without a summary. -/
def maskWords (w : Nat) (m : Mask) : List Byte :=
  (List.range (w / 32)).flatMap (fun k => w32le (Mask.word m k))

def maskOfWords (w : Nat) (bs : List Byte) : Mask := BitVec.ofNat 1024 (natAt bs 0 (w / 8))

def kindCode (k : RKind) : Nat := match k with | .ifK => 0 | .elseK => 1 | .loopK => 2
/-- The kind of a code; an image with code 3 is refused (log entry 48). -/
def kindOf (n : Nat) : RKind := if n = 0 then .ifK else if n = 1 then .elseK else .loopK

/-- Tags two bits each, in order (14/R366). -/
def tagBits (rs : List VReg) : Nat := (rs.zipIdx.map (fun p => p.1.tag * 4 ^ p.2)).sum

/-- A vector register compressed by its tag (03/R65). -/
def vregBytes (w : Nat) (r : VReg) : List Byte :=
  match r with
  | .u x => w32le x
  | .a b y => w32le b ++ w32le y
  | .g _ => (r.expand w).flatMap w32le

/-- The cells of a window: ceil(C/2) for each present register (03/R77). -/
def windowCells (codes : DWord) : Nat :=
  ((List.range 16).map (fun k =>
    let c := bitsOf codes.toNat (4 * k + 3) (4 * k)
    if c = 0 then 0 else (c + 2) / 2)).sum

/-! ### Visitor images (14/R365, R366) -/

/-- The staged registers of a set, ascending. -/
def stagedList (m : BitVec 64) : List Nat := (List.range 64).filter (fun n => m.getLsbD n)

def contStaged (c : Cont) : List VReg := (stagedList c.blk.staged).map (fun n => (c.regs.v[n]?).getD (.u 0))

def contHeader (s : State) (c : Cont) : List Byte :=
  let T := s.team c.team
  let wd (m : Mask) : Word := Mask.word (m &&& c.lanes) c.word
  w32le (BitVec.ofNat 32 T.tid) ++ w32le (s.launch T.launch).lseq ++
    leBytes 4 (c.hops * 2 ^ 29 + s.logicalDie c.part (dieOfCore T.core) * 2 ^ 26 + c.blk.lpc.toNat) ++
    leBytes 4 c.tidx.toNat ++ w32le (Mask.word c.lanes c.word) ++ w32le (wd c.redo) ++
    leBytes 8 c.blk.staged.toNat ++ leBytes 4 (tagBits (contStaged c)) ++
    leBytes 4 (codeOr0 c.cause * 2 ^ 24 + c.kind * 2 ^ 21 + c.regs.prc.tag * 2 ^ 19 +
      (if c.blk.ew then 2 ^ 18 else 0) + c.blk.stack.length * 2 ^ 12 + c.word * 2 ^ 7) ++
    leBytes 4 (s.logicalCore c.part T.core) ++ w32le c.blk.fmt ++
    w64le (if c.blk.ew then c.wcodes else 0) ++ w64le c.blk.lq.rkey ++ w32le c.blk.lq.migctl ++
    leBytes 4 c.flags.toNat ++ w64le c.taddr ++ c.regs.m.toList.flatMap (fun m => w32le (wd m)) ++
    w32le c.nfcAdd ++ zeros 12

/-- A continuation in the form of R365. -/
def contImage (s : State) (c : Cont) : List Byte :=
  let lanes := Mask.lanes c.lanes 1024
  let staged := contStaged c
  let shared := staged.filter (fun r => r.tag != 2)
  let perLane := staged.filter (fun r => r.tag == 2)
  let n := c.regs.v.length
  let cells := if c.blk.ew then (List.range (windowCells c.wcodes)).map (fun k =>
    (c.regs.v[n - windowCells c.wcodes + k]?).getD (.u 0)) else []
  let lanePart (r : VReg) : List Byte := lanes.flatMap (fun l => w32le (r.at l))
  contHeader s c ++
    c.blk.stack.reverse.flatMap (fun e =>
      w32le (Mask.word (e.mask &&& c.lanes) c.word) ++ leBytes 4 (kindCode e.kind * 2 ^ 26 + e.rpc.toNat) ++
        w32le e.fmt) ++
    c.blk.lq.params.toList.flatMap w32le ++ shared.flatMap (vregBytes 32) ++
    (if c.regs.prc.tag = 2 then [] else vregBytes 32 c.regs.prc) ++
    perLane.flatMap lanePart ++ (if c.regs.prc.tag = 2 then lanePart c.regs.prc else []) ++
    cells.flatMap lanePart

/-- Flits of 32 bytes that a continuation counts as (14/R365). -/
def contFlits (s : State) (c : Cont) : Nat := roundUp (contImage s c).length 32 / 32

/-- A continuation departs: it counts against the migration budget, and enters the channel in departure
order (14/R365, R371, 10/R281). -/
def State.sendCont (s : State) (c : Cont) : State :=
  let s := s.charge c.part 3 (contFlits s c)
  { s with channel := s.channel ++ [c] }

/-! ### Team records (15/R409, R410) -/

/-- The block that a team's image describes: the one that runs, or else the held one. -/
def Team.imageBlk (T : Team) : Option Blk := match T.blk with | some b => some b | none => T.held

def lqBytes (aside : Bool) (q : LQ) : List Byte :=
  leBytes 4 ((if aside then 2 ^ 31 else 0) + q.index.toNat) ++ q.params.toList.flatMap w32le ++
    w64le q.rkey ++ w32le q.migctl ++ leBytes 4 q.n ++ zeros 12

/-- The lane queue as the image lists it: set-aside entries first, the held block's before them, then the
running block's and those behind it. -/
def Team.imageQueue (T : Team) : List (Bool × LQ) :=
  (match T.held with | some b => [(true, b.lq)] | none => []) ++ T.asideQ.map (fun q => (true, q)) ++
    (match T.blk with | some b => [(false, b.lq)] | none => []) ++ T.laneQ.map (fun q => (false, q))

def slotBytes (w : Nat) (s : Option Slot) : List Byte :=
  match s with
  | none => leBytes 4 0 ++ leBytes 4 0xFFFFFFFF
  | some x =>
    let seq := match x.hold with | some h => (h.seq.getD 0xFFFFFFFF) | none => 0xFFFFFFFF
    let op (f : LaneOp → DWord) : List Byte :=
      (List.range w).flatMap (fun l =>
        match x.ops.find? (·.lane == l) with
        | some o => w64le (f o)
        | none => zeros 8)
    leBytes 4 1 ++ w32le seq ++ ((encode x.i).flatMap w32le).take 12 ++ leBytes 4 x.lpc.toNat ++
      maskWords w x.eff ++ maskWords w x.done ++ op (·.a) ++ op (·.b) ++ op (·.c)

def tokenBytes (t : Token) : List Byte :=
  leBytes 4 t.out ++ leBytes 4 (if t.err then 1 else 0) ++ leBytes 4 (codeOr0 t.cause) ++ w32le t.tseq ++
    w64le t.tspc ++ w64le t.taddr

/-- The state code of a team (15/R409). -/
def Team.waits (T : Team) : Bool :=
  T.blocked || T.lblocked || T.wait != .none || T.shold.isSome ||
    (match T.blk with | some b => b.fetchHold.isSome | none => false)

def Team.stateCode (T : Team) : Nat :=
  match T.phase with
  | .trapped => 2
  | .ended => 3
  | .running => if T.waits then 1 else 0

/-- FMT as `rdx` and the image show it: that of the running block, or else the team's, which the next block starts with.
While the team is TRAPPED it is the handler's (02/R34). -/
def Team.fmtNow (T : Team) : Word := match T.blk with | some b => b.fmt | none => T.fmt

/-- The registers that an image holds: those of a `shrink` that blocks enqueued before it may still use among
them (07/R169). An ended team has none left, and its record shows zeros. -/
def Team.imageRegs (T : Team) : List VReg :=
  if T.phase == .ended then List.replicate T.n (.u 0) else T.regs.v

/-- The open entry of an `svc`, and the phase of a performed `csync` arrival, in a wait or in one that a trap has set aside. -/
def Wait.entry (w : Wait) : Option Word := match w with | .svc _ q => q | _ => Option.none
def Wait.arrivedIn (w : Wait) : Option Word := match w with | .csync _ _ p => some p | _ => Option.none

def Team.bytes (T : Team) (visitors : List (List Byte)) : List Byte :=
  let b := T.imageBlk
  let blk (f : Blk → Nat) : Nat := match b with | some x => f x | none => 0
  let stack : List REntry := match b with | some x => x.stack | none => []
  let svcSeq : Word := (T.wait.entry.or T.savedWait.entry).getD 0xFFFFFFFF
  let phase : Word := (T.wait.arrivedIn.or T.savedWait.arrivedIn).getD 0
  let regs := T.imageRegs ++ [T.regs.prc]
  pad8 (
    leBytes 4 T.tid ++ leBytes 4 T.stateCode ++ leBytes 4 T.imageRegs.length ++ zeros 4 ++ w64le T.spc ++
      w64le T.resume ++ leBytes 4 (blk (·.lpc.toNat)) ++
      leBytes 4 (blk (fun x => x.chainHead.toNat + (if x.restart then 2 ^ 31 else 0))) ++
      w32le T.cmdCtr ++ w32le T.softSeq ++ w32le svcSeq ++ w32le phase ++ zeros 8 ++
    T.s.toList.flatMap w32le ++
    (w32le T.nfc ++ leBytes 4 T.fpstat.toNat ++ leBytes 4 T.mstat.toNat ++ w32le T.tcause ++
      leBytes 4 T.tlpc.toNat ++ w64le T.tspc ++ w64le T.taddr ++ leBytes 4 T.tlog.toNat ++ w32le T.tseq ++
      w32le T.fmtNow ++ w64le T.rkey ++ w32le T.mcr ++ w64le T.handler ++ w32le T.migctl) ++
    T.tok.toList.flatMap tokenBytes ++
    T.slots.toList.flatMap w64le ++
    leBytes 8 T.imageQueue.length ++ T.imageQueue.flatMap (fun p => lqBytes p.1 p.2) ++
    (match T.pendL with
     | some p => leBytes 4 1 ++ leBytes 4 (causeCode p.cause) ++
        leBytes 4 (match p.slot with | some k => 8 + k.toNat | none => 0) ++ leBytes 4 p.tlpc.toNat ++
        w64le p.taddr ++ maskWords T.w p.lanes
     | none => zeros (24 + T.w / 8)) ++
    maskBytes T.w (match b with | some x => Mask.minus x.path T.away | none => Mask.minus (Mask.full T.w) T.away) ++
    maskBytes T.w T.away ++ T.regs.m.toList.flatMap (maskBytes T.w) ++
    leBytes 8 stack.length ++ stack.reverse.flatMap (fun e =>
      maskBytes T.w e.mask ++ w32le e.fmt ++ leBytes 4 (kindCode e.kind * 2 ^ 26 + e.rpc.toNat)) ++
    (leBytes 8 (blk (·.staged.toNat)) ++ leBytes 8 (blk (fun x => if x.ew then 1 else 0)) ++
      w64le T.wcodes) ++
    leBytes (8 * ((regs.length + 31) / 32)) (tagBits regs) ++ regs.flatMap (vregBytes T.w) ++
    T.oplog.toList.flatMap (slotBytes T.w) ++
    leBytes 8 visitors.length ++ visitors.flatMap id)

/-! ### Gang images (15/R407, R408) -/

def imageMagic : Nat := 0x47435831

/-- Whether the next instruction of a block at its lane-PC reads a latch, so that it is a chain member other than the head
(03/R75). -/
def State.nextInChain (s : State) (t die : Nat) (b : Blk) : Bool :=
  let va := (s.descOf t).lbase + BitVec.ofNat 64 (12 * b.lpc.toNat)
  b.chainCount != 0 &&
    (match (s.unitRead (s.partOf t) none die va 12 none).1 with
     | .ok bs => (match decodeLBytes bs with | .ok (i, _) => !(latchReads i).isEmpty | .error _ => false)
     | .fail .. => false)

/-- The lanes that have not completed a visitor's instruction, of those that would run it (14/R377). -/
def Blk.restOf (b : Blk) (lanes : Mask) : Mask :=
  if b.part = 0 then lanes else match b.rest with | some r => r.1 | none => Mask.minus lanes b.part

/-- A visitor's image (14/R380): a continuation of kind 0. An instruction that some lanes have completed restarts, for the
lanes that have not, as a trapped one would (R377); one that none has, or the next one, is issued again, at its chain's
head where it is a later member (03/R75). A hold is kept with its resolution (15/R396), and the lanes that its
instruction leaves. The path of lanes stays with the device, as the form has no place for it (DESIGN CHOICE: R365, R380; log
entry 123). -/
def State.imageCont (s : State) (V : Visitor) : Cont :=
  let c := V.cont
  let b := c.blk
  let at_ (lpc : BitVec 26) : Blk := { b.cut with lpc := lpc, part := 0, restart := false, chainCount := 0 }
  if b.part != 0 then
    let todo := b.restOf (Mask.minus c.lanes b.part)
    { c with kind := 0, redo := todo, tidx := b.lpc, held := V.hold,
             blk := { at_ (if 1 < b.chainCount then b.chainHead else b.lpc) with redo := (todo, b.lpc) :: b.redo } }
  else
    let next := match V.fly with
      | some k => k.chainHead
      | none => if s.nextInChain c.team (dieOfCore V.core) b then b.chainHead else b.lpc
    { c with kind := 0, held := V.hold,
             redo := (match b.redo with | r :: _ => r.1 &&& c.lanes | [] => c.lanes),
             tidx := (match b.redo with | r :: _ => r.2 | [] => c.tidx), blk := at_ next }

/-- The continuations of a team that its image holds: visitors, and those in channels and inboxes
(14/R380), each as a continuation of kind 0 or a return. -/
def State.roamOf (s : State) (t : Nat) : List Cont :=
  (s.visitors.filter (fun v => v.alive && v.cont.team == t)).map (fun v =>
      { s.imageCont v with dst := dieOfCore v.core }) ++
    s.channel.filter (·.team == t) ++
    s.dies.toList.flatMap (fun d => d.inbox.filter (·.team == t))

def circleBytes (c : Circle) : List Byte :=
  leBytes 2 (c.members.map (2 ^ ·)).sum ++ leBytes 2 (c.arrived.map (2 ^ ·)).sum ++ w32le c.phase ++
    zeros 8

/-- The chains of a gang on its cluster, in channel order and then in order of acceptance. -/
def State.chainsOf (s : State) (g : Nat) : List (Nat × Chain) :=
  (List.range 8).flatMap (fun ch =>
    ((s.chan (s.gang g).cluster ch).filter (fun k => k.gang == g)).map (fun k => (ch, k)))

def chainBytes (p : Nat × Chain) : List Byte :=
  leBytes 2 p.1 ++ leBytes 2 p.2.tok.toNat ++ w32le p.2.tag ++ w64le p.2.next

def jobBytes (j : Job) : List Byte :=
  let m := j.members.headD { team := 0, tok := 0, tag := 0, spc := 0, pairA := 0, recA := [], sc := 0 }
  w32le j.word ++ zeros 4 ++ w64le m.pairA ++ w64le j.pairB ++ w32le m.sc ++ leBytes 4 m.tok.toNat ++
    w32le m.tag ++ leBytes 4 j.done ++ zeros 8

def spadBytesOf (G : Gang) (units : Nat) : List Byte :=
  G.spad.readN 0 (4096 * units) ++
    leBytes (64 * units) (G.live.map (fun w => 2 ^ (w / 8))).sum

/-- The image of a gang on a cluster, with its size in the header. -/
def State.imageBytes (s : State) (g : Nat) (owner reason : Nat) : List Byte :=
  let G := s.gang g
  let L := s.launch G.launch
  let c := s.cluster G.cluster
  let chains := s.chainsOf g
  let jobs := c.jobs.filter (fun j => j.gang == g)
  let engine : Option (Memory × Memory) := if c.holder == some g then some (c.acc, c.bstore) else G.engine
  let body :=
    ((List.range 16).flatMap (fun k => circleBytes ((G.circles[k]?).getD .empty))) ++
    pad8 (leBytes 8 chains.length ++ chains.flatMap chainBytes) ++
    pad8 (match engine with
      | some (acc, bst) => leBytes 8 1 ++ acc.readN 0 (2 * 2 ^ 20) ++ bst.readN 0 (8 * 2 ^ 20) ++
        leBytes 8 jobs.length ++ jobs.flatMap jobBytes
      | none => leBytes 8 0) ++
    pad8 (spadBytesOf G L.desc.spad) ++
    G.teams.flatMap (fun t => (s.team t).bytes ((s.roamOf t).map (contImage s)))
  leBytes 4 imageMagic ++ leBytes 2 1 ++ leBytes 1 owner ++ leBytes 1 0 ++ leBytes 4 (256 + body.length) ++
    leBytes 4 reason ++ w32le L.lseq ++ leBytes 4 G.num ++ zeros (0x80 - 0x18) ++
    (L.desc.raw ++ zeros 128).take 128 ++ body

/-- The size of a gang's image as it stands. -/
def State.imageSize (s : State) (g : Nat) : Nat := (s.imageBytes g 0 0).length

/-! ### Reading a team record -/

/-- Vector registers read back by their tags; the rest of the bytes. -/
def readRegs (w : Nat) (tags : List Nat) (bs : List Byte) : List VReg × List Byte :=
  match tags with
  | [] => ([], bs)
  | t :: r =>
    let (x, n) : VReg × Nat :=
      if t = 0 then (.u (wordAt bs 0), 4)
      else if t = 1 then (.a (wordAt bs 0) (wordAt bs 4), 8)
      else (.g ((List.range w).map (fun k => wordAt bs (4 * k))), 4 * w)
    let rest := readRegs w r (bs.drop n)
    (x :: rest.1, rest.2)

def readStack (w k : Nat) (bs : List Byte) : List REntry :=
  (List.range k).map (fun j =>
    let e := bs.drop (j * (12 + w / 8))
    let rk := natAt e (8 + w / 8) 4
    { mask := maskOfWords w (e.drop 4), fmt := wordAt e (4 + w / 8),
      rpc := BitVec.ofNat 26 rk, kind := kindOf (bitsOf rk 27 26) })

/-- An entry of a stack part: KIND 0 to 2, nothing above it, and a defined FMT. -/
def readEntryOk (w : Nat) (e : List Byte) : Bool :=
  natAt e (8 + w / 8) 4 < 3 * 2 ^ 26 && fmtOk (wordAt e (4 + w / 8))

/-- The entry of the lane queue with the registers that an image holds for it. -/
def LQ.load (q : LQ) (e : List Byte) : LQ :=
  { q with index := BitVec.ofNat 26 (natAt e 0 4),
           params := Vector.ofFn (fun k : Fin 16 => wordAt e (4 + 4 * k.val)),
           rkey := dwordAt e 68, migctl := wordAt e 76, n := natAt e 80 4 }

/-- What a team record says, laid out: the offsets of its parts. -/
structure TeamParts where
  hdr : List Byte
  sregs : List Byte
  specials : List Byte
  tokens : List Byte
  results : List Byte
  queue : List (List Byte)
  pend : List Byte
  masks : List Byte
  stack : List REntry
  /-- no entry has KIND 3, a reserved FMT or a bit above KIND -/
  stackOk : Bool
  staged : List Byte
  /-- no register has tag 3 -/
  tagsOk : Bool
  regs : List VReg
  rest : List Byte

def teamParts (w : Nat) (bs : List Byte) : TeamParts :=
  let n := natAt bs 8 4
  let q := bs.drop (64 + 256 + 72 + 256 + 64)
  let cnt := natAt q 0 8
  let p := q.drop (8 + 96 * cnt)
  let ms := p.drop (24 + w / 8)
  let st := ms.drop (10 * (4 + w / 8))
  let depth := natAt st 0 8
  let sg := st.drop (8 + depth * (12 + w / 8))
  let tg := sg.drop 24
  let nt := 8 * ((n + 1 + 31) / 32)
  let tags := (List.range (n + 1)).map (fun k => natAt tg 0 nt / 4 ^ k % 4)
  let r := readRegs w tags (tg.drop nt)
  { hdr := bs.take 64, sregs := bytesAt bs 64 256, specials := bytesAt bs 320 72,
    tokens := bytesAt bs 392 256, results := bytesAt bs 648 64,
    queue := (List.range cnt).map (fun k => bytesAt q (8 + 96 * k) 96),
    pend := p.take (24 + w / 8), masks := ms.take (10 * (4 + w / 8)), stack := readStack w depth (st.drop 8),
    stackOk := (List.range depth).all (fun k => readEntryOk w ((st.drop 8).drop (k * (12 + w / 8)))),
    staged := sg.take 24, tagsOk := tags.all (· < 3), regs := r.1, rest := r.2 }

/-! ### The tail of a team record -/

/-- Bytes of an operand-log slot in the image. -/
def slotLen (w : Nat) (bs : List Byte) : Nat :=
  if natAt bs 0 4 = 0 then 8 else 24 + w / 4 + 24 * w

/-- Bytes of a visitor image, from its header. -/
def visitorLen (bs : List Byte) : Nat :=
  let w24 := natAt bs 0x24 4
  let staged := (stagedList (BitVec.ofNat 64 (natAt bs 0x18 8))).length
  let lanes := ((List.range 32).filter (fun k => bitsOf (natAt bs 0x10 4) k k = 1)).length
  let tag (k : Nat) : Nat := natAt bs 0x20 4 / 4 ^ k % 4
  let cost (t : Nat) : Nat := if t = 0 then 4 else if t = 1 then 8 else 4 * lanes
  128 + 12 * bitsOf w24 17 12 + 64 + ((List.range staged).map (fun k => cost (tag k))).sum +
    cost (bitsOf w24 20 19) +
    (if bitsOf w24 18 18 = 1 then 4 * lanes * windowCells (dwordAt bs 0x30) else 0)

/-- The visitor images at the end of a team record, and the bytes after them. -/
def splitVisitors (n : Nat) (bs : List Byte) : List (List Byte) × List Byte :=
  match n with
  | 0 => ([], bs)
  | k + 1 =>
    let l := visitorLen bs
    let r := splitVisitors k (bs.drop l)
    (bs.take l :: r.1, r.2)

/-- The operand-log slots of a team record, the visitor images behind them, and the bytes after those. -/
structure TeamTail where
  slots : List (List Byte)
  visitors : List (List Byte)
  rest : List Byte

def splitSlots (w k : Nat) (bs : List Byte) : List (List Byte) × List Byte :=
  match k with
  | 0 => ([], bs)
  | j + 1 =>
    let r := splitSlots w j (bs.drop (slotLen w bs))
    (bs.take (slotLen w bs) :: r.1, r.2)

def teamTail (w : Nat) (bs : List Byte) : TeamTail :=
  let sl := splitSlots w 4 bs
  let vs := splitVisitors (natAt sl.2 0 8) (sl.2.drop 8)
  { slots := sl.1, visitors := vs.1, rest := vs.2 }

/-! ### Loading visitor images (15/R392) -/

/-- The registers of a visitor image that have one value, or a base and a stride, for all lanes, named with their tags;
and the bytes behind them. -/
def readShared (rs : List (Nat × Nat)) (bs : List Byte) : List (Nat × VReg) × List Byte :=
  match rs with
  | [] => ([], bs)
  | (n, t) :: r =>
    if t = 0 then let x := readShared r (bs.drop 4); ((n, .u (wordAt bs 0)) :: x.1, x.2)
    else if t = 1 then let x := readShared r (bs.drop 8); ((n, .a (wordAt bs 0) (wordAt bs 4)) :: x.1, x.2)
    else readShared r bs

/-- The registers with a value for each carried lane. -/
def readLanes (w : Nat) (lanes ns : List Nat) (bs : List Byte) : List (Nat × VReg) :=
  ns.zipIdx.map (fun p =>
    (p.1, .g ((List.range w).map (fun l =>
      if lanes.contains l then wordAt bs (4 * (p.2 * lanes.length + (lanes.filter (· < l)).length)) else 0))))

/-- A word of a mask in its place. -/
def maskAt (k : Nat) (x : Word) : Mask := BitVec.ofNat 1024 (x.toNat * 2 ^ (32 * k))

/-- The number under which `prc` stands among the registers of a visitor image. -/
def prcNumber : Nat := 128

/-- The registers that a visitor image holds, with its staged set, tags, window and lanes. -/
def imageVRegs (w : Nat) (n : Nat) (bs : List Byte) : List (Nat × VReg) :=
  let w24 := natAt bs 0x24 4
  let codes := dwordAt bs 0x30
  let lanes := Mask.lanes (maskAt (bitsOf w24 11 7) (wordAt bs 0x10)) 1024
  let named := (stagedList (BitVec.ofNat 64 (natAt bs 0x18 8))).zipIdx.map (fun p =>
      (p.1, natAt bs 0x20 4 / 4 ^ p.2 % 4)) ++ [(prcNumber, bitsOf w24 20 19)]
  let sh := readShared named (bs.drop (128 + 12 * bitsOf w24 17 12 + 64))
  let cells := if bitsOf w24 18 18 = 1 then (List.range (windowCells codes)).map (n - windowCells codes + ·) else []
  sh.1 ++ readLanes w lanes ((named.filter (·.2 == 2)).map (·.1) ++ cells) sh.2

/-- The re-execution that an image asks for (14/R366): none when the lanes start behind TIDX, or when every lane of a
continuation that re-executed nothing is named. -/
def redoOf (old : List (Mask × BitVec 26)) (lanes redo : Mask) (lpc tidx : BitVec 26) : List (Mask × BitVec 26) :=
  if old.isEmpty && (redo == lanes || lpc == tidx + 1) then [] else (redo, tidx) :: old.drop 1

/-- A continuation with what its image holds. The path of a halted visitor is no part of the form: it stays as it was saved,
and lanes that the image adds are on it (DESIGN CHOICE: R380; log entry 123). -/
def Cont.load (c : Cont) (w : Nat) (bs : List Byte) : Cont :=
  let w8 := natAt bs 8 4
  let w24 := natAt bs 0x24 4
  let k := bitsOf w24 11 7
  let lanes := maskAt k (wordAt bs 0x10)
  let redo := maskAt k (wordAt bs 0x14)
  let tidx : BitVec 26 := BitVec.ofNat 26 (natAt bs 0x0C 4)
  let xs := imageVRegs w c.regs.v.length bs
  let stack : List REntry := (List.range (bitsOf w24 17 12)).map (fun j =>
    let e := bs.drop (128 + 12 * j)
    { mask := maskAt k (wordAt e 0), rpc := BitVec.ofNat 26 (natAt e 4 4), kind := kindOf (bitsOf (natAt e 4 4) 27 26),
      fmt := wordAt e 8 })
  { c with
    hops := bitsOf w8 31 29, tidx := tidx, word := k, lanes := lanes, redo := redo,
    regs := { v := (xs.filter (fun x => x.1 != prcNumber)).foldl (fun v x => modifyAt v x.1 (fun _ => x.2)) c.regs.v,
              prc := ((xs.find? (fun x => x.1 == prcNumber)).map (·.2)).getD c.regs.prc,
              m := Vector.ofFn (fun j : Fin 8 => maskAt k (wordAt bs (0x50 + 4 * j.val))) },
    wcodes := if bitsOf w24 18 18 = 1 then dwordAt bs 0x30 else c.wcodes,
    flags := BitVec.ofNat 5 (natAt bs 0x44 4), nfcAdd := wordAt bs 0x70, taddr := dwordAt bs 0x48,
    blk := { c.blk with
      lpc := BitVec.ofNat 26 w8, fmt := wordAt bs 0x2C, staged := dwordAt bs 0x18, ew := bitsOf w24 18 18 = 1,
      path := c.blk.path &&& lanes ||| Mask.minus lanes c.lanes, stack := stack.reverse,
      redo := redoOf c.blk.redo lanes redo (BitVec.ofNat 26 w8) tidx,
      lq := { c.blk.lq with
        params := Vector.ofFn (fun j : Fin 16 => wordAt bs (128 + 12 * bitsOf w24 17 12 + 4 * j.val)),
        rkey := dwordAt bs 0x38, migctl := wordAt bs 0x40 } } }

/-- An operand-log slot with what a record holds for it (15/R410). The data of a soft instruction, which R410 does not
list, stay as they were saved. -/
def Slot.load (k : Slot) (w : Nat) (bs : List Byte) : Option Slot :=
  if natAt bs 0 4 = 0 then none
  else
    let i := match decodeLBytes (bytesAt bs 8 12) with | .ok (i, _) => i | .error _ => k.i
    let eff := maskOfWords w (bs.drop 24)
    let op (o l : Nat) : DWord := dwordAt bs (24 + w / 4 + 8 * (o * w + l))
    some { k with
      i := i, lpc := BitVec.ofNat 26 (natAt bs 20 4), eff := eff, done := maskOfWords w (bs.drop (24 + w / 8)),
      ops := (Mask.lanes eff w).map (fun l =>
        let old := match k.ops.find? (·.lane == l) with | some o => o.data | none => []
        { lane := l, a := op 0 l, b := op 1 l, c := op 2 l,
          data := (match i with
            | .est _ => (List.range 4).map (fun j => BitVec.ofNat 32 (natAt (w64le (op 1 l)) (2 * j) 2)) ++ old.drop 4
            | _ => old) }) }

def Token.load (t : Token) (bs : List Byte) : Token :=
  { t with out := natAt bs 0 4, err := natAt bs 4 4 != 0, cause := causeOf (natAt bs 8 4),
           tseq := wordAt bs 12, tspc := dwordAt bs 16, taddr := dwordAt bs 24 }

/-- The block with what a record holds for it. FMT in the record is that of a running block; a held one keeps its own (log
entry 48). -/
def Blk.load (b : Blk) (w : Nat) (away : Mask) (p : TeamParts) (e : List Byte) (runs : Bool) : Blk :=
  { b with
    lq := b.lq.load e, lpc := BitVec.ofNat 26 (natAt p.hdr 32 4), fmt := if runs then wordAt p.specials 44 else b.fmt,
    path := maskOfWords w (p.masks.drop 4) ||| (b.path &&& away), stack := p.stack.reverse,
    staged := BitVec.ofNat 64 (natAt p.staged 0 8), ew := natAt p.staged 8 8 != 0,
    chainHead := BitVec.ofNat 26 (natAt p.hdr 36 4), restart := bitsOf (natAt p.hdr 36 4) 31 31 = 1 }

/-- An L trap that only an image names: its block restarts at an index. -/
def LTrap.blank (chainHead : BitVec 26) : LTrap :=
  { cause := .user, taddr := 0, tlpc := 0, lanes := 0, slot := none, redoFrom := some chainHead, sseq := none, visitor := none }

/-- A pending L trap with what a record holds for it. One that moves to a slot restarts nothing. -/
def LTrap.load (q : LTrap) (w : Nat) (bs : List Byte) : LTrap :=
  let tlog := natAt bs 8 4
  { q with cause := (causeOf (natAt bs 4 4)).getD q.cause, tlpc := BitVec.ofNat 26 (natAt bs 12 4), taddr := dwordAt bs 16,
           lanes := maskOfWords w (bs.drop 24), slot := if 8 ≤ tlog then some (BitVec.ofNat 3 (tlog % 4)) else none,
           redoFrom := if 8 ≤ tlog then none else q.redoFrom }

/-- A saved team with the values that its record in the image holds (15/R392, R406, R409). -/
def Team.load (T : Team) (bs : List Byte) : Team :=
  let p := teamParts T.w bs
  let sp (o : Nat) : Word := wordAt p.specials o
  let ent (k : Nat) : List Byte := (p.queue[k]?).getD []
  let nHeld := if T.held.isSome then 1 else 0
  let nAside := nHeld + T.asideQ.length
  let nBlk := nAside + (if T.blk.isSome then 1 else 0)
  let away := maskOfWords T.w ((p.masks.drop (4 + T.w / 8)).drop 4)
  let ld (q : List LQ) (from_ : Nat) : List LQ := q.zipIdx.map (fun x => x.1.load (ent (from_ + x.2)))
  { T with
    n := natAt p.hdr 8 4 - (T.shrinks.map (·.2)).sum, spc := dwordAt p.hdr 16, resume := dwordAt p.hdr 24, cmdCtr := wordAt p.hdr 40,
    softSeq := wordAt p.hdr 44,
    s := (Vector.ofFn (fun k : Fin 64 => wordAt p.sregs (4 * k.val))).set 0 0,
    nfc := sp 0, fpstat := BitVec.ofNat 5 (sp 4).toNat, mstat := BitVec.ofNat 3 (sp 8).toNat,
    tcause := sp 12, tlpc := BitVec.ofNat 26 (sp 16).toNat, tspc := dwordAt p.specials 20, taddr := dwordAt p.specials 28,
    tlog := BitVec.ofNat 4 (sp 36).toNat, tseq := sp 40,
    fmt := (if T.blk.isSome then T.fmt else sp 44), rkey := dwordAt p.specials 48, mcr := sp 56,
    handler := dwordAt p.specials 60, migctl := sp 68,
    tok := Vector.ofFn (fun k : Fin 8 => (vget T.tok k.val).load (bytesAt p.tokens (32 * k.val) 32)),
    slots := Vector.ofFn (fun k : Fin 8 => dwordAt p.results (8 * k.val)),
    regs := { v := (if T.phase == .ended then T.regs.v else p.regs.dropLast), prc := p.regs.getLastD (.u prcStart),
              m := Vector.ofFn (fun k : Fin 8 =>
                maskOfWords T.w ((p.masks.drop ((2 + k.val) * (4 + T.w / 8))).drop 4)) },
    wcodes := dwordAt p.staged 16, away := away,
    held := (match T.held with
             | some b => some (if T.blk.isSome then { b with lq := b.lq.load (ent 0) }
                               else b.load T.w away p (ent 0) false)
             | none => none),
    asideQ := ld T.asideQ nHeld, oplog := T.oplog.mapIdx (fun k o =>
      o.bind (fun x => x.load T.w ((teamTail T.w p.rest).slots.getD k []))),
    blk := (match T.blk with | some b => some (b.load T.w away p (ent nAside) true) | none => none),
    laneQ := ld T.laneQ nBlk,
    pendL := if natAt p.pend 0 4 = 1 then some ((T.pendL.getD (.blank (BitVec.ofNat 26 (natAt p.hdr 36 4)))).load T.w p.pend)
             else none }

/-! ### The checks of `ctxload` (15/R392) -/

/-- A cause field: 0, or a code of 03/R64. -/
def causeField (x : Nat) : Bool := x = 0 || (causeOf x).isSome

/-- The limits of the staged set and of the elastic window beside a count of registers (03/R76, R77). -/
def stagingOk (staged : DWord) (ew : Bool) (codes : DWord) (n : Nat) : Bool :=
  let k := windowCells codes
  (stagedList staged).length ≤ 16 && k ≤ 64 && k ≤ n && (!ew || (stagedList staged).length + k ≤ 32)

/-- A visitor image keeps R366: zero reserved fields, no reserved code, a mask word of the team, CAUSE and TADDR of a trapped
return alone, at most 32 entries, and registers within their limits, those of its lanes alone. -/
def visitorImageOk (w nmax : Nat) (bs : List Byte) : Bool :=
  let w24 := natAt bs 0x24 4
  let lanes := natAt bs 0x10 4
  let within (x : Nat) : Bool := x &&& lanes = x
  let ew := bitsOf w24 18 18 = 1
  let entry (k : Nat) : Bool :=
    let e := 128 + 12 * k
    within (natAt bs e 4) && bitsOf (natAt bs (e + 4) 4) 31 28 = 0 && bitsOf (natAt bs (e + 4) 4) 27 26 < 3 &&
      fmtOk (wordAt bs (e + 8))
  let prc := ((imageVRegs w nmax bs).find? (fun x => x.1 == prcNumber)).map (·.2)
  bitsOf (natAt bs 0x0C 4) 31 26 = 0 && bitsOf w24 6 0 = 0 && bitsOf w24 23 21 < 5 && causeField (bitsOf w24 31 24) &&
    (bitsOf w24 23 21 = 4 || (bitsOf w24 31 24 = 0 && natAt bs 0x48 8 = 0)) && bitsOf w24 11 7 < w / 32 &&
    bitsOf w24 20 19 < 3 && bitsOf w24 17 12 ≤ 32 && (List.range (bitsOf w24 17 12)).all entry &&
    bitsOf (natAt bs 0x28 4) 31 9 = 0 && bitsOf (natAt bs 0x44 4) 31 5 = 0 && natAt bs 0x74 12 = 0 &&
    fmtOk (wordAt bs 0x2C) && migctlOk (wordAt bs 0x40) && (List.range 16).all (fun k => natAt bs 0x20 4 / 4 ^ k % 4 < 3) &&
    within (natAt bs 0x14 4) && (List.range 8).all (fun k => within (natAt bs (0x50 + 4 * k) 4)) &&
    (ew || natAt bs 0x30 8 = 0) && stagingOk (dwordAt bs 0x18) ew (dwordAt bs 0x30) nmax &&
    (match prc with
     | some r => (Mask.lanes (maskAt (bitsOf w24 11 7) (wordAt bs 0x10)) 1024).all (fun l => prcOk (r.at l))
     | none => false)

/-- An operand-log slot of a record: a slot that is taken holds an L instruction. -/
def slotOk (bs : List Byte) : Bool :=
  natAt bs 0 4 < 2 && (natAt bs 0 4 = 0 ||
    (natAt bs 20 4 < 2 ^ 26 && (match decodeLBytes (bytesAt bs 8 12) with | .ok _ => true | .error _ => false)))

def tokenOk (bs : List Byte) : Bool := natAt bs 0 4 < 256 && natAt bs 4 4 < 2 && causeField (natAt bs 8 4)

/-- TLOG: V in bit 3 and the slot in bits 1 and 0. -/
def tlogOk (x : Nat) : Bool := x < 16 && bitsOf x 2 2 = 0

/-- An entry of the lane queue in a record. -/
def queueEntryOk (nmax : Nat) (e : List Byte) : Bool :=
  bitsOf (natAt e 0 4) 30 26 = 0 && migctlOk (wordAt e 76) && natAt e 80 4 ≤ nmax && allZero (bytesAt e 84 12)

/-- A team record: whether each register value lies within its register's limits, and its length. The codes that 02/R37 and
14/R366 do not assign are refused (log entry 48). -/
def teamRecordOk (w nmax : Nat) (bs : List Byte) : Bool × Nat :=
  let n := natAt bs 8 4
  let p := teamParts w bs
  let sp (o : Nat) : Word := wordAt p.specials o
  let tl := teamTail w p.rest
  let ok := natAt bs 4 4 < 4 && n % 8 = 0 && 8 ≤ n && n ≤ nmax &&
    natAt bs 16 8 % 4 = 0 && natAt bs 24 8 % 4 = 0 && natAt bs 32 4 < 2 ^ 26 &&
    bitsOf (natAt bs 36 4) 30 26 = 0 &&
    (sp 4).toNat < 32 && (sp 8).toNat < 8 && bitsOf (sp 12).toNat 31 24 = 0 &&
    bitsOf (sp 12).toNat 15 9 = 0 && causeField (bitsOf (sp 12).toNat 7 0) && causeField (bitsOf (sp 12).toNat 23 16) &&
    (sp 16).toNat < 2 ^ 26 && tlogOk (sp 36).toNat &&
    fmtOk (sp 44) && mcrOk (sp 56) && natAt p.specials 60 8 % 4 = 0 && migctlOk (sp 68) &&
    (List.range 8).all (fun k => tokenOk (bytesAt p.tokens (32 * k) 32)) &&
    p.queue.length ≤ 17 && p.queue.all (queueEntryOk nmax) &&
    natAt p.pend 0 4 < 2 && causeField (natAt p.pend 4 4) && tlogOk (natAt p.pend 8 4) && natAt p.pend 12 4 < 2 ^ 26 &&
    p.stack.length ≤ 32 && p.stackOk && p.tagsOk &&
    natAt p.staged 8 8 < 2 && stagingOk (dwordAt p.staged 0) (natAt p.staged 8 8 = 1) (dwordAt p.staged 16) n &&
    (List.range w).all (fun l => prcOk ((p.regs.getLastD (.u prcStart)).at l)) &&
    tl.slots.all slotOk && tl.visitors.all (visitorImageOk w nmax)
  (ok, roundUp (bs.length - tl.rest.length) 8)

/-- The team records of an image. -/
def splitTeams (w nmax k : Nat) (bs : List Byte) : List (List Byte) × Bool :=
  match k with
  | 0 => ([], true)
  | j + 1 =>
    let r := teamRecordOk w nmax bs
    let rest := splitTeams w nmax j (bs.drop r.2)
    (bs.take r.2 :: rest.1, r.1 && rest.2)

/-- The parts of an image behind its header: circles, chains, engine, jobs, scratchpad, teams (15/R408), and the size of the
whole. -/
structure ImageParts where
  circles : List Byte
  chains : List (List Byte)
  engine : Option (List Byte × List Byte)
  jobs : List (List Byte)
  spad : List Byte
  live : Nat
  teams : List (List Byte)
  size : Nat
  ok : Bool

/-- `k` parts of `n` bytes each. -/
def splitEvery (n k : Nat) (bs : List Byte) : List (List Byte) := (List.range k).map (fun j => bytesAt bs (n * j) n)

def imageParts (d : Desc) (img : List Byte) : ImageParts :=
  let ch := img.drop 512
  let chains := natAt ch 0 8
  let en := ch.drop (8 + 16 * chains)
  let held := natAt en 0 8 = 1
  let jb := en.drop (8 + 10 * 2 ^ 20)
  let jobs := if held then natAt jb 0 8 else 0
  let sp := en.drop (if held then 8 + 10 * 2 ^ 20 + 8 + 48 * jobs else 8)
  let tm := sp.drop (4160 * d.spad)
  let ts := splitTeams d.w d.nmax d.gsize tm
  let cs := splitEvery 16 chains (ch.drop 8)
  { circles := bytesAt img 256 256, chains := cs,
    engine := if held then some (bytesAt en 8 (2 * 2 ^ 20), bytesAt en (8 + 2 * 2 ^ 20) (8 * 2 ^ 20)) else none,
    jobs := splitEvery 48 jobs (jb.drop 8),
    spad := sp.take (4096 * d.spad), live := natAt sp (4096 * d.spad) (64 * d.spad),
    teams := ts.1, size := img.length - tm.length + (ts.1.map (·.length)).sum,
    ok := ts.2 && natAt en 0 8 < 2 && cs.all (fun c => natAt c 0 2 < 8 && natAt c 2 2 < 8) }

/-- The header of an image (15/R407). -/
def headerOk (img : List Byte) : Bool :=
  natAt img 0 4 = imageMagic && natAt img 4 2 = 1 && natAt img 6 1 < 2 && natAt img 7 1 < 2 &&
    natAt img 12 4 < 3 && allZero (bytesAt img 0x18 (0x80 - 0x18))

/-- An image keeps the limits of its header and of its registers: SIZE is that of its parts. -/
def imageOk (d : Desc) (img : List Byte) : Bool :=
  let p := imageParts d img
  p.ok && p.size = natAt img 8 4

/-! ### Loading a gang -/

def Circle.load (c : Circle) (bs : List Byte) : Circle :=
  let set (x : Nat) : List Nat := (List.range 16).filter (fun k => bitsOf x k k = 1)
  { c with members := set (natAt bs 0 2), arrived := set (natAt bs 2 2), phase := wordAt bs 4 }

/-- A memory that holds bytes from address 0 on. -/
def memOf (bs : List Byte) : Memory := Memory.writeN [] 0 bs

/-- A chain with what its entry holds: the address of its next unfetched record, and its token state. -/
def Chain.load (k : Nat × Chain) (bs : List Byte) : Nat × Chain :=
  (natAt bs 0 2, { k.2 with tok := BitVec.ofNat 3 (natAt bs 2 2), tag := wordAt bs 4, next := dwordAt bs 8,
                            fetched := dwordAt bs 8 == 0 })

/-- A job with the command of a word, as far as the word is one of the engine's. -/
def Job.ofWord (j : Job) (w : Word) : Job :=
  let put (k : JKind) (sparse wide : Bool) : Job := { j with word := w, kind := k, sparse := sparse, wide := wide }
  match decodeS w with
  | .ok (.mma _ _ _ _ _ sparse orient) => put .mma (sparse == 1) (orient == 1)
  | .ok (.bput ..) => put .bput false false
  | .ok (.accld ..) => put .accld false false
  | .ok (.accst ..) => put .accst false false
  | .ok (.mxreq ..) => put .mxreq false false
  | _ => j

/-- A job with what its entry holds; the command of a member other than the first stays as it was saved. -/
def Job.load (j : Job) (bs : List Byte) : Job :=
  { j.ofWord (wordAt bs 0) with
    pairB := dwordAt bs 16, done := natAt bs 36 4,
    members := (match j.members with
      | m :: r => { m with pairA := dwordAt bs 8, sc := wordAt bs 24, tok := BitVec.ofNat 3 (natAt bs 28 4),
                           tag := wordAt bs 32 } :: r
      | [] => []) }

/-- Each thing with its part of an image, those that have one. -/
def loadEach {α : Type} (f : α → List Byte → α) (xs : List α) (ps : List (List Byte)) : List α :=
  xs.zipIdx.map (fun x => match ps[x.2]? with | some b => f x.1 b | none => x.1)

/-- The saved gang and its teams with what its image holds. -/
def State.loadImage (s : State) (g : Nat) (img : List Byte) : State :=
  let G := s.gang g
  let d := (s.launch G.launch).desc
  let p := imageParts d img
  let images (t : Nat) : List (List Byte) :=
    match (G.teams.zip p.teams).find? (·.1 == t) with
    | some x => (teamTail d.w (teamParts d.w x.2).rest).visitors
    | none => []
  let s := s.modGang g (fun G =>
    { G with
      circles := G.circles.zipIdx.map (fun x => x.1.load (bytesAt p.circles (16 * x.2) 16)),
      spad := memOf p.spad,
      live := ((List.range (512 * d.spad)).filter (fun k => bitsOf p.live k k = 1)).map (8 * ·),
      chains := loadEach Chain.load G.chains p.chains, jobs := loadEach Job.load G.jobs p.jobs,
      roam := G.teams.flatMap (fun t =>
        loadEach (fun c b => Cont.load c d.w b) (G.roam.filter (·.team == t)) (images t)),
      engine := (match p.engine with | some e => some (memOf e.1, memOf e.2) | none => none) })
  (G.teams.zip p.teams).foldl (fun s x => s.modTeam x.1 (fun T => T.load x.2)) s

/-! ### A gang made anew from an image (15/R392; log entry 128) -/

/-- The L-stream of a team as its record lays it out: the entries set aside, and those behind the block. The lane-PC is that of the
first entry that is not set aside, or, where there is none, of the held block; 0 where there is no block. -/
def Team.shapeQueue (T : Team) (p : TeamParts) (base : Nat) : Team :=
  let blank : LQ :=
    { index := 0, params := Vector.replicate 16 0, rkey := 0, migctl := 0, n := T.n, sMark := base, low := T.n }
  let entries : List (Bool × LQ) := p.queue.zipIdx.map (fun e =>
    (bitsOf (natAt e.1 0 4) 31 31 = 1, { blank.load e.1 with sMark := base + e.2, low := natAt e.1 80 4 }))
  let aside := (entries.filter (·.1)).map (·.2)
  let own := (entries.filter (fun e => !e.1)).map (·.2)
  let fmt := wordAt p.specials 44
  if natAt p.hdr 32 4 = 0 then { T with asideQ := aside, laneQ := own, fmtAside := fmt }
  else
    match own, aside with
    | q :: r, a => { T with asideQ := a, blk := some (Blk.start q T.w fmt), laneQ := r, fmtAside := fmt }
    | [], q :: r => { T with asideQ := r, held := some (Blk.start q T.w fmt) }
    | [], [] => T

/-- A slot that a record names, of the team's block. -/
def Team.blankSlot (T : Team) (p : TeamParts) (bs : List Byte) : Option Slot :=
  let b := T.imageBlk
  let q := b.map (·.lq)
  match natAt bs 0 4, decodeLBytes (bytesAt bs 8 12) with
  | 1, .ok (i, _) =>
    some { i := i, block := (q.map (·.sMark)).getD 0, lpc := 0, chainHead := BitVec.ofNat 26 (natAt bs 20 4), eff := 0, done := 0,
           flying := 0, faulted := 0, ops := [], parts := [], traps := [], sseq := wordAt p.hdr 44, hold := none, latch := false,
           fmt := wordAt p.specials 44, rkey := (q.map (·.rkey)).getD 0, migctl := (q.map (·.migctl)).getD 0 }
  | _, _ => none

/-- A team at its start with the parts that its record names; their values are loaded when the gang is placed. -/
def Team.shaped (T : Team) (bs : List Byte) (base : Nat) : Team :=
  let p := teamParts T.w bs
  let n := natAt p.hdr 8 4
  let phase : TPhase := if natAt p.hdr 4 4 = 2 then .trapped else if natAt p.hdr 4 4 = 3 then .ended else .running
  let ended : Bool := phase == .ended
  let T := { T with
    n := n, low := n, resident := false, phase := phase, regs := { T.regs with v := if ended then [] else List.replicate n (.u 0) } }
  let T := if ended then T else T.shapeQueue p base
  { T with oplog := Vector.ofFn (fun k : Fin 4 =>
      if ended then none else T.blankSlot p ((teamTail T.w p.rest).slots.getD k.val [])) }

/-- A continuation that a team's record names, for the die that it names as the team's, as the form names no other. -/
def Team.blankCont (T : Team) (t part base : Nat) (P : Part) (bs : List Byte) : Cont :=
  let q : LQ := { index := 0, params := Vector.replicate 16 0, rkey := 0, migctl := 0, n := T.n, sMark := base, low := T.n }
  let w24 := natAt bs 0x24 4
  { team := t, part := part, kind := bitsOf w24 23 21, hops := 0, tidx := 0, word := 0, lanes := 0, redo := 0,
    cause := causeOf (bitsOf w24 31 24), taddr := 0, regs := .start T.n, wcodes := 0, blk := Blk.start ((T.imageBlk.map (·.lq)).getD q) T.w 0,
    flags := 0, nfcAdd := 0, src := 0, dst := P.dieFirst + min (bitsOf (natAt bs 8 4) 28 26) (P.dieCount - 1), waits := [], reserved := false, held := none }

/-- A chain, or a job, that an image names: of the gang's first team. -/
def blankChain (g t arrived : Nat) (bs : List Byte) : Nat × Chain :=
  (natAt bs 0 2, { gang := g, team := t, tok := 0, tag := 0, spc := 0, arrived := arrived, started := false, next := 0, fetched := false,
                   failed := false, stopped := false, recs := [], hold := none })

def blankJob (g t prio arrived : Nat) (fmt : Word) (bs : List Byte) : Job :=
  { kind := .mma, gang := g, arrived := arrived, prio := prio, word := 0,
    members := [{ team := t, tok := 0, tag := 0, spc := 0, pairA := 0, recA := [], sc := 0 }], pairB := 0, recB := [], fmt := fmt,
    sparse := false, wide := false, released := false, begun := false, done := 0, flags := 0, failed := false, hold := none, heldRec := 0,
    rbuf := [], wbuf := [] : Job }.ofWord (wordAt bs 0)

/-- A gang that has retired or been removed stands again as a saved one, with the teams, chains, jobs and continuations that an
image names. What of the former gang is still under way goes on apart from it. The answer is the new gang. -/
def State.anew (s : State) (old : Nat) (img : List Byte) : Nat × State :=
  let O := s.gang old
  let d := (s.launch O.launch).desc
  let p := imageParts d img
  let g := s.gangs.length
  let t0 := s.teams.length
  let base := s.nextId
  let ts := p.teams.zipIdx.map (fun x => (Team.start O.launch g (O.num * d.gsize + x.2) x.2 0 d).shaped x.1 base)
  let roam := (p.teams.zip ts).zipIdx.flatMap (fun x =>
    (teamTail d.w (teamParts d.w x.1.1).rest).visitors.map (x.1.2.blankCont (t0 + x.2) O.part base (s.part O.part)))
  let fmt := match ts with | T :: _ => T.fmt | [] => 0
  let G : Gang :=
    { Gang.blank with
      part := O.part, launch := O.launch, num := O.num, phase := .saved, teams := (List.range p.teams.length).map (t0 + ·),
      circles := List.replicate 16 .empty,
      chains := p.chains.zipIdx.map (fun x => blankChain g t0 (base + 32 + x.2) x.1),
      jobs := p.jobs.zipIdx.map (fun x => blankJob g t0 d.prio (base + 32 + p.chains.length + x.2) fmt x.1), roam := roam }
  (g, { s with gangs := s.gangs ++ [G], teams := s.teams ++ ts, nextId := base + 32 + p.chains.length + p.jobs.length })

end Sys2Proof.Machine
end

