-- ==== Sys2Proof/Machine/Ops.lean ====
section
/-!
DEFINITION. The operations that the S instructions share: reading and writing `s` registers, how an S
instruction ends (`Eff`), the checks of S accesses, taking a trap (03/R54 to R57, 15/R384, R397), and
returning from one (03/R54, R55, 07/R175).
-/

namespace Sys2Proof.Machine

/-! ### `s` registers (03/R58, 07/R152) -/

/-- s(r); `s0` reads as zero. -/
def Team.rd (T : Team) (r : BitVec 6) : Word := if r = 0 then 0 else T.s[r.toNat]

/-- Writing s(r); a write to `s0` is discarded. -/
def Team.wr (T : Team) (r : BitVec 6) (x : Word) : Team :=
  if r = 0 then T else { T with s := T.s.set r.toNat x }

/-- Pair r. -/
def Team.rdp (T : Team) (r : BitVec 6) : DWord := T.rd (r + 1) ++ T.rd r

/-- Writing pair r, the low half to the even register. -/
def Team.wrp (T : Team) (r : BitVec 6) (x : DWord) : Team :=
  (T.wr r (x.extractLsb' 0 32)).wr (r + 1) (x.extractLsb' 32 32)

/-- The even register of pair field q of an SM word (05/R118). -/
def pairReg (q : BitVec 5) : BitVec 6 := q ++ (0 : BitVec 1)

/-- Whether a load in flight will write one of some registers: an instruction that touches it waits. -/
def Team.busy (T : Team) (rs : List (BitVec 6)) : Bool :=
  T.pend.any (fun p => rs.any (fun r => r.toNat == p.2.1 || (p.2.2 && r.toNat == p.2.1 + 1)))

/-- Both registers of a pair. -/
def both (r : BitVec 6) : List (BitVec 6) := [r, r + 1]

/-! ### Whether a failed translation is held (15/R384, R395) -/

/-- Whether a resolvable failure of a team is held: when the queue is off, or the team is a supervisor
team, it is resolved FAIL at once. -/
def State.canHold (s : State) (t : Nat) : Bool := (s.part (s.partOf t)).fqOn && !(s.descOf t).sup

/-! ### How an S instruction ends -/

/-- What an S instruction comes to. -/
inductive Eff where
  /-- it completes, and the S-PC goes to the next word -/
  | done (s : State)
  /-- it completes, and the S-PC goes to an address -/
  | goto (s : State) (pc : DWord)
  /-- it completes, and its own rule has set the S-PC -/
  | over (s : State)
  /-- it is blocked in a wait of 02/R52: the S-PC stays -/
  | wait (s : State)
  /-- it is held for a while that is no block (02/R52): the S-PC stays -/
  | stall (s : State)
  /-- it faults precisely, with a cause and TADDR -/
  | trap (s : State) (c : Cause) (a : DWord)
  /-- it is held by a resolvable translation fault -/
  | hold (s : State) (h : Hold)

/-- The state in which an instruction leaves the machine, but for its stream's own advance. -/
def Eff.state (e : Eff) : State :=
  match e with
  | .done s | .goto s _ | .over s | .wait s | .stall s | .trap s _ _ | .hold s _ => s

/-- A failed translation of an S access: held when it is resolvable, else a trap (16/R417, 15/R395). -/
def State.sFail (s : State) (t : Nat) (c : Cause) (res : Bool) (a : DWord) (write exec : Bool) : Eff :=
  if res && s.canHold t then
    .hold s { cause := c, addr := a, write := write, exec := exec, seq := none, res := none }
  else .trap s c a

/-! ### Taking a trap -/

/-- FMT at stack depth 0 of a block: that of its bottom entry, else its current one (02/R34). -/
def Blk.baseFmt (b : Blk) : Word := match b.stack.getLast? with | some e => e.fmt | none => b.fmt

/-- What a trap sets aside (03/R54, R55): the executing block is held, the entries behind it are set
aside, and a wait is abandoned with its state kept. Latches are lost (R75), so the block restarts at its
chain's head when its next instruction is a member other than the head. -/
def Team.setAside (T : Team) : Team :=
  { T with
    phase := .trapped, blocked := false, lblocked := false, shold := none, early := [], asideQ := T.laneQ, laneQ := [],
    held := (match T.blk with
             | some b => some b.cut
             | none => none),
    blk := none, fmt := (match T.blk with | some b => b.baseFmt | none => T.fmt), fmtAside := T.fmt,
    savedWait := T.wait.abandon, wait := .none, oplog := T.oplog.map (·.map Slot.cut) }

/-- A wait's place in the core's request order, in the rendezvous, or a walk of a tape is given up (15/R403,
13/R359). -/
def State.leaveWait (s : State) (t : Nat) : State :=
  let T := s.team t
  let s := { s with caddySets := s.caddySets.map (fun (S : CaddySet) =>
    { S with caddies := S.caddies.map (fun (c : Caddy) => if c.walker == some t then { c with walker := none } else c) }) }
  let s := s.modCore T.core (fun c => { c with growQ := c.growQ.filter (· != t) })
  s.modCluster (clusterOfCore T.core) (fun c => { c with latches := c.latches.filter (·.mem.team != t) })

/-- A trap that no handler takes (15/R384, R397): a supervisor's gang is removed; a user's gang is
pre-empted into the save pool and its UNHANDLED entry is to be posted, or the gang is removed when there
is no place for it. The trap's cause is the first that the entry reports. -/
def State.noHandler (s : State) (t : Nat) (c : Cause) : State :=
  let T := s.team t
  let g := T.gang
  let P := s.part (s.partOf t)
  let nested := T.phase == .trapped
  let s := s.modTeam t (fun T => if nested then { T with nested := true } else T.setAside)
  if (s.descOf t).sup || !P.fqOn then s.removeGang g
  else
    match s.freeSaveSlot (s.partOf t) with
    | none => s.removeGang g
    | some (k, a) =>
      let s := s.halt g { addr := a, software := false, reason := 2, waiter := none, slot := some k,
                          room := P.slotSize, request := 0 }
      s.modGang g (fun G => { G with
          unhandled := some (t, { cause := c, addr := T.taddr, write := false, exec := false, seq := none,
                                  res := none }) })

/-- The S-stream diverts to HANDLER, or the trap takes the path of R57 without one. The trap registers
have been written. -/
def State.divert (s : State) (t : Nat) (c : Cause) : State :=
  let T := s.team t
  let s := s.leaveWait t
  if T.handler = 0 || T.phase == .trapped then s.noHandler t c
  else s.modTeam t (fun T => { T.setAside with spc := T.handler })

/-- The trap registers of an S trap (03/R54): TCAUSE, TADDR, TSPC and TLOG.V; TLPC and `m7` keep their
values. The resume point is the instruction (07/R175). -/
def Team.sTrapRegs (T : Team) (c : Cause) (a : DWord) : Team :=
  { T with tcause := BitVec.ofNat 32 (causeCode c), taddr := a, tspc := T.spc, tlog := 0,
           resume := T.spc, shold := none }

/-- An S trap. The wait of the trapping instruction, if any, is over. -/
def State.trapS (s : State) (t : Nat) (c : Cause) (a : DWord) : State :=
  (s.modTeam t (fun T => { T.sTrapRegs c a with wait := .none })).divert t c

/-- A token error (03/R56): the record of the token is delivered, its error is cleared. -/
def State.trapToken (s : State) (t k : Nat) : State :=
  (s.modTeam t (fun T =>
    let tk := vget T.tok k
    { T with
      tcause := BitVec.ofNat 32 (causeCode .tokenError + 256 + 65536 * codeOr0 tk.cause),
      taddr := tk.taddr, tspc := tk.tspc, tseq := tk.tseq, tlog := 0, resume := T.spc, wait := .none,
      shold := none,
      tok := vmod T.tok k (fun x => { x with err := false, cause := none }) })).divert t .tokenError

/-- An L trap (03/R54): `m7` receives the lanes, TLPC the lane-PC, TSPC the S-PC at which the S-stream
diverts. The block is set to restart for those lanes, unless an operand-log slot holds them. -/
def State.trapL (s : State) (t : Nat) (p : LTrap) : State :=
  (s.modTeam t (fun T =>
    { T with
      tcause := BitVec.ofNat 32 (causeCode p.cause), taddr := p.taddr, tlpc := p.tlpc, tspc := T.spc,
      tlog := (match p.slot with | some k => 8 + BitVec.setWidth 4 k | none => 0), resume := T.spc,
      vtrap := p.visitor.or T.vtrap,
      regs := { T.regs with m := T.regs.m.set 7 p.lanes }, shold := none,
      blk := (match T.blk, p.redoFrom with
              | some b, some i =>
                some { b with lpc := i, redo := (p.lanes, p.tlpc) :: b.redo, redoM7 := true,
                              redoSseq := p.sseq }
              | b, _ => b) })).divert t p.cause

/-- Delivering an L trap that waits, at an instruction boundary of the S-stream (03/R54, R57). -/
def State.deliverL (s : State) (t : Nat) : State :=
  match (s.team t).pendL with
  | some p => (s.modTeam t (fun T => { T with pendL := none })).trapL t p
  | none => s

/-- An L trap is detected: while the team is TRAPPED it is not delivered to HANDLER, so it takes its path
at once (03/R57), and one that waits behind it goes on waiting; else it waits for the S-stream's next instruction
boundary. -/
def State.raiseL (s : State) (t : Nat) (p : LTrap) : State :=
  if (s.team t).phase == .trapped then s.trapL t p
  else s.modTeam t (fun T => { T with pendL := some p })

/-! ### Returning from a trap (03/R54, R55, 07/R175) -/

/-- An operand-log slot whose trap has been handled re-executes for the lanes of `m7` that have not
finished; its other lanes do no further work. -/
def Slot.again (k : Slot) (m7 : Mask) : Slot :=
  { k with traps := [], done := k.done ||| Mask.minus k.eff m7, faulted := 0, hold := none }

/-- A block that restarts after an L trap does so for the lanes of `m7` as the handler left it. -/
def Blk.again (b : Blk) (m7 : Mask) : Blk :=
  if b.redoM7 then
    { b with redoM7 := false, redo := (match b.redo with | r :: l => (m7, r.2) :: l | [] => []) }
  else b

/-- The registers with a block's own put back in place of those that handler blocks have used (02/R50). -/
def Blk.unstash (b : Blk) (v : List VReg) : List VReg :=
  if b.stash.isEmpty then v else v.take (b.lq.n - b.stash.length) ++ b.stash

/-- The team as `tresume` leaves it: RUNNING at the resume point, the held block and the entries set aside
back in the lane queue. A block that restarts does so for the lanes of `m7`. The S-stream's wait at `tresume` is over
(02/R52). Where no block is held, the entries set aside start with the FMT that stood when they were (02/R34). -/
def Team.resumed (T : Team) : Team :=
  let m7 := T.regs.m[7]
  { T with
    phase := .running, blocked := false, spc := T.resume, fmt := if T.held.isNone && !T.asideQ.isEmpty then T.fmtAside else T.fmt, wait := T.savedWait, savedWait := .none,
    regs := { T.regs with v := (match T.held with | some b => b.unstash T.regs.v | none => T.regs.v) },
    blk := T.held.map (fun b => { b.again m7 with stash := [] }), held := none, laneQ := T.asideQ, asideQ := [],
    oplog := (if T.tlog.getLsbD 3 then
        vmod T.oplog (T.tlog.toNat % 4) (fun o => o.map (·.again m7))
      else T.oplog) }

/-- The resumption of a trap taken without a handler, after RETRY (15/R397): as `tresume`, or for a trap
inside a handler the handler goes on at the resume point. -/
def Team.retried (T : Team) : Team :=
  if T.nested then
    let m7 := T.regs.m[7]
    { T with
      nested := false, blocked := false, spc := T.resume,
      blk := T.blk.map (·.again m7),
      oplog := (if T.tlog.getLsbD 3 then
          vmod T.oplog (T.tlog.toNat % 4) (fun o => o.map (·.again m7))
        else T.oplog) }
  else T.resumed

/-! ### Finishing an S instruction -/

/-- An S instruction of a team ends: it counts against the issue budget when it issues (17/R445). -/
def State.finishS (s0 : State) (t : Nat) (e : Eff) : State :=
  match e with
  | .done s => (s.modTeam t (fun T => { T with spc := T.spc + 4, wait := .none, blocked := false })).charge (s0.partOf t) 0 1
  | .goto s pc => (s.modTeam t (fun T => { T with spc := pc, wait := .none, blocked := false })).charge (s0.partOf t) 0 1
  | .over s => s.charge (s0.partOf t) 0 1
  | .wait s => s.modTeam t (fun T => { T with blocked := true })
  | .stall s => s.modTeam t (fun T => { T with blocked := false })
  | .trap s c a => (s.trapS t c a).charge (s0.partOf t) 0 1
  | .hold s h => s.modTeam t (fun T => { T with shold := some h })

/-- Executing an S instruction: it acts on the team whose S-stream is current, and waits while a load in
flight will write a register that it touches. -/
def State.runS (s : State) (uses : List (BitVec 6)) (f : Nat → Team → Eff) :
    Host.Outcome State Fault Refusal :=
  match s.cur with
  | .s t =>
    match s.teams[t]? with
    | some T => if T.busy uses then .next (s.finishS t (.stall s)) else .next (s.finishS t (f t T))
    | none => .fault .noStream
  | _ => .fault .noStream

/-- An S instruction that only changes its team. -/
def State.runReg (s : State) (uses : List (BitVec 6)) (f : Team → Team) :
    Host.Outcome State Fault Refusal :=
  s.runS uses (fun t T => .done (s.setTeam t (f T)))

/-- The decode check of majors 0x3C and 0x3D: only a supervisor team runs them (15/R383). TADDR is the
instruction's address (05/R115). -/
def State.runPriv (s : State) (uses : List (BitVec 6)) (f : Nat → Team → Eff) :
    Host.Outcome State Fault Refusal :=
  s.runS uses (fun t T => if (s.descOf t).sup then f t T else .trap s .privileged T.spc)

/-! ### Accesses of the S-stream (07/R159, R160) -/

/-- What the checks of an access come to: a value with the state, or the instruction's end. -/
inductive SChk (α : Type) where
  | ok (x : α) (s : State)
  | no (e : Eff)

/-- The checks of R159 on a global access of `n` bytes: alignment, translation with permission, and for a
read an uncorrectable error (15/R399). A walk that would overtake an earlier store of the team to the
table entries waits (16/R420). -/
def State.sGlobal (s : State) (t : Nat) (va : DWord) (n : Nat) (need : Need) : SChk Tlb :=
  let T := s.team t
  let p := s.partOf t
  if va.toNat % n != 0 then .no (.trap s .align va)
  else
    let own := s.teamQueue t (dieOfCore T.core)
    match s.translate p (some T.core) (dieOfCore T.core) none va need (some t) with
    | (.fail c res, reads, s') =>
      if walkBlocked own reads then .no (.stall s) else .no (s'.sFail t c res va need.w false)
    | (.ok tl, reads, s') =>
      if walkBlocked own reads then .no (.stall s)
      else
        let d := (s.part p).at tl va n
        match if need.r then s.badAt d.1 d.2 n else none with
        | some u =>
          if mending own d.1 d.2 then .no (.stall s)
          else .no (.trap (s'.metBad p u (homeOf d.2) d.2 va.toNat (some t)) .deviceError va)
        | none => .ok tl s'

/-- The checks of R160 on a scratchpad access: alignment, range, for a store or atomic the barrier rule of
R188, and for a read an uncorrectable error. -/
def State.sSpad (s : State) (t : Nat) (a : DWord) (n : Nat) (read store : Bool) : SChk Unit :=
  let g := (s.team t).gang
  if a.toNat % n != 0 then .no (.trap s .align a)
  else if s.spadBytes g < a.toNat + n then .no (.trap s .scratchRange a)
  else if store && (s.gang g).liveAt a.toNat n then .no (.trap s .barrierStore a)
  else if read && s.isBad 2 g a.toNat n then
    if mending (s.teamQueue t (dieOfCore (s.team t).core)) (.bank g) a.toNat then .no (.stall s)
    else .no (.trap (s.metBad (s.partOf t) 2 (dieOfCore (s.team t).core) 0 a.toNat (some t)) .deviceError a)
  else .ok () s

/-- Whether the S-stream's orders let an access be entered (10/R272). -/
def State.sMay (s : State) (t : Nat) (load store : Bool) : Bool :=
  s.mayEnter t (s.team t).sOrd load store

/-- Noting that a load in flight will write a register. -/
def State.notePend (s : State) (t : Nat) (id : Nat) (d : BitVec 6) (wide : Bool) : State :=
  if d = 0 && !wide then s
  else s.modTeam t (fun T => { T with pend := (id, d.toNat, wide) :: T.pend })

/-- Adding an order to the S-issue point. -/
def State.addSOrd (s : State) (t : Nat) (o : Ord) : State :=
  s.modTeam t (fun T => { T with sOrd := o :: s.pruneOrd T.sOrd })

/-- Entering a global access of the S-stream. -/
def State.sEnter (s : State) (t : Nat) (tl : Tlb) (va : DWord) (op : Acc) (ret : Ret) : State :=
  let T := s.team t
  s.enterGlobal (.s t) (some t) (s.partOf t) (dieOfCore T.core) tl va op ret none

/-- Entering a scratchpad access of the S-stream. -/
def State.sEnterSpad (s : State) (t : Nat) (a : DWord) (op : Acc) (ret : Ret) : State :=
  let T := s.team t
  s.enter (.s t) (some t) (s.partOf t) (dieOfCore T.core) (.bank T.gang) a.toNat a op ret none

/-- Whether an access of the S-stream to the line of a scratchpad word is in flight: what the bank performs
at the instruction's issue comes after it (10/R265, R266). -/
def State.bankBusy (s : State) (t : Nat) (a n : Nat) : Bool :=
  s.flight.any (fun e => isS e.owner t && e.dest == .bank (s.team t).gang &&
    overlaps (e.addr / 64 * 64) 64 (a / 64 * 64) (roundUp (a % 64 + n) 64))

end Sys2Proof.Machine
end

