-- ==== Sys2Proof/Machine/Alu.lean ====
section
/-!
DEFINITION. Scalar arithmetic: majors 0x01 to 0x0A (07/R153 to R156).
-/

namespace Sys2Proof.Machine

/-- 1 if a comparison holds, else 0. -/
def bit32 (b : Bool) : Word := if b then 1 else 0

/-- The amount of a 32-bit shift: bits [4:0]. -/
def amt5 (x : Word) : Nat := x.toNat % 32
/-- The amount of a 64-bit shift: bits [5:0]. -/
def amt6 (x : Word) : Nat := x.toNat % 64

/-- Signed quotient rounded toward zero (R154): `BitVec.sdiv` wraps 0x80000000 by -1 to itself. -/
def quotS (a b : Word) : Word := a.sdiv b
/-- s(a) - quotient * s(b): the sign of s(a). -/
def remS (a b : Word) : Word := a.srem b

/-- Bits [63:32] of the exact signed product. -/
def mulhS (a b : Word) : Word := ((a.signExtend 64) * (b.signExtend 64)).extractLsb' 32 32
/-- Bits [63:32] of the exact unsigned product. -/
def mulhU (a b : Word) : Word := ((a.setWidth 64) * (b.setWidth 64)).extractLsb' 32 32

/-- Leading zero bits, 0 to n. -/
def clzN (n x : Nat) : Nat := ((List.range n).find? (fun k => x.testBit (n - 1 - k))).getD n
/-- Number of one bits. -/
def popN (n x : Nat) : Nat := ((List.range n).filter (fun k => x.testBit k)).length

/-- An operation of major 0x01 on two registers. -/
def alu2 (s : State) (d a b : BitVec 6) (f : Word → Word → Word) : Host.Outcome State Fault Refusal :=
  s.runReg [d, a, b] (fun T => T.wr d (f (T.rd a) (T.rd b)))

/-- A division: a divisor of 0 faults ARITH (R154). -/
def aluDiv (s : State) (d a b : BitVec 6) (f : Word → Word → Word) : Host.Outcome State Fault Refusal :=
  s.runS [d, a, b] (fun t T =>
    if T.rd b = 0 then .trap s .arith 0 else .done (s.setTeam t (T.wr d (f (T.rd a) (T.rd b)))))

/-- An operation on one register. -/
def alu1 (s : State) (d a : BitVec 6) (f : Word → Word) : Host.Outcome State Fault Refusal :=
  s.runReg [d, a] (fun T => T.wr d (f (T.rd a)))

def execAdd (d a b : BitVec 6) (s : State) := alu2 s d a b (fun x y => x + y)
def execSub (d a b : BitVec 6) (s : State) := alu2 s d a b (fun x y => x - y)
def execMul (d a b : BitVec 6) (s : State) := alu2 s d a b (fun x y => x * y)
def execMulh (d a b : BitVec 6) (s : State) := alu2 s d a b mulhS
def execMulhu (d a b : BitVec 6) (s : State) := alu2 s d a b mulhU
def execDiv (d a b : BitVec 6) (s : State) := aluDiv s d a b quotS
def execDivu (d a b : BitVec 6) (s : State) := aluDiv s d a b (fun x y => x / y)
def execRem (d a b : BitVec 6) (s : State) := aluDiv s d a b remS
def execRemu (d a b : BitVec 6) (s : State) := aluDiv s d a b (fun x y => x % y)
def execAnd (d a b : BitVec 6) (s : State) := alu2 s d a b (fun x y => x &&& y)
def execOr (d a b : BitVec 6) (s : State) := alu2 s d a b (fun x y => x ||| y)
def execXor (d a b : BitVec 6) (s : State) := alu2 s d a b (fun x y => x ^^^ y)
def execAndn (d a b : BitVec 6) (s : State) := alu2 s d a b (fun x y => x &&& ~~~y)
def execShl (d a b : BitVec 6) (s : State) := alu2 s d a b (fun x y => x <<< amt5 y)
def execShr (d a b : BitVec 6) (s : State) := alu2 s d a b (fun x y => x >>> amt5 y)
def execSra (d a b : BitVec 6) (s : State) := alu2 s d a b (fun x y => x.sshiftRight (amt5 y))
def execRot (d a b : BitVec 6) (s : State) := alu2 s d a b (fun x y => x.rotateLeft (amt5 y))
def execMin (d a b : BitVec 6) (s : State) := alu2 s d a b (fun x y => if x.slt y then x else y)
def execMinu (d a b : BitVec 6) (s : State) := alu2 s d a b (fun x y => if x.ult y then x else y)
def execMax (d a b : BitVec 6) (s : State) := alu2 s d a b (fun x y => if x.slt y then y else x)
def execMaxu (d a b : BitVec 6) (s : State) := alu2 s d a b (fun x y => if x.ult y then y else x)
def execClz (d a : BitVec 6) (s : State) := alu1 s d a (fun x => BitVec.ofNat 32 (clzN 32 x.toNat))
def execPopc (d a : BitVec 6) (s : State) := alu1 s d a (fun x => BitVec.ofNat 32 (popN 32 x.toNat))
def execSeq (d a b : BitVec 6) (s : State) := alu2 s d a b (fun x y => bit32 (x == y))
def execSne (d a b : BitVec 6) (s : State) := alu2 s d a b (fun x y => bit32 (x != y))
def execSlt (d a b : BitVec 6) (s : State) := alu2 s d a b (fun x y => bit32 (x.slt y))
def execSltu (d a b : BitVec 6) (s : State) := alu2 s d a b (fun x y => bit32 (x.ult y))
def execSle (d a b : BitVec 6) (s : State) := alu2 s d a b (fun x y => bit32 (x.sle y))
def execSleu (d a b : BitVec 6) (s : State) := alu2 s d a b (fun x y => bit32 (x.ule y))

/-! ### Immediates (R155) -/

def execAddi (d a : BitVec 6) (imm : BitVec 14) (s : State) := alu1 s d a (fun x => x + imm.signExtend 32)
def execAndi (d a : BitVec 6) (imm : BitVec 14) (s : State) := alu1 s d a (fun x => x &&& imm.setWidth 32)
def execOri (d a : BitVec 6) (imm : BitVec 14) (s : State) := alu1 s d a (fun x => x ||| imm.setWidth 32)
def execXori (d a : BitVec 6) (imm : BitVec 14) (s : State) := alu1 s d a (fun x => x ^^^ imm.setWidth 32)
def execShli (d a : BitVec 6) (n : BitVec 5) (s : State) := alu1 s d a (fun x => x <<< n.toNat)
def execShri (d a : BitVec 6) (n : BitVec 5) (s : State) := alu1 s d a (fun x => x >>> n.toNat)
def execSrai (d a : BitVec 6) (n : BitVec 5) (s : State) := alu1 s d a (fun x => x.sshiftRight n.toNat)
def execRoti (d a : BitVec 6) (n : BitVec 5) (s : State) := alu1 s d a (fun x => x.rotateLeft n.toNat)
def execSlti (d a : BitVec 6) (imm : BitVec 14) (s : State) :=
  alu1 s d a (fun x => bit32 (x.slt (imm.signExtend 32)))
def execLui (d : BitVec 6) (imm : BitVec 20) (s : State) :=
  s.runReg [d] (fun T => T.wr d (imm ++ (0 : BitVec 12)))

/-! ### Pairs (R156) -/

/-- A pair operation on two pairs. -/
def pair2 (s : State) (d a b : BitVec 6) (f : DWord → DWord → DWord) : Host.Outcome State Fault Refusal :=
  s.runReg (both d ++ both a ++ both b) (fun T => T.wrp d (f (T.rdp a) (T.rdp b)))

/-- A pair shift by s(b)[5:0]. -/
def pairShift (s : State) (d a b : BitVec 6) (f : DWord → Nat → DWord) : Host.Outcome State Fault Refusal :=
  s.runReg (both d ++ both a ++ [b]) (fun T => T.wrp d (f (T.rdp a) (amt6 (T.rd b))))

def execDadd (d a b : BitVec 6) (s : State) := pair2 s d a b (fun x y => x + y)
def execDsub (d a b : BitVec 6) (s : State) := pair2 s d a b (fun x y => x - y)
def execDshl (d a b : BitVec 6) (s : State) := pairShift s d a b (fun x n => x <<< n)
def execDshr (d a b : BitVec 6) (s : State) := pairShift s d a b (fun x n => x >>> n)
def execDsra (d a b : BitVec 6) (s : State) := pairShift s d a b (fun x n => x.sshiftRight n)
def execDaddi (d a : BitVec 6) (imm : BitVec 14) (s : State) :=
  s.runReg (both d ++ both a) (fun T => T.wrp d (T.rdp a + imm.signExtend 64))

end Sys2Proof.Machine
end

