-- ==== Sys2Proof/Machine/Control.lean ====
section
/-!
DEFINITION. Control transfers of the S-stream (07/R166, 05/R113).
-/

namespace Sys2Proof.Machine

/-- Whether s(a), read as i32, meets a condition (05/R121). -/
def condHolds (cond : BitVec 4) (x : Word) : Bool :=
  match cond.toNat with
  | 0 => x == 0
  | 1 => x != 0
  | 2 => x.slt 0
  | 3 => !x.slt 0
  | 4 => (0 : Word).slt x
  | _ => x.sle 0

/-- A transfer to a target: with bits [1:0] non-zero it faults ALIGN and is not made (R113). -/
def transfer (s : State) (target : DWord) : Eff :=
  if target.toNat % 4 != 0 then .trap s .align target else .goto s target

/-- P + 4 * SignExtend(offset). -/
def relTarget (p : DWord) (off : DWord) : DWord := p + 4 * off

def execBCond (a : BitVec 6) (cond : BitVec 4) (off : BitVec 16) (s : State) :
    Host.Outcome State Fault Refusal :=
  s.runS [a] (fun _ T =>
    if condHolds cond (T.rd a) then transfer s (relTarget T.spc (off.signExtend 64)) else .done s)

def execJmp (off : BitVec 26) (s : State) : Host.Outcome State Fault Refusal :=
  s.runS [] (fun _ T => transfer s (relTarget T.spc (off.signExtend 64)))

/-- `call` writes (P + 4)[31:0] to s63. -/
def execCall (off : BitVec 26) (s : State) : Host.Outcome State Fault Refusal :=
  s.runS [63] (fun t T =>
    let target := relTarget T.spc (off.signExtend 64)
    if target.toNat % 4 != 0 then .trap s .align target
    else .goto (s.setTeam t (T.wr 63 ((T.spc + 4).extractLsb' 0 32))) target)

def execJr (a : BitVec 6) (s : State) : Host.Outcome State Fault Refusal :=
  s.runS (both a) (fun _ T => transfer s (T.rdp a))

def execRet (a : BitVec 6) (s : State) : Host.Outcome State Fault Refusal :=
  s.runS [a] (fun _ T => transfer s (T.spc.extractLsb' 32 32 ++ T.rd a))

end Sys2Proof.Machine
end

