-- ==== Sys2Proof/Machine/Flags.lean ====
section
/-!
DEFINITION. Exact values, the flags of FPSTAT and MSTAT (03/R61), and rounding to the binary floating formats
and to integers (04/R83 to R93, R96).
-/

namespace Sys2Proof.Machine

/-! ### Flags (03/R61) -/

abbrev Flags := BitVec 5

def flNV : Flags := 16
def flDZ : Flags := 8
def flOF : Flags := 4
def flUF : Flags := 2
def flNX : Flags := 1

/-- A flag if a condition holds. -/
def flagIf (b : Bool) (f : Flags) : Flags := if b then f else 0

/-- MSTAT. -/
def msNanScale : BitVec 3 := 4
def msAccOverflow : BitVec 3 := 2
def msSkipNf : BitVec 3 := 1

/-! ### Exact values -/

/-- A floating value: a NaN, signalling or not, an infinity, or ±m × 2^e. -/
inductive FV where
  | nan (sig : Bool)
  | inf (neg : Bool)
  | fin (neg : Bool) (m : Nat) (e : Int)
  deriving DecidableEq, Repr, Inhabited

def FV.isNan (v : FV) : Bool := match v with | .nan _ => true | _ => false
def FV.isSig (v : FV) : Bool := match v with | .nan s => s | _ => false
def FV.isInf (v : FV) : Bool := match v with | .inf _ => true | _ => false
def FV.isZero (v : FV) : Bool := match v with | .fin _ m _ => m == 0 | _ => false
def FV.neg (v : FV) : Bool := match v with | .nan _ => false | .inf n => n | .fin n _ _ => n
/-- Whether a value is finite and not zero. -/
def FV.isNum (v : FV) : Bool := match v with | .fin _ m _ => m != 0 | _ => false
def FV.flip (v : FV) : FV :=
  match v with
  | .nan s => .nan s
  | .inf n => .inf (!n)
  | .fin n m e => .fin (!n) m e
def FV.abs (v : FV) : FV :=
  match v with
  | .nan s => .nan s
  | .inf _ => .inf false
  | .fin _ m e => .fin false m e

/-- Number of bits of a natural number. -/
def bitLen (n : Nat) : Nat := if n = 0 then 0 else Nat.log2 n + 1

/-- floor(log2 (m × 2^e)) for m ≠ 0. -/
def expOf (m : Nat) (e : Int) : Int := (bitLen m : Int) - 1 + e

/-- The exponent of a finite non-zero value. -/
def FV.exp (v : FV) : Int := match v with | .fin _ m e => expOf m e | _ => 0

/-- A signalling operand raises NV (04/R86). -/
def sigNV (vs : List FV) : Flags := flagIf (vs.any (·.isSig)) flNV

/-- ±m × 2^e as a multiple of 2^lo, for lo ≤ e. -/
def FV.at (v : FV) (lo : Int) : Int :=
  match v with
  | .fin n m e => if n then -((m * 2 ^ (e - lo).toNat : Nat) : Int) else ((m * 2 ^ (e - lo).toNat : Nat) : Int)
  | _ => 0

/-- The exponent of the last place. -/
def FV.lsb (v : FV) : Int := match v with | .fin _ _ e => e | _ => 0

/-- Comparing two numbers; infinities lie beyond every finite value, zeros are equal. -/
def cmpNum (x y : FV) : Ordering :=
  let rank (v : FV) : Int := match v with | .inf n => if n then -1 else 1 | _ => 0
  if x.isInf || y.isInf then compare (rank x) (rank y)
  else
    let lo := min x.lsb y.lsb
    compare (x.at lo) (y.at lo)

/-! ### Exact operations -/

/-- A sum of finite values; an exact zero of operands of opposite signs is -0 only when rounding down. -/
def addFin (mode : Nat) (x y : FV) : FV :=
  if x.isZero && y.isZero then .fin (if x.neg == y.neg then x.neg else mode == 3) 0 0
  else
    let lo := if x.isZero then y.lsb else if y.isZero then x.lsb else min x.lsb y.lsb
    let z := (if x.isZero then 0 else x.at lo) + (if y.isZero then 0 else y.at lo)
    if z = 0 then .fin (mode == 3) 0 0 else .fin (z < 0) z.natAbs lo

/-- x + y (IEEE 754): the exact value, with the flags of its special cases. -/
def addFV (mode : Nat) (x y : FV) : FV × Flags :=
  if x.isNan || y.isNan then (.nan false, sigNV [x, y])
  else
    match x, y with
    | .inf a, .inf b => if a == b then (.inf a, 0) else (.nan false, flNV)
    | .inf a, _ => (.inf a, 0)
    | _, .inf b => (.inf b, 0)
    | x, y => (addFin mode x y, 0)

def mulFV (x y : FV) : FV × Flags :=
  let n := x.neg != y.neg
  if x.isNan || y.isNan then (.nan false, sigNV [x, y])
  else if (x.isInf && y.isZero) || (x.isZero && y.isInf) then (.nan false, flNV)
  else if x.isInf || y.isInf then (.inf n, 0)
  else
    match x, y with
    | .fin _ a e, .fin _ b f => (.fin n (a * b) (e + f), 0)
    | _, _ => (.nan false, 0)

/-- x × y + z with one rounding to come: 0 × ∞ raises NV whatever the addend is (09/R235). -/
def fmaFV (mode : Nat) (x y z : FV) : FV × Flags :=
  let (p, f) := mulFV x y
  let f := f ||| sigNV [z]
  if p.isNan || z.isNan then (.nan false, f)
  else
    let (r, g) := addFV mode p z
    (r, f ||| g)

/-- A quotient of natural numbers with at least `bits` significant bits, and a last bit that is odd when it is
not exact. -/
def divSig (bits a b : Nat) : Nat × Int :=
  let sh := bits + bitLen b - bitLen a
  let q := a * 2 ^ sh / b
  let r := a * 2 ^ sh % b
  (2 * q + (if r = 0 then 0 else 1), -(sh : Int) - 1)

def divFV (bits : Nat) (x y : FV) : FV × Flags :=
  let n := x.neg != y.neg
  if x.isNan || y.isNan then (.nan false, sigNV [x, y])
  else if (x.isInf && y.isInf) || (x.isZero && y.isZero) then (.nan false, flNV)
  else if x.isInf then (.inf n, 0)
  else if y.isInf || x.isZero then (.fin n 0 0, 0)
  else if y.isZero then (.inf n, flDZ)
  else
    match x, y with
    | .fin _ a e, .fin _ b f =>
      let (m, g) := divSig bits a b
      (.fin n m (e - f + g), 0)
    | _, _ => (.nan false, 0)

/-- floor of the square root, bit by bit. -/
def isqrt (n : Nat) : Nat :=
  ((List.range (bitLen n / 2 + 1)).reverse).foldl (fun r k =>
    let c := r + 2 ^ k
    if c * c ≤ n then c else r) 0

/-- The square root of m × 2^e, as `divSig` gives a quotient. -/
def sqrtSig (bits m : Nat) (e : Int) : Nat × Int :=
  let (m, e) : Nat × Int := if e % 2 = 0 then (m, e) else (2 * m, e - 1)
  let sh := 2 * (bits - bitLen m / 2)
  let r := isqrt (m * 2 ^ sh)
  (2 * r + (if r * r = m * 2 ^ sh then 0 else 1), e / 2 - ((sh / 2 : Nat) : Int) - 1)

/-- 1 / √(m × 2^e). -/
def rsqrtSig (bits m : Nat) (e : Int) : Nat × Int :=
  let (m, e) : Nat × Int := if e % 2 = 0 then (m, e) else (2 * m, e - 1)
  let k := bits + bitLen m / 2 + 1
  let r := isqrt (2 ^ (2 * k) / m)
  (2 * r + (if r * r * m = 2 ^ (2 * k) then 0 else 1), -(e / 2) - (k : Int) - 1)

/-! ### Rounding (04/R88) -/

/-- Rounding m × 2^e to a multiple of 2^q: the multiple, and whether it is inexact. -/
def roundAt (mode : Nat) (neg : Bool) (m : Nat) (e q : Int) : Nat × Bool :=
  if q ≤ e then (m * 2 ^ (e - q).toNat, false)
  else
    let d := (q - e).toNat
    -- a value far below half a unit rounds as any other such value
    let (m, d) : Nat × Nat := if bitLen m + 2 < d then ((if m = 0 then 0 else 1), 2) else (m, d)
    let n := m / 2 ^ d
    let r := m % 2 ^ d
    let half := 2 ^ (d - 1)
    let up := match mode with
      | 0 => decide (half < r) || (r == half && n % 2 == 1)
      | 1 => false
      | 2 => r != 0 && !neg
      | 3 => r != 0 && neg
      | _ => decide (half ≤ r)
    (if up then n + 1 else n, r != 0)

/-- How a format codes what is not finite. -/
inductive Special where
  /-- infinity and NaN at the largest exponent -/
  | ieee
  /-- one NaN code, and no infinity -/
  | oneNan
  /-- neither -/
  | none
  deriving DecidableEq, Repr

/-- A binary floating format (04/R84, R96): bits with the sign, significand bits, exponent of the smallest
normal number, and the largest finite magnitude, of `p` significand bits. -/
structure Fmt where
  w : Nat
  p : Nat
  emin : Int
  maxN : Nat
  maxQ : Int
  special : Special
  deriving DecidableEq, Repr

def fmtF32 : Fmt := ⟨32, 24, -126, 2 ^ 24 - 1, 104, .ieee⟩
def fmtF16 : Fmt := ⟨16, 11, -14, 2 ^ 11 - 1, 5, .ieee⟩
def fmtBf16 : Fmt := ⟨16, 8, -126, 2 ^ 8 - 1, 120, .ieee⟩
def fmtE4m3 : Fmt := ⟨8, 4, -6, 14, 5, .oneNan⟩
def fmtE5m2 : Fmt := ⟨8, 3, -14, 7, 13, .ieee⟩
def fmtE2m1 : Fmt := ⟨4, 2, 0, 3, 1, .none⟩
/-- A TS8 element without its selector, and a TS4 element without its selector. -/
def fmtTs8 : Fmt := ⟨7, 3, -6, 6, 6, .oneNan⟩
def fmtTs4 : Fmt := ⟨3, 2, 0, 3, -1, .none⟩

/-- The code of every exponent and mantissa bit set. -/
def Fmt.ones (f : Fmt) : Nat := 2 ^ (f.w - 1) - 1
/-- The code of infinity in a format that has one. -/
def Fmt.infCode (f : Fmt) : Nat := (2 ^ (f.w - f.p) - 1) * 2 ^ (f.p - 1)
/-- The canonical NaN (04/R86). -/
def Fmt.nanCode (f : Fmt) : Nat :=
  match f.special with
  | .ieee => f.infCode + 2 ^ (f.p - 2)
  | .oneNan => f.ones
  | .none => 0

def Fmt.signed (f : Fmt) (neg : Bool) (c : Nat) : Nat := if neg then c + 2 ^ (f.w - 1) else c

/-- The code of the magnitude n × 2^q, for n of at most `p` bits, or a carry out of them. -/
def Fmt.magCode (f : Fmt) (n : Nat) (q : Int) : Nat :=
  let (n, q) : Nat × Int := if n = 2 ^ f.p then (n / 2, q + 1) else (n, q)
  if n < 2 ^ (f.p - 1) then n
  else ((q + f.p - 1 - f.emin).toNat + 1) * 2 ^ (f.p - 1) + (n - 2 ^ (f.p - 1))

def Fmt.maxCode (f : Fmt) : Nat := f.magCode f.maxN f.maxQ

/-- The value of a code (04/R84, R96). -/
def Fmt.decode (f : Fmt) (x : Nat) : FV :=
  let c := x % 2 ^ (f.w - 1)
  let neg := x / 2 ^ (f.w - 1) % 2 == 1
  let e := c / 2 ^ (f.p - 1)
  let m := c % 2 ^ (f.p - 1)
  let num : FV :=
    if e = 0 then .fin neg m (f.emin - f.p + 1)
    else .fin neg (2 ^ (f.p - 1) + m) (f.emin - f.p + 1 + e - 1)
  match f.special with
  | .ieee =>
    if c < f.infCode then num else if m = 0 then .inf neg else .nan (m < 2 ^ (f.p - 2))
  | .oneNan => if c = f.ones then .nan false else num
  | .none => num

/-- Whether a code is a subnormal number. -/
def Fmt.isSub (f : Fmt) (x : Nat) : Bool :=
  let c := x % 2 ^ (f.w - 1)
  c != 0 && c < 2 ^ (f.p - 1)

/-- Whether a rounding that overflows goes to infinity (04/R90). -/
def toInf (mode : Nat) (neg : Bool) : Bool :=
  match mode with
  | 1 => false
  | 2 => !neg
  | 3 => neg
  | _ => true

/-- The result of an overflow (04/R90). -/
def Fmt.overflow (f : Fmt) (mode : Nat) (sat neg : Bool) : Nat :=
  if sat || !toInf mode neg then f.signed neg f.maxCode
  else
    match f.special with
    | .ieee => f.signed neg f.infCode
    | .oneNan => f.nanCode
    | .none => f.signed neg f.maxCode

/-- What a rounded magnitude becomes in a format: overflow (R90), tininess (R91) and the flush of results
(R87). `n × 2^q` is the rounded magnitude, `ix` says whether it is inexact, `tiny` whether it is tiny. -/
def Fmt.finish (f : Fmt) (mode : Nat) (sat ftz neg : Bool) (n : Nat) (q : Int) (ix tiny : Bool) :
    Nat × Flags :=
  let emax := f.maxQ + f.p - 1
  let (n, q) : Nat × Int := if n = 2 ^ f.p then (n / 2, q + 1) else (n, q)
  if n != 0 && (emax < expOf n q || (expOf n q == emax && f.maxN < n)) then
    (f.overflow mode sat neg, flOF ||| flNX)
  else if ftz && n != 0 && n < 2 ^ (f.p - 1) then (f.signed neg 0, flUF ||| flNX)
  else (f.signed neg (f.magCode n q), flagIf ix flNX ||| flagIf (tiny && ix) flUF)

/-- The grid on which a value of an exponent lies in a format, subnormal positions counted. -/
def Fmt.grid (f : Fmt) (e : Int) : Int := max e f.emin - f.p + 1

/-- Rounding a finite value (04/R88, R90, R91). -/
def Fmt.roundFin (f : Fmt) (mode : Nat) (sat ftz neg : Bool) (m : Nat) (e : Int) : Nat × Flags :=
  if m = 0 then (f.signed neg 0, 0)
  else
    let E := expOf m e
    let q := f.grid E
    let (n, ix) := roundAt mode neg m e q
    let (u, _) := roundAt mode neg m e (E - f.p + 1)
    let tiny := E < f.emin && !(E + 1 == f.emin && u == 2 ^ f.p)
    f.finish mode sat ftz neg n q ix tiny

/-- Rounding a value: infinities and NaNs follow R90 and R86. -/
def Fmt.round (f : Fmt) (mode : Nat) (sat ftz : Bool) (v : FV) : Nat × Flags :=
  match v with
  | .fin neg m e => f.roundFin mode sat ftz neg m e
  | .nan _ => (f.nanCode, flagIf (f.special == .none) flNV)
  | .inf neg =>
    match f.special with
    | .ieee => if sat then (f.signed neg f.maxCode, flOF) else (f.signed neg f.infCode, 0)
    | .oneNan => if sat then (f.signed neg f.maxCode, flOF) else (f.nanCode, flNV)
    | .none => (f.signed neg f.maxCode, flNV)

/-- The stochastic rule of R93 at a grid: the multiple of 2^q, and whether it is inexact. -/
def roundSrAt (k q0 m : Nat) (e q : Int) : Nat × Bool :=
  if q ≤ e then (m * 2 ^ (e - q).toNat, false)
  else
    let j := (q - e).toNat
    let t := m / 2 ^ j
    let dall := m % 2 ^ j
    let up :=
      if k ≤ j then decide (2 ^ k ≤ dall / 2 ^ (j - k) + q0)
      else decide (2 ^ j ≤ dall + q0 / 2 ^ (k - j))
    (if up then t + 1 else t, dall != 0)

/-- `vcvt.sr` (04/R93): overflow follows the row of RNE, and both overflow and tininess (R91) are those of the
rule's result. DEDUCED (log entry 60). -/
def Fmt.roundSr (f : Fmt) (k q0 : Nat) (sat ftz : Bool) (v : FV) : Nat × Flags :=
  match v with
  | .fin neg m e =>
    if m = 0 then (f.signed neg 0, 0)
    else
      let E := expOf m e
      let q := f.grid E
      let (n, ix) := roundSrAt k q0 m e q
      f.finish 0 sat ftz neg n q ix (n < 2 ^ (f.p - 1))
  | v => f.round 0 sat ftz v

/-! ### Integers (04/R83) -/

/-- Rounding to an integer type of `w` bits: the bits, with saturation and NV. -/
def roundInt (mode w : Nat) (signed : Bool) (v : FV) : Nat × Flags :=
  let hi : Int := if signed then 2 ^ (w - 1) - 1 else 2 ^ w - 1
  let lo : Int := if signed then -(2 ^ (w - 1) : Int) else 0
  let bits (x : Int) : Nat := (x % (2 ^ w : Int)).toNat
  match v with
  | .nan _ => (0, flNV)
  | .inf neg => (bits (if neg then lo else hi), flNV)
  | .fin neg m e =>
    let (n, ix) := roundAt mode neg m e 0
    let x : Int := if neg then -(n : Int) else n
    if hi < x then (bits hi, flNV)
    else if x < lo then (bits lo, flNV)
    else (bits x, flagIf ix flNX)

/-- An integer of `w` bits as a value. -/
def ofInt (w : Nat) (signed : Bool) (x : Nat) : FV :=
  if signed && 2 ^ (w - 1) ≤ x then .fin true (2 ^ w - x) 0 else .fin false x 0

/-! ### Selections and comparisons (09/R237, R238) -/

/-- Whether `vmin` (or `vmax`) chooses the second of two numbers; -0 is less than +0. -/
def picksSecond (isMax : Bool) (x y : FV) : Bool :=
  let c := if x.isZero && y.isZero then compare (if x.neg then 0 else 1) (if y.neg then (0 : Nat) else 1)
           else cmpNum x y
  if isMax then c == .lt else c == .gt

/-- The predicates of R238, with NV. -/
def cmpPred (sub : Nat) (x y : FV) : Bool × Flags :=
  let n := x.isNan || y.isNan
  let quiet := sigNV [x, y]
  let any := flagIf n flNV
  match sub with
  | 0 => (!n && cmpNum x y == .eq, quiet)
  | 1 => (n || cmpNum x y != .eq, quiet)
  | 2 => (!n && cmpNum x y == .lt, any)
  | 3 => (!n && cmpNum x y != .gt, any)
  | 4 => (!n && cmpNum x y == .gt, any)
  | 5 => (!n && cmpNum x y != .lt, any)
  | 6 => (n, quiet)
  | _ => (!n, quiet)

/-- The class bit of R240. -/
def classBit (v : FV) (sub : Bool) : Nat :=
  match v with
  | .nan s => if s then 2 ^ 8 else 2 ^ 9
  | .inf n => if n then 2 ^ 0 else 2 ^ 7
  | .fin n m _ =>
    if m = 0 then (if n then 2 ^ 3 else 2 ^ 4)
    else if sub then (if n then 2 ^ 2 else 2 ^ 5)
    else if n then 2 ^ 1 else 2 ^ 6

/-! ### The generator (04/R107, R108) -/

def gen (rkey ctr : DWord) : DWord :=
  let z := ctr * 0x9E3779B97F4A7C15 + rkey
  let z := (z ^^^ (z >>> 30)) * 0xBF58476D1CE4E5B9
  let z := (z ^^^ (z >>> 27)) * 0x94D049BB133111EB
  z ^^^ (z >>> 31)

/-- ctr = (stream << 48) or coord. -/
def genCtr (stream : BitVec 16) (coord : DWord) : DWord := stream ++ coord.extractLsb' 0 48

end Sys2Proof.Machine
end

