-- ==== Sys2Proof/Machine/Operands.lean ====
section
/-!
DEFINITION. The operand forms of L instructions: the stream that an L instruction acts on (02/R29,
14/R368), the registers that it names and the checks on them (03/R65, R78), reading sources, and writing
a destination lane by lane (03/R66, R67).
-/

namespace Sys2Proof.Machine

/-! ### The stream -/

/-- What an L instruction works on: the team's or visitor's lane state, and the mask it runs under. -/
structure LCtx where
  who : Issuer
  /-- the team; its visitor runs with the team's width and N -/
  t : Nat
  visiting : Bool
  part : Nat
  die : Nat
  core : Nat
  tid : Nat
  w : Nat
  n : Nat
  regs : Regs
  wcodes : DWord
  blk : Blk
  /-- away lanes, or in a visitor the lanes that it does not carry -/
  away : Mask
  eff : Mask
  flags : BitVec 5
  nfcAdd : Nat
  slots : Vector DWord 8
  /-- lanes of the instruction that a register read stops (15/R399) -/
  skip : Mask := 0
  deriving DecidableEq, Repr

/-- The context of the current L-stream or visitor, with the effective mask of select value 0. -/
def State.lctx (s : State) : Option LCtx :=
  match s.cur with
  | .l t =>
    match s.teams[t]? with
    | some T =>
      match T.blk with
      | some b =>
        some { who := .l t, t := t, visiting := false, part := s.partOf t, die := dieOfCore T.core,
               core := T.core, tid := T.tid, w := T.w, n := b.lq.n, regs := T.regs, wcodes := T.wcodes,
               blk := b, away := T.away, eff := Mask.minus b.path T.away, flags := 0, nfcAdd := 0,
               slots := T.slots }
      | none => none
    | none => none
  | .v v =>
    match s.visitors[v]? with
    | some V =>
      let c := V.cont
      let T := s.team c.team
      if V.alive then
        some { who := .v v, t := c.team, visiting := true, part := c.part, die := dieOfCore V.core,
               core := V.core, tid := T.tid, w := T.w, n := c.regs.v.length, regs := c.regs,
               wcodes := c.wcodes, blk := c.blk, away := ~~~c.lanes, eff := c.blk.path &&& c.lanes,
               flags := 0, nfcAdd := 0, slots := T.slots }
      else none
    | none => none
  | _ => none

/-- The lanes of the effective mask, ascending. -/
def LCtx.lanes (C : LCtx) : List Nat := Mask.lanes C.eff C.w

/-- The virtual address of the instruction at the lane-PC (05/R113). -/
def State.lAddr (s : State) (C : LCtx) : DWord :=
  (s.descOf C.t).lbase + BitVec.ofNat 64 (12 * C.blk.lpc.toNat)

/-- A count that saturates at 0xFFFFFFFF (03/R59, 09/R241). -/
def satAdd (x : Word) (n : Nat) : Word := BitVec.ofNat 32 (min (x.toNat + n) 0xFFFFFFFF)

/-- Putting a context back: registers, window, block, flags and counts. -/
def State.putL (s : State) (C : LCtx) : State :=
  match C.who with
  | .l t => s.modTeam t (fun T =>
      { T with regs := C.regs, wcodes := C.wcodes, blk := some C.blk, fpstat := T.fpstat ||| C.flags,
               nfc := satAdd T.nfc C.nfcAdd, slots := C.slots, lblocked := false })
  | .v v => s.modVisitor v (fun V =>
      { V with cont := { V.cont with
          regs := C.regs, wcodes := C.wcodes, blk := C.blk, flags := V.cont.flags ||| C.flags,
          nfcAdd := satAdd V.cont.nfcAdd C.nfcAdd } })
  | _ => s

/-! ### What an instruction names -/

/-- The register of a destination, if it names one that is written. -/
def dstReg (d : Dst) : Option Reg :=
  match d with
  | .r x | .rl x _ => some x
  | .l _ => none

def dstLatch (d : Dst) : Option Nat :=
  match d with
  | .rl _ k | .l k => some k.toNat
  | .r _ => none

/-- What an instruction touches: `v` registers, `e` registers, masks, PRC. -/
structure Touch where
  v : List Nat := []
  e : List Nat := []
  m : List Nat := []
  prc : Bool := false
  latch : List Nat := []

def touchReg (n : Nat) (r : Reg) : Touch :=
  match r with
  | .v k => { v := (List.range n).map (· + k.toNat) }
  | .e k => { e := (List.range n).map (· + k.toNat) }
  | .m k => { m := [k.toNat] }
  | .prc => { prc := true }
  | _ => {}

def Touch.join (a b : Touch) : Touch :=
  { v := a.v ++ b.v, e := a.e ++ b.e, m := a.m ++ b.m, prc := a.prc || b.prc, latch := a.latch ++ b.latch }

/-- The registers that a soft instruction names beyond its slots' first: K index-and-weight pairs and D
values (13/R342, R343). -/
def softTouch (i : Instr) (d : Nat) : Touch :=
  let k (f : LF) : Nat := f.sub.toNat % 8 + 1
  let regs (s : Src) (n : Nat) : Touch := match s with | .reg r => touchReg n r | _ => {}
  let dst (x : Dst) (n : Nat) : Touch := match x with | .r r => touchReg n r | _ => {}
  match i with
  | .softLd f => (dst f.d d).join (regs f.a (2 * k f))
  | .softSt f => (regs f.a (2 * k f)).join (regs f.b d)
  | .softLdg f => ((dst f.d (k f)).join (regs f.a (2 * k f))).join (regs f.b d)
  | .softHarden f =>
    ((dst f.d 1).join (regs f.a (2 * k f))).join
      ((regs f.b (2 * k f)).join (if 8 ≤ f.sub.toNat then regs f.c 2 else {}))
  | _ => {}

/-- The registers that the sources of an instruction name. -/
def srcTouch (i : Instr) : Touch :=
  ((srcSlots i).map (fun p =>
    match p.2 with
    | .reg r => touchReg p.1 r
    | .lat k => if p.1 = 0 then {} else { latch := [k.toNat] })).foldl Touch.join {}

/-- The registers and the latch that the destination of an instruction names. -/
def dstTouch (i : Instr) : Touch :=
  let (_, f) := lCode i
  let n := clsCount (lSlotsOf i).d
  if n = 0 then {}
  else
    ((match dstReg f.d with | some r => touchReg n r | none => {}) : Touch).join
      { latch := (match dstLatch f.d with | some k => [k] | none => []) }

/-- Everything that an instruction touches, its mask select included. -/
def touch (i : Instr) (softD : Nat) : Touch :=
  let (_, f) := lCode i
  (((srcTouch i).join (dstTouch i)).join (softTouch i softD)).join
    { m := if f.ms = 0 then [] else [f.ms.toNat] }

/-! ### Checks on the registers (03/R65, R78, 14/R368) -/

/-- Capacity of an elastic register in halfwords, 0 when it is absent (03/R77). -/
def capOf (codes : DWord) (k : Nat) : Nat :=
  let c := bitsOf codes.toNat (4 * k + 3) (4 * k)
  if c = 0 then 0 else c + 1

/-- The first cell of an elastic register: `v` number (03/R77). -/
def LCtx.cellOf (C : LCtx) (k : Nat) : Nat :=
  C.n - windowCells C.wcodes + ((List.range k).map (fun j => (capOf C.wcodes j + 1) / 2)).sum

/-- The lowest cause among the checks on the registers that an instruction touches. -/
def LCtx.regCheck (C : LCtx) (u : Touch) : Option Cause :=
  let k := windowCells C.wcodes
  let unstaged (n : Nat) : Bool := 64 ≤ n || !C.blk.staged.getLsbD n
  if !C.visiting && u.v.any (fun n => C.n ≤ n) then some .illegal
  else if u.v.any (fun n => C.n - k ≤ n && n < C.n) && k != 0 && (!C.visiting || C.blk.ew) then some .window
  else if u.e.any (fun n => capOf C.wcodes n == 0) && (!C.visiting || C.blk.ew) then some .window
  else if C.visiting && (u.v.any unstaged || (!u.e.isEmpty && !C.blk.ew)) then some .notCarried
  else none

/-! ### Sources -/

/-- A latch at a lane: one not written since its chain's head reads as zero (03/R72). -/
def Blk.latchAt (b : Blk) (k lane : Nat) : Word := ((vget b.latch k)[lane]?).getD 0

/-- A register at a lane, as a 32-bit value (03/R69). -/
def LCtx.reg (C : LCtx) (r : Reg) (lane : Nat) : Word :=
  match r with
  | .v n => ((C.regs.v[n.toNat]?).getD (.u 0)).at lane
  | .p n => C.blk.lq.params[n.toNat]
  | .prc => C.regs.prc.at lane
  | .lid => BitVec.ofNat 32 lane
  | .tid => BitVec.ofNat 32 C.tid
  | _ => 0

/-- A 32-bit source at a lane. -/
def LCtx.src (C : LCtx) (x : Src) (lane : Nat) : Word :=
  match x with
  | .reg r => C.reg r lane
  | .lat k => C.blk.latchAt k.toNat lane

/-- The register after another of its kind, `j` numbers on. -/
def regPlus (r : Reg) (j : Nat) : Reg :=
  match r with
  | .v n => .v (n + BitVec.ofNat 7 j)
  | .p n => .p (n + BitVec.ofNat 4 j)
  | .e n => .e (n + BitVec.ofNat 4 j)
  | r => r

def srcPlus (x : Src) (j : Nat) : Src := match x with | .reg r => .reg (regPlus r j) | x => x

/-- A pair source at a lane; zero reads as zero. -/
def LCtx.pair (C : LCtx) (x : Src) (lane : Nat) : DWord := C.src (srcPlus x 1) lane ++ C.src x lane

/-- A mask register. -/
def LCtx.mask (C : LCtx) (x : Src) : Mask :=
  match x with
  | .reg (.m k) => C.regs.m[k.toNat]
  | _ => 0

/-- The shape of a source (03/R65, R69, R72). -/
inductive Shape where
  | u
  | a (base stride : Word)
  | g
  deriving DecidableEq, Repr

def VReg.shape (r : VReg) : Shape :=
  match r with
  | .u _ => .u
  | .a b y => .a b y
  | .g _ => .g

def LCtx.shape (C : LCtx) (x : Src) : Shape :=
  match x with
  | .reg (.v n) => ((C.regs.v[n.toNat]?).getD (.u 0)).shape
  | .reg .prc => C.regs.prc.shape
  | .reg .lid => .a 0 1
  | .reg _ => .u
  | .lat _ => .g

/-- The shape of a pair: U when both registers are, else G (08/R190). -/
def LCtx.pairShape (C : LCtx) (x : Src) : Shape :=
  if C.shape x == .u && C.shape (srcPlus x 1) == .u then .u else .g

/-- The result shape of R66 in general: U when every source is U, else G. -/
def allU (l : List Shape) : Shape := if l.all (· == .u) then .u else .g

/-! ### Results -/

/-- What an instruction gives one lane: the words of its destination registers, the flags it raises, the
count of replacements, or the fault that keeps the lane from completing. -/
structure LOut where
  xs : List Word := []
  fl : BitVec 5 := 0
  nf : Nat := 0
  bad : Option (Cause × DWord) := none
  deriving DecidableEq, Repr

/-- Writing one register: under R67, `full` when every lane of the team is written. -/
def VReg.write (old : VReg) (w : Nat) (full : Bool) (sh : Shape) (vals : List (Nat × Word)) : VReg :=
  if vals.isEmpty then old
  else if full then
    match sh with
    | .u => .u ((vals.headD (0, 0)).2)
    | .a b y => .a b y
    | .g => .g ((List.range w).map (fun l => ((vals.find? (·.1 == l)).map (·.2)).getD 0))
  else
    .g ((List.range w).map (fun l =>
      match vals.find? (·.1 == l) with
      | some p => p.2
      | none => old.at l))

/-- Writing `v` registers from `k` on, one word of each lane's result each. -/
def LCtx.writeV (C : LCtx) (k cnt : Nat) (full : Bool) (sh : Shape) (outs : List (Nat × LOut)) : LCtx :=
  let vals (j : Nat) : List (Nat × Word) := outs.map (fun o => (o.1, (o.2.xs[j]?).getD 0))
  let v := (List.range cnt).foldl (fun v j =>
    modifyAt v (k + j) (fun r => r.write C.w full sh (vals j))) C.regs.v
  { C with regs := { C.regs with v := v } }

/-- Writing a latch in the lanes of a result (03/R72). -/
def Blk.writeLatch (b : Blk) (k w : Nat) (vals : List (Nat × Word)) : Blk :=
  if vals.isEmpty then b
  else
    { b with latch := vmod b.latch k (fun old =>
        (List.range w).map (fun l =>
          match vals.find? (·.1 == l) with
          | some p => p.2
          | none => (old[l]?).getD 0)) }

/-- Whether the effective mask holds all W lanes and no lane is away (03/R67). -/
def LCtx.full (C : LCtx) : Bool := C.eff == Mask.full C.w && !C.visiting

/-- Writing a destination from the lanes that completed. -/
def LCtx.writeDst (C : LCtx) (d : Dst) (cnt : Nat) (full : Bool) (sh : Shape)
    (outs : List (Nat × LOut)) : LCtx :=
  let first := outs.map (fun o => (o.1, (o.2.xs[0]?).getD 0))
  let C := match dstReg d with
    | some (.v n) => C.writeV n.toNat cnt full sh outs
    | some (.e n) => C.writeV (C.cellOf n.toNat) ((outs.headD (0, {})).2.xs.length) full .g outs
    | some .prc => { C with regs := { C.regs with prc := C.regs.prc.write C.w full sh first } }
    | _ => C
  match dstLatch d with
  | some k => { C with blk := C.blk.writeLatch k C.w first }
  | none => C

/-- Writing a mask register: the bits of the effective mask, every other bit cleared (08/R223). In a
visitor, writes touch only the carried lanes' bits (14/R368). -/
def LCtx.writeMask (C : LCtx) (d : Dst) (m : Mask) : LCtx :=
  match dstReg d with
  | some (.m k) =>
    let keep : Mask := if C.visiting then C.regs.m[k.toNat] &&& C.away else 0
    { C with regs := { C.regs with m := C.regs.m.set k.toNat ((m &&& C.eff) ||| keep) } }
  | _ => C

end Sys2Proof.Machine
end

