-- ==== Sys2Proof/Machine/Special.lean ====
section
/-!
DEFINITION. `rdx` and `wrx`: the specials (03/R59 to R63, 07/R157, R158).
-/

namespace Sys2Proof.Machine

/-- The value of a special as a doubleword; a 32-bit special has its high half zero (03/R59). The FMT that
is read is that of the running block, or else the one that the next block starts with. -/
def State.special (s : State) (t n : Nat) : DWord :=
  let T := s.team t
  let w (x : Word) : DWord := x.setWidth 64
  let num (k : Nat) : DWord := BitVec.ofNat 64 k
  match n with
  | 0x00 => num T.tid
  | 0x01 => num (s.gangOf t).num
  | 0x02 => num T.rank
  | 0x03 => num (s.logicalCore (s.partOf t) T.core)
  | 0x04 => num (s.logicalDie (s.partOf t) (dieOfCore T.core))
  | 0x05 => num T.w
  | 0x06 => s.time
  | 0x07 => w T.nfc
  | 0x08 => T.fpstat.setWidth 64
  | 0x09 => T.mstat.setWidth 64
  | 0x0A => w T.tcause
  | 0x0B => T.tlpc.setWidth 64
  | 0x0C => T.tspc
  | 0x0D => T.taddr
  | 0x0E => T.tlog.setWidth 64
  | 0x0F => w T.tseq
  | 0x10 => w T.fmtNow
  | 0x11 => T.rkey
  | 0x12 => w T.mcr
  | 0x13 => T.handler
  | 0x14 => w T.migctl
  | _ => 0

def specialWide (n : Nat) : Bool := match specialInfo n with | some (64, _) => true | _ => false

/-- `rdx` (07/R157): a number that R59 does not list, or a 64-bit special into an odd register, is refused
by the decoder, and the meaning repeats that ILLEGAL. -/
def execRdx (d : BitVec 6) (n : BitVec 8) (s : State) : Host.Outcome State Fault Refusal :=
  let wide := specialWide n.toNat
  s.runS (if wide then both d else [d]) (fun t T =>
    if !legalS (.rdx d n) then .trap s .illegal T.spc
    else
      let x := s.special t n.toNat
      .done (s.setTeam t (if wide then T.wrp d x else T.wr d (x.extractLsb' 0 32))))

/-- Whether every block that a team waits for has ended: those in the lane queue, which while the team is
TRAPPED are the handler's (02/R35, 07/R168). -/
def Team.laneIdle (T : Team) : Bool := T.laneQ.isEmpty && T.blk.isNone

/-- The accesses of the blocks that the S-stream has waited for count as earlier ones of its own from then
on (10/R274). -/
def State.joinLanes (s : State) (t : Nat) : State :=
  s.modTeam t (fun T => { T with lMark := s.nextId })

/-- `wrx` (07/R158) with the checks of R60. TADDR of a fault is the instruction's address, as R115 says
where the rule states none. -/
def execWrx (a : BitVec 6) (n : BitVec 8) (s : State) : Host.Outcome State Fault Refusal :=
  s.runS (if specialWide n.toNat then both a else [a]) (fun t T =>
    let x := T.rd a
    let p := T.rdp a
    let put (U : Team) : Eff := .done (s.setTeam t U)
    if !legalS (.wrx a n) then .trap s .illegal T.spc
    else
      match n.toNat with
      | 0x07 => put { T with nfc := 0 }
      | 0x08 => put { T with fpstat := T.fpstat &&& ~~~(x.setWidth 5) }
      | 0x09 => put { T with mstat := T.mstat &&& ~~~(x.setWidth 3) }
      | 0x10 =>
        if !fmtOk x then .trap s .reservedField T.spc
        else if !T.laneIdle then .wait s
        else .done ((s.setTeam t { T with fmt := x }).joinLanes t)
      | 0x11 => put { T with rkey := p }
      | 0x12 => if !mcrOk x then .trap s .reservedField T.spc else put { T with mcr := x }
      | 0x13 => if p.toNat % 4 != 0 then .trap s .align p else put { T with handler := p }
      | 0x14 => if !migctlOk x then .trap s .reservedField T.spc else put { T with migctl := x }
      | _ => .trap s .illegal T.spc)

end Sys2Proof.Machine
end

