-- ==== Sys2Proof/Machine/Upset.lean ====
section
/-!
DEFINITION. Uncorrectable errors of the register files (15/R399, R401): which registers an instruction reads, the fault that a
bad one raises, and the writes that clear it. A unit of the scalar file (UNIT 4) is a register of a team; a unit of the vector
file (UNIT 3) is a register at a lane, number 1024 * register + lane, of a team or of a visitor.
-/

namespace Sys2Proof.Machine

/-! ### The scalar file -/

/-- The `s` registers that an S instruction reads. -/
def sReads (i : Instr) : List (BitVec 6) :=
  match i with
  | .add _ a b | .sub _ a b | .mul _ a b | .mulh _ a b | .mulhu _ a b | .div _ a b | .divu _ a b | .rem _ a b
  | .remu _ a b | .and _ a b | .or _ a b | .xor _ a b | .andn _ a b | .shl _ a b | .shr _ a b | .sra _ a b | .rot _ a b
  | .min _ a b | .minu _ a b | .max _ a b | .maxu _ a b | .seq _ a b | .sne _ a b | .slt _ a b | .sltu _ a b
  | .sle _ a b | .sleu _ a b => [a, b]
  | .clz _ a | .popc _ a => [a]
  | .addi _ a _ | .andi _ a _ | .ori _ a _ | .xori _ a _ | .slti _ a _ => [a]
  | .shli _ a _ | .shri _ a _ | .srai _ a _ | .roti _ a _ => [a]
  | .dadd _ a b | .dsub _ a b => both a ++ both b
  | .dshl _ a b | .dshr _ a b | .dsra _ a b => both a ++ [b]
  | .daddi _ a _ => both a
  | .wrx a n => if specialWide n.toNat then both a else [a]
  | .ld _ q _ _ | .lds _ q _ _ => both (pairReg q)
  | .st d q sz _ | .sts d q sz _ => (if sz = 3 then both d else [d]) ++ both (pairReg q)
  | .atom d a b _ _ op | .atoms d a b _ _ op =>
    both a ++ (if 12 ≤ op.toNat then both b else [b]) ++
      (if op = 9 then [d] else if op = 14 then both d else [])
  | .bCond a _ _ => [a]
  | .jr a => both a
  | .ret a => [a]
  | .lrun _ => (List.range 16).map (fun k => BitVec.ofNat 6 (16 + k))
  | .pour a | .binval a | .tinval a | .ctxsave a | .ctxload a => both a
  | .kpour a _ _ => both a
  | .withdraw a | .tresumeAt a | .mcrew a => [a]
  | .binit a b c => both a ++ [b, c]
  | .barrive a b | .bexpect a b => both a ++ [b]
  | .bwait a b _ => both a ++ [b]
  | .bput a b _ => both a ++ [b]
  | .mma a b c _ _ _ _ => both a ++ both b ++ [c]
  | .accld a c _ | .accst a c _ => both a ++ [c]
  | .mxreq a b _ => both a ++ both b
  | .steepWait a _ => [a]
  | .steepGrad d a _ => d :: both a
  | .sysw a r => if privWide r then both a else [a]
  | .svc _ => [4, 5, 6, 7]
  | _ => []

/-- The `s` registers that an S instruction writes when it completes, or with the value that it then awaits. -/
def sWrites (i : Instr) : List (BitVec 6) :=
  match i with
  | .add d _ _ | .sub d _ _ | .mul d _ _ | .mulh d _ _ | .mulhu d _ _ | .div d _ _ | .divu d _ _ | .rem d _ _
  | .remu d _ _ | .and d _ _ | .or d _ _ | .xor d _ _ | .andn d _ _ | .shl d _ _ | .shr d _ _ | .sra d _ _ | .rot d _ _
  | .min d _ _ | .minu d _ _ | .max d _ _ | .maxu d _ _ | .seq d _ _ | .sne d _ _ | .slt d _ _ | .sltu d _ _
  | .sle d _ _ | .sleu d _ _ => [d]
  | .clz d _ | .popc d _ => [d]
  | .addi d _ _ | .andi d _ _ | .ori d _ _ | .xori d _ _ | .slti d _ _ => [d]
  | .shli d _ _ | .shri d _ _ | .srai d _ _ | .roti d _ _ => [d]
  | .lui d _ => [d]
  | .dadd d _ _ | .dsub d _ _ | .dshl d _ _ | .dshr d _ _ | .dsra d _ _ => both d
  | .daddi d _ _ => both d
  | .rdx d n => if specialWide n.toNat then both d else [d]
  | .ld d _ sz _ | .lds d _ sz _ => if sz = 3 then both d else [d]
  | .atom d _ _ _ _ op | .atoms d _ _ _ _ op => if 12 ≤ op.toNat then both d else [d]
  | .call _ => [63]
  | .lget d _ | .cinfo d _ _ | .fqpop d => both d
  | .tprobe d _ | .mstat d => [d]
  | .bwait _ _ c => [c]
  | .sysr d r => if privWide r then both d else [d]
  | .svc _ => both 4
  | _ => []

/-- The number of a team's file, and of a visitor's. -/
def teamFile (t : Nat) : Nat := 2 * t
def visitorFile (v : Nat) : Nat := 2 * v + 1

/-- Whether a team's instruction reads an `s` register with an uncorrectable error; `s0` is no storage. -/
def State.sBroken (s : State) (t : Nat) (i : Instr) : Bool :=
  (sReads i).any (fun r => r != 0 && s.isBad 4 (teamFile t) r.toNat 1)

/-- The trap of such a read, with TADDR 0 and its error record (15/R399). -/
def State.sBreaks (s : State) (t : Nat) : Eff :=
  .trap (s.metBad (s.partOf t) 4 (dieOfCore (s.team t).core) 0 0 (some t)) .deviceError 0

/-- Writes of registers clear their errors. -/
def State.healS (s : State) (t : Nat) (rs : List (BitVec 6)) : State :=
  if s.bad.isEmpty then s else rs.foldl (fun s r => s.healed 4 (teamFile t) r.toNat 1) s

/-! ### The vector file -/

/-- The file that a stream's registers lie in. -/
def LCtx.file (C : LCtx) : Nat :=
  match C.who with
  | .l t => teamFile t
  | .v v => visitorFile v
  | _ => 0

/-- The numbers that `prc` and a mask register have in a file, behind the `v` registers. -/
def prcFile : Nat := 128
def maskFile (k : Nat) : Nat := 129 + k

/-- The registers of a file that a touch names: those of an `e` register are its cells (03/R77). -/
def LCtx.filed (C : LCtx) (u : Touch) : List Nat :=
  u.v ++ u.e.flatMap (fun k => (List.range ((capOf C.wcodes k + 1) / 2)).map (· + C.cellOf k)) ++
    (if u.prc then [prcFile] else []) ++ u.m.map maskFile

/-- Whether an instruction reads the lane's PRC though it does not name it: a result of type ef is rounded, narrowed and
checked by it (03/R71, 09/R253, R255), and its significance floor is what `vcls` tests (09/R240). -/
def readsPrc (i : Instr) : Bool :=
  let (_, f) := lCode i
  match i with
  | .eprec _ => true
  | .vcls _ => f.ty == .ef
  | _ => (match dstReg f.d with | some (.e _) => true | _ => false)

/-- What the sources of an instruction touch, its mask select, its PRC and the groups of the soft instructions among them. -/
def readTouch (i : Instr) (softD : Nat) : Touch :=
  let (_, f) := lCode i
  let regs (x : Src) (n : Nat) : Touch := match x with | .reg r => touchReg n r | _ => {}
  let k := f.sub.toNat % 8 + 1
  ((srcTouch i).join { m := if f.ms = 0 then [] else [f.ms.toNat], prc := readsPrc i }).join
    (match i with
     | .softLd _ => regs f.a (2 * k)
     | .softSt _ | .softLdg _ => (regs f.a (2 * k)).join (regs f.b softD)
     | .softHarden _ => regs f.a (2 * k)
     | _ => {})

/-- The active lanes of an instruction that read a register with an uncorrectable error. -/
def State.lBroken (s : State) (C : LCtx) (i : Instr) (softD : Nat) : Mask :=
  if !s.bad.any (fun b => b.unit == 3 && b.inst == C.file) then 0
  else
    let rs := C.filed (readTouch i softD)
    Mask.ofLanes (C.lanes.filter (fun l => rs.any (fun r => s.isBad 3 C.file (1024 * r + l) 1)))

/-- Active lanes whose bit of the mask register that an instruction selects by has an uncorrectable error: they read it,
whatever it holds. -/
def State.selBroken (s : State) (C : LCtx) (ms : BitVec 3) : Mask :=
  if ms = 0 || !s.bad.any (fun b => b.unit == 3 && b.inst == C.file) then 0
  else Mask.ofLanes ((List.range C.w).filter (fun l => s.isBad 3 C.file (1024 * maskFile ms.toNat + l) 1))

/-- Writes of a register's lanes clear their errors; a write of all of them clears a unit that spans lanes. -/
def State.healRegs (s : State) (file : Nat) (rs lanes : List Nat) (full : Bool) : State :=
  if !s.bad.any (fun b => b.unit == 3 && b.inst == file) then s
  else
    rs.foldl (fun s r =>
      if full then s.healed 3 file (1024 * r) 1024
      else lanes.foldl (fun s l => s.healed 3 file (1024 * r + l) 1) s) s

/-- What an instruction has written of its destination in some lanes is whole again. At home a mask register is written in
every lane. -/
def State.healL (s : State) (C : LCtx) (i : Instr) (m : Mask) : State :=
  let d := dstTouch i
  s.healRegs C.file (C.filed d) (Mask.lanes m C.w) (m == Mask.full C.w || (!d.m.isEmpty && !C.visiting && m != 0))

end Sys2Proof.Machine
end

