-- ==== Sys2Proof/Machine/Lane.lean ====
section
/-!
DEFINITION. The operations that the L instructions share: the effective mask (02/R29), chains and latches
(03/R72 to R75), lane traps at home (03/R54) and in a visitor (14/R377), the limits that pending memory
instructions set (03/R80), and how an L instruction ends.
-/

namespace Sys2Proof.Machine

/-! ### How an L instruction ends -/

/-- The faults of lanes, with the cause and address of each. -/
abbrev Bads := List (Nat × Cause × DWord)

/-- What an L instruction comes to. -/
inductive LEff where
  /-- it completes, with its results in the context; control goes to the next instruction -/
  | done (s : State) (C : LCtx)
  /-- it completes and control goes to an index -/
  | jump (s : State) (C : LCtx) (i : BitVec 26)
  /-- it is blocked in a wait of 02/R52 -/
  | wait (s : State)
  /-- it is held for a while that is no block (02/R52) -/
  | stall (s : State)
  /-- some lanes fault; the others have completed -/
  | trap (s : State) (C : LCtx) (bad : Bads)
  /-- a fault of the instruction as a whole -/
  | fault (s : State) (C : LCtx) (c : Cause) (a : DWord)
  /-- the rule of the instruction has said all of it -/
  | over (s : State)

/-- The lowest cause among faults, and the address of the lowest lane that has it (03/R54). -/
def lowestBad (bad : Bads) : Cause × DWord :=
  let before (x y : Nat × Cause × DWord) : Bool :=
    decide (causeCode x.2.1 < causeCode y.2.1) || (causeCode x.2.1 == causeCode y.2.1 && decide (x.1 < y.1))
  match bad with
  | [] => (.illegal, 0)
  | b :: r => (r.foldl (fun x y => if before y x then y else x) b).2

/-- The chain's head when the instruction is a member other than the head, else its own index
(03/R75). -/
def Blk.restartAt (b : Blk) : BitVec 26 := if 1 < b.chainCount then b.chainHead else b.lpc

/-- The rest of a block's re-execution once an index has been executed. -/
def Blk.pass (b : Blk) : Blk :=
  { b with redo := (match b.redo with
                    | r :: l => if r.2 == b.lpc then l else r :: l
                    | [] => []) }

/-- The die on which a team lives. -/
def State.homeDie (s : State) (t : Nat) : Nat := dieOfCore (s.team t).core

/-- A visitor returns home (14/R371, R377): the whole visitor goes, and its accesses are the release of
R273. -/
def State.returnHome (s : State) (v : Nat) (kind : Nat) (lpc tidx : BitVec 26) (redo : Mask)
    (cause : Option Cause) (a : DWord) : State :=
  match s.visitors[v]? with
  | none => s
  | some V =>
    let c := { V.cont with
      kind := kind, tidx := tidx, redo := redo, cause := cause, taddr := a, src := dieOfCore V.core, held := none,
      dst := s.homeDie V.cont.team, waits := (s.vEarlier v).map (·.id), reserved := false,
      blk := { V.cont.blk.cut with lpc := lpc } }
    (s.modVisitor v (fun V => { V with alive := false, fly := none })).sendCont c

/-- An L trap of lanes of the current instruction (03/R54, 14/R377). -/
def State.lTrap (s : State) (C : LCtx) (bad : Bads) (lanes : Mask) : State :=
  let (c, a) := lowestBad bad
  let i := C.blk.lpc
  match C.who with
  | .l t =>
    s.raiseL t { cause := c, taddr := a, tlpc := i, lanes := lanes, slot := none,
                 redoFrom := some C.blk.restartAt, sseq := C.blk.redoSseq, visitor := none }
  | .v v => s.returnHome v 4 C.blk.restartAt i lanes (some c) a
  | _ => s

/-- Whether the L-stream that is current is blocked (02/R52). -/
def State.setLBlocked (s : State) (x : Bool) : State :=
  match s.cur with
  | .l t => s.modTeam t (fun T => { T with lblocked := x })
  | _ => s

/-- An L instruction ends: its passes count against the issue budget (17/R445). -/
def State.finishL (s0 : State) (e : LEff) : State :=
  let pay (C : LCtx) (s : State) : State := s.charge C.part 0 (Mask.passes C.eff)
  match e with
  | .done s C =>
    pay C (s.putL { C with blk := { C.blk.pass with lpc := C.blk.lpc + 1, redoSseq := none } })
  | .jump s C i => pay C (s.putL { C with blk := { C.blk.pass with lpc := i, redoSseq := none } })
  | .wait _ => s0.setLBlocked true
  | .stall _ => s0.setLBlocked false
  | .trap s C bad =>
    pay C ((s.putL C).lTrap C bad (Mask.ofLanes (bad.map (·.1))))
  | .fault s C c a =>
    pay C ((s.putL C).lTrap C ((0, c, a) :: []) C.eff)
  | .over s => s

/-! ### Register reads that meet an uncorrectable error (15/R399) -/

/-- The end of an instruction some of whose lanes have met an error in a register: those fault, the others have done what the
end says. What is pending for the others goes on. -/
def LEff.broken (e : LEff) (C : LCtx) (m : Mask) : LEff :=
  let bads : Bads := (Mask.lanes m C.w).map (fun l => (l, Cause.deviceError, (0 : DWord)))
  let met (s : State) : State := s.metBad C.part 3 C.die 0 0 (some C.t)
  match e with
  | .done s D => .trap (met s) { D with eff := C.eff } bads
  | .trap s D b => .trap (met s) { D with eff := C.eff } (b ++ bads)
  | e => e

/-- Whether an instruction's results come with later returns. -/
def isPending (i : Instr) : Bool :=
  match i with
  | .vld _ | .vlds _ | .eld _ | .eldn _ | .softLd _ | .softLdg _ | .vatom _ | .vatoms _ => true
  | _ => false

/-- The lanes in which an instruction that ends so has written its destination. -/
def LEff.wrote (e : LEff) : Mask :=
  match e with
  | .done _ C => C.eff
  | .trap _ C bad => Mask.minus C.eff (Mask.ofLanes (bad.map (·.1)))
  | _ => 0

/-- The meaning of an instruction for its lanes that read sound registers; the others fault. A visitor whose other lanes have
completed it faults then. -/
def State.runSound (s : State) (C : LCtx) (i : Instr) (softD : Nat) (f : State → LCtx → LEff) : LEff :=
  let m := s.lBroken C i softD
  if m == (0 : Mask) then f s C
  else
    let rest := Mask.minus C.eff m
    if C.visiting && Mask.minus rest C.blk.part == (0 : Mask) then (LEff.done s C).broken C m
    else (f s { C with eff := rest, skip := m }).broken C m

/-! ### The issue of an L instruction -/

/-- The effective mask of an instruction (02/R29): the active mask, the mask that it selects, and while
the block re-executes, the lanes that do. -/
def LCtx.effOf (C : LCtx) (ms : BitVec 3) : Mask :=
  let m := if ms = 0 then C.eff else C.eff &&& C.regs.m[ms.toNat]
  C.blk.redo.foldl (fun m r => m &&& r.1) m

/-- The chain's count and head with an instruction that is issued (03/R73): `none` for the fault CHAIN.
A head clears the latches, which then read as zero. An instruction that a visitor continues for the lanes that
have not completed it has been counted (14/R370). -/
def Blk.chain (b : Blk) (i : Instr) : Option Blk :=
  let clear : Vector (List Word) 4 := Vector.replicate 4 []
  if b.part != 0 then some b
  else if isLaneControl i then some { b with chainCount := 0, restart := false }
  else if (latchReads i).isEmpty then
    some { b with chainCount := 1, chainHead := b.lpc, latch := clear, restart := false }
  else if b.chainCount = 0 || b.chainCount = 8 then none
  else some { b with chainCount := b.chainCount + 1 }

/-- Whether an instruction depends on a pending one: it reads or writes a register or the latch that the
slot is to write (03/R80). -/
def Slot.blocks (k : Slot) (u : Touch) (softD : Nat) : Bool :=
  let d := (dstTouch k.i).join (match k.i with
    | .softLd f => (match f.d with | .r r => touchReg softD r | _ => {})
    | .softLdg f => (match f.d with | .r r => touchReg (f.sub.toNat % 8 + 1) r | _ => {})
    | .eldn f => (match f.a with | .reg r => touchReg 2 r | _ => {})
    | _ => {})
  d.v.any u.v.contains || d.e.any u.e.contains || (d.prc && u.prc) ||
    (k.latch && d.latch.any u.latch.contains)

/-- Loads (03/R80): a later load may issue past a pending load. -/
def isLoadInstr (i : Instr) : Bool :=
  match i with
  | .vld _ | .vlds _ | .eld _ | .eldn _ | .softLd _ | .softLdg _ => true
  | _ => false

/-- Memory instructions, and those that order or control, which wait for the slots (03/R80, 08/R210,
R222). -/
def waitsForSlots (i : Instr) : Bool :=
  match i with
  | .vst _ | .vatom _ | .vsts _ | .vatoms _ | .vmcast _ | .vprf _ | .est _ | .softSt _ | .vfence _
  | .vsync _ => true
  | i => isLaneControl i

/-- Whether the instruction of a slot is an acquire, which holds every later access (08/R207). -/
def Slot.acquires (k : Slot) : Bool :=
  match k.i with
  | .vld f | .vatom f | .vlds f | .vatoms f => f.md.getLsbD 2
  | _ => false

/-- Whether a slot waits for its replay with nothing left to wait for. -/
def Slot.due (k : Slot) : Bool := k.traps.isEmpty && k.hold.isNone && k.faulted == 0 && k.flying == 0

/-- The slots that the block of a team holds. -/
def Team.blockSlots (T : Team) : List Slot :=
  match T.blk with
  | some b => (T.oplog.toList.filterMap id).filter (fun k => k.block == b.lq.sMark)
  | none => []

/-- Whether the operand logs hold an instruction back (03/R80): what a slot of the block is to write, a memory
instruction that is no load, and the re-execution that a resumed trap leaves. `ewin` waits for every slot (09/R252). -/
def Team.slotsHold (T : Team) (i : Instr) (u : Touch) (softD : Nat) : Bool :=
  let taken := T.blockSlots
  let isWin := match i with | .ewin _ => true | _ => false
  taken.any (fun k => !k.traps.isEmpty || k.due || k.blocks u softD) ||
    (waitsForSlots i && !taken.isEmpty) || (isWin && T.oplog.toList.any (·.isSome)) ||
    (isLoadInstr i && taken.any (fun k => !isLoadInstr k.i || k.acquires))

/-- The slot width D of the caddy that a soft instruction names (13/R337). -/
def State.softD (s : State) (t : Nat) (i : Instr) : Nat :=
  let k : Option Nat := match i with
    | .softLd f | .softSt f | .softLdg f | .softHarden f => some (f.imm.toNat % 64)
    | _ => none
  match k, (s.launchOf t).caddySet with
  | some k, some set =>
    match s.caddySets[set]? with
    | some S => match S.caddies[k]? with | some c => c.d | none => 0
    | none => 0
  | _, _ => 0

/-- Executing an L instruction: the chain, the effective mask and the checks on registers come first; an
instruction that acts per lane has no effect, and no fault of its registers, under an empty mask
(02/R30). Of several causes that no one rule orders, CHAIN comes first, then those of the instruction and its registers, then
those of the lanes (log entry 114). `pre` is what an instruction checks before its registers, and `adj` what every execution of it takes,
faulting ones included; an instruction that waits takes nothing. -/
def State.runLAdj (s : State) (i : Instr) (ms : BitVec 3) (team : Bool) (adj : State → LCtx → State × LCtx)
    (pre : LCtx → Option (Cause × DWord)) (f : State → LCtx → LEff) : Host.Outcome State Fault Refusal :=
  match s.lctx with
  | none => .fault .noStream
  | some C =>
    let lat := !(latchReads i).isEmpty
    if C.blk.restart && lat && C.blk.chainCount != 0 then
      -- the chain's members run again from its head (03/R75)
      .next (s.putL { C with blk := { C.blk with lpc := C.blk.chainHead, restart := false } })
    else
      let u := touch i (s.softD C.t i)
      if !C.visiting && (s.team C.t).slotsHold i u (s.softD C.t i) then .next (s.setLBlocked true)
      else
        match C.blk.chain i with
        | none => .next (s.finishL (.fault s { C with eff := C.effOf ms } .chain 0))
        | some b =>
          let (z, C) := adj s { C with blk := b, eff := C.effOf ms ||| (C.effOf 0 &&& s.selBroken C ms) }
          if C.eff = 0 && !team then .next (s.finishL (.done s C))
          else
            match pre C with
            | some (c, a) => .next (s.finishL (.fault z C c a))
            | none =>
              match C.regCheck u with
              | some .illegal => .next (s.finishL (.fault z C .illegal (s.lAddr C)))
              | some c => .next (s.finishL (.fault z C c 0))
              | none =>
                let e := z.runSound C i (s.softD C.t i) f
                .next ((s.finishL e).healL C i (if isPending i then 0 else e.wrote))

/-- The same for an instruction of which an execution takes nothing. -/
def State.runLPre (s : State) (i : Instr) (ms : BitVec 3) (team : Bool) (pre : LCtx → Option (Cause × DWord))
    (f : LCtx → LEff) : Host.Outcome State Fault Refusal :=
  s.runLAdj i ms team (fun s C => (s, C)) pre (fun _ => f)

/-- The same without checks of its own before those on registers. -/
def State.runL (s : State) (i : Instr) (ms : BitVec 3) (team : Bool) (f : LCtx → LEff) :
    Host.Outcome State Fault Refusal :=
  s.runLPre i ms team (fun _ => none) f

/-! ### Per-lane computation -/

/-- The end of an instruction that computes a result for each lane of its effective mask: each lane that
faults writes nothing; a PRC value that is not well formed faults RESERVED_FIELD in its lane (03/R71). -/
def LCtx.finishLanes (C : LCtx) (s : State) (d : Dst) (cnt : Nat) (sh : Shape)
    (outs : List (Nat × LOut)) : LEff :=
  let toPrc := dstReg d == some .prc
  let outs := outs.map (fun o =>
    if toPrc && o.2.bad.isNone && !prcOk ((o.2.xs[0]?).getD 0) then
      (o.1, { o.2 with bad := some (Cause.reservedField, s.lAddr C) })
    else o)
  let good := outs.filter (fun o => o.2.bad.isNone)
  let bad : Bads := outs.filterMap (fun o => o.2.bad.map (fun b => (o.1, b.1, b.2)))
  let C := C.writeDst d cnt (C.full && bad.isEmpty) sh good
  let C := { C with flags := good.foldl (fun fl o => fl ||| o.2.fl) C.flags,
                    nfcAdd := C.nfcAdd + (good.map (fun o => o.2.nf)).sum }
  if bad.isEmpty then .done s C else .trap s C bad

/-- An instruction that computes each lane's result from its sources. -/
def State.runLanes (s : State) (i : Instr) (f : LF) (cnt : Nat) (sh : LCtx → Shape)
    (g : LCtx → Nat → LOut) : Host.Outcome State Fault Refusal :=
  s.runL i f.ms false (fun C => C.finishLanes s f.d cnt (sh C) (C.lanes.map (fun l => (l, g C l))))

/-- An instruction that writes a mask from each lane's test. -/
def State.runMask (s : State) (i : Instr) (f : LF) (g : LCtx → Nat → Bool × BitVec 5) :
    Host.Outcome State Fault Refusal :=
  s.runL i f.ms false (fun C =>
    let rs := C.lanes.map (fun l => (l, g C l))
    let m := Mask.ofLanes ((rs.filter (fun r => r.2.1)).map (·.1))
    let C := C.writeMask f.d m
    .done s { C with flags := rs.foldl (fun fl r => fl ||| r.2.2) C.flags })

end Sys2Proof.Machine
end

