-- ==== Sys2Proof/Machine/Elastic.lean ====
section
/-!
DEFINITION. The elastic format (04/R97 to R106) and the values of elastic registers (03/R77): reading,
rounding, significance, and what a lane writes.
-/

namespace Sys2Proof.Machine

/-! ### Encodings (04/R97 to R99) -/

/-- Significand bits of a length in halfwords. -/
def ePrec (c : Nat) : Nat := 16 * c - 27

/-- The length that word 0 states. -/
def eLen (hs : List Nat) : Nat := bitsOf ((hs[1]?).getD 0) 15 12 + 2

/-- An elastic value: its length, its exact value and its significance. -/
structure EV where
  c : Nat
  v : FV
  sig : Nat
  deriving DecidableEq, Repr, Inhabited

/-- Reading an encoding given as halfwords (R98, R99). -/
def EV.read (hs : List Nat) : EV :=
  let c := eLen hs
  let w0 := (hs[1]?).getD 0 * 65536 + (hs[0]?).getD 0
  let frac := (List.range (c - 2)).foldl (fun a k => a * 65536 + (hs[k + 2]?).getD 0) (bitsOf w0 3 0)
  let fb := 16 * c - 28
  let s := bitsOf w0 27 27 == 1
  let e := bitsOf w0 26 12
  if e = 0 then { c := c, v := .fin s 0 0, sig := 0 }
  else if e = 0x7FFF then
    { c := c, v := if frac = 0 then .inf s else .nan (bitsOf w0 3 3 == 0), sig := 0 }
  else { c := c, v := .fin s (2 ^ fb + frac) ((e : Int) - 16383 - fb), sig := bitsOf w0 11 4 }

/-- The halfwords of a fraction of a length, after word 0. -/
def eTail (c frac : Nat) : List Nat :=
  (List.range (c - 2)).map (fun k => frac / 65536 ^ (c - 3 - k) % 65536)

/-- An encoding of sign, exponent field, significance and fraction. -/
def eCode (c : Nat) (neg : Bool) (e sig frac : Nat) : List Nat :=
  let w0 := (c - 2) * 2 ^ 28 + (if neg then 2 ^ 27 else 0) + e * 2 ^ 12 + sig * 16 + frac / 65536 ^ (c - 2) % 16
  [w0 % 65536, w0 / 65536] ++ eTail c frac

/-- The encoding of a value rounded to its length; a NaN is canonical (R86). -/
def EV.write (x : EV) : List Nat :=
  let fb := 16 * x.c - 28
  match x.v with
  | .nan _ => eCode x.c false 0x7FFF 0 (2 ^ (fb - 1))
  | .inf n => eCode x.c n 0x7FFF 0 0
  | .fin n m e =>
    if m = 0 then eCode x.c n 0 0 0
    else
      let m' := if bitLen m ≤ fb + 1 then m * 2 ^ (fb + 1 - bitLen m) else m / 2 ^ (bitLen m - fb - 1)
      eCode x.c n (expOf m e + 16383).toNat x.sig (m' - 2 ^ fb)

/-! ### Rounding (04/R90, R100) -/

/-- RoundElastic(x, 16c - 27, mode). -/
def roundElastic (mode c : Nat) (v : FV) : FV × Flags :=
  match v with
  | .fin neg m e =>
    if m = 0 then (.fin neg 0 0, 0)
    else
      let p := ePrec c
      let q := expOf m e - p + 1
      let (n, ix) := roundAt mode neg m e q
      let E := expOf n q
      if 16383 < E then
        (if toInf mode neg then .inf neg else .fin neg (2 ^ p - 1) (16383 - p + 1), flOF ||| flNX)
      else if E < -16382 then (.fin neg 0 0, flUF ||| flNX)
      else (.fin neg n q, flagIf ix flNX)
  | .nan _ => (.nan false, 0)
  | v => (v, 0)

/-! ### Significance (04/R102 to R106, 09/R254) -/

def clampSig (x : Int) (p : Nat) : Nat := min x.toNat p

/-- lsb of an operand that is finite and not zero. -/
def EV.lsbTerm (x : EV) : Option Int := if x.v.isNum then some (x.v.exp - x.sig + 1) else none

/-- σ of a sum with these lsb terms and this exponent (R103). -/
def addSig (pw : Nat) (terms : List (Option Int)) (er : Int) : Int :=
  let l := (terms.filterMap id).foldl max (er - pw + 1)
  er - l + 1

/-- An elastic result: the value at its length, its flags, and whether R106 checks it. -/
structure EOut where
  x : EV
  fl : Flags
  checked : Bool
  deriving DecidableEq, Repr

/-- An arithmetic result (09/R253): the exact value rounded to `cw`, with the significance that a rule gives for
the exponent of the rounded result. -/
def eFinish (mode cw : Nat) (x : FV × Flags) (sigma : Int → Int) (cancel : Bool) : EOut :=
  let (r, f) := roundElastic mode cw x.1
  { x := { c := cw, v := r, sig := if r.isNum then clampSig (sigma r.exp) (ePrec cw) else 0 },
    fl := x.2 ||| f, checked := r.isNum || (cancel && x.1.isZero) }

def eAdd (mode cw : Nat) (x y : EV) : EOut :=
  eFinish mode cw (addFV mode x.v y.v) (addSig (ePrec cw) [x.lsbTerm, y.lsbTerm]) (x.v.isNum && y.v.isNum)

def eMul (mode cw : Nat) (x y : EV) : EOut :=
  eFinish mode cw (mulFV x.v y.v) (fun _ => min x.sig y.sig) false

def eDiv (mode cw : Nat) (x y : EV) : EOut :=
  eFinish mode cw (divFV (ePrec cw + 3) x.v y.v) (fun _ => min x.sig y.sig) false

/-- R105. -/
def eFma (mode cw : Nat) (a b c : EV) : EOut :=
  let pw := ePrec cw
  let p := (mulFV a.v b.v).1
  let m : EV := { c := cw, v := p, sig := min (min a.sig b.sig) pw }
  eFinish mode cw (fmaFV mode a.v b.v c.v) (addSig pw [m.lsbTerm, c.lsbTerm]) (p.isNum && c.v.isNum)

/-- `eround` and the partial result of `vred.add` that no addition made (09/R257, R259). -/
def eRound (mode c : Nat) (x : EV) : EOut := eFinish mode c (x.v, 0) (fun _ => x.sig) false

/-! ### Registers of a lane -/

/-- A word's halfwords. -/
def halves (ws : List Word) : List Nat :=
  ws.flatMap (fun w => [w.toNat % 65536, w.toNat / 65536])

/-- Words of halfwords. -/
def wordsOf (n : Nat) (hs : List Nat) : List Word :=
  (List.range n).map (fun k =>
    BitVec.ofNat 32 ((hs[2 * k]?).getD 0 + 65536 * (hs[2 * k + 1]?).getD 0))

/-- Cells of an elastic register. -/
def LCtx.eCells (C : LCtx) (k : Nat) : Nat := (capOf C.wcodes k + 1) / 2

/-- The words that a register holds in a lane. -/
def LCtx.eWords (C : LCtx) (k lane : Nat) : List Word :=
  (List.range (C.eCells k)).map (fun j => ((C.regs.v[C.cellOf k + j]?).getD (.u 0)).at lane)

/-- The halfwords of an elastic source in a lane. -/
def LCtx.eRaw (C : LCtx) (x : Src) (lane : Nat) : List Nat :=
  match x with
  | .reg (.e k) => halves (C.eWords k.toNat lane)
  | _ => []

def LCtx.eVal (C : LCtx) (x : Src) (lane : Nat) : EV := EV.read (C.eRaw x lane)

/-- PRC of a lane: the working length, the mode, the floor and PXE (03/R71). -/
def LCtx.prc (C : LCtx) (lane : Nat) : Nat := (C.regs.prc.at lane).toNat
def prcLen (p : Nat) : Nat := bitsOf p 3 0 + 2
def prcFloor (p : Nat) : Nat := bitsOf p 11 4
def prcMode (p : Nat) : Nat := bitsOf p 14 12
def prcPxe (p : Nat) : Bool := bitsOf p 15 15 == 1

/-- Capacity of the elastic register that a destination names. -/
def LCtx.dstCap (C : LCtx) (d : Dst) : Nat :=
  match dstReg d with
  | some (.e k) => capOf C.wcodes k.toNat
  | _ => 0

/-- What a lane writes when an elastic register takes an encoding: the halfwords beyond it keep their bits. -/
def LCtx.eMerge (C : LCtx) (d : Dst) (lane : Nat) (hs : List Nat) : List Word :=
  match dstReg d with
  | some (.e k) =>
    let old := halves (C.eWords k.toNat lane)
    wordsOf (C.eCells k.toNat) (hs ++ old.drop hs.length)
  | _ => []

/-- A result that passes the checks of R253 at a length: CAPACITY, then PRECISION. -/
def LCtx.eStore (C : LCtx) (d : Dst) (lane len : Nat) (r : EOut) : LOut :=
  let p := C.prc lane
  if C.dstCap d < len then { bad := some (.capacity, 0) }
  else if prcPxe p && r.checked && r.x.sig < prcFloor p then { bad := some (.precision, 0) }
  else { xs := C.eMerge d lane r.x.write, fl := r.fl }

/-- An encoding narrowed to a capacity (04/R101): it keeps its bits when it fits. -/
def eNarrow (mode cap : Nat) (hs : List Nat) : List Nat × Flags :=
  let x := EV.read hs
  if x.c ≤ cap then (hs.take x.c, 0)
  else
    let (v, f) := roundElastic mode cap x.v
    (({ c := cap, v := v, sig := if v.isNum then min x.sig (ePrec cap) else 0 } : EV).write, f)

/-- A move of an encoding to a destination (09/R255). -/
def LCtx.eMove (C : LCtx) (d : Dst) (lane : Nat) (hs : List Nat) (fl : Flags) : LOut :=
  let (r, f) := eNarrow (prcMode (C.prc lane)) (C.dstCap d) hs
  { xs := C.eMerge d lane r, fl := fl ||| f }

/-- The canonical NaN of a length. -/
def eNan (c : Nat) : List Nat := ({ c := c, v := .nan false, sig := 0 } : EV).write

end Sys2Proof.Machine
end

