-- ==== Sys2Proof/Machine/Functions.lean ====
section
/-!
DEFINITION. 2^x and log2 x for rounding (09/R239): intervals in fixed-point arithmetic that are narrowed until
every value in them rounds alike. A result that is not exact is irrational, so it never lies on a
boundary between two roundings.
-/

namespace Sys2Proof.Machine

/-- ln 2 in units of 2^-P lies between this and this plus P + 1. -/
def ln2Lo (P : Nat) : Nat := ((List.range P).map (fun k => 2 ^ (P - (k + 1)) / (k + 1))).sum

/-- A lower and an upper bound of e^y for y in [lo, hi], all in units of 2^-P, by P terms of the series. -/
def expBounds (P lo hi : Nat) : Nat × Nat :=
  let l := (List.range P).foldl (fun (a : Nat × Nat) k =>
    let t := a.1 * lo / ((k + 1) * 2 ^ P)
    (t, a.2 + t)) (2 ^ P, 2 ^ P)
  let h := (List.range P).foldl (fun (a : Nat × Nat) k =>
    let t := a.1 * hi / ((k + 1) * 2 ^ P) + 1
    (t, a.2 + t)) (2 ^ P, 2 ^ P)
  (l.2, h.2 + 2)

/-- Bounds of 2^(num / 2^d), for 0 < num < 2^d. -/
def exp2Bounds (num d P : Nat) : Nat × Nat :=
  let fl := num * 2 ^ P / 2 ^ d
  let fh := if num * 2 ^ P % 2 ^ d = 0 then fl else fl + 1
  let l := ln2Lo P
  expBounds P (fl * l / 2 ^ P) (fh * (l + P + 1) / 2 ^ P + 1)

/-- Bounds of log2 (m / 2^(bits of m - 1)), for m no power of two: ln z = 2 artanh((z - 1) / (z + 1)). -/
def log2Bounds (m P : Nat) : Nat × Nat :=
  let one := 2 ^ (bitLen m - 1)
  let tl := (m - one) * 2 ^ P / (m + one)
  let th := tl + 1
  let sl := (List.range (P / 3 + 1)).foldl (fun (a : Nat × Nat) k =>
    (a.1 * (tl * tl / 2 ^ P) / 2 ^ P, a.2 + a.1 / (2 * k + 1))) (tl, 0)
  let t2 := th * th / 2 ^ P + 1
  let sh := (List.range (P / 3 + 1)).foldl (fun (a : Nat × Nat) k =>
    (a.1 * t2 / 2 ^ P + 1, a.2 + a.1 / (2 * k + 1) + 1)) (th, 0)
  let l := ln2Lo P
  (2 * sl.2 * 2 ^ P / (l + P + 1), 2 * (sh.2 + sh.1) * 2 ^ P / l + 1)

/-- Narrowing bounds until `bits` leading bits agree: an odd significand and its exponent, between the same
neighbours as the value. -/
def narrow (fuel P bits : Nat) (f : Nat → Nat × Nat) : Nat × Int :=
  match fuel with
  | 0 => (2 * (f P).1 + 1, -(P : Int) - 1)
  | n + 1 =>
    let (lo, hi) := f P
    let sh := bitLen lo - bits
    if bits < bitLen lo && lo / 2 ^ sh = hi / 2 ^ sh then
      (2 * (lo / 2 ^ sh) + 1, (sh : Int) - P - 1)
    else narrow n (2 * P) bits f

/-- 2^x for rounding to `bits` - 3 bits. -/
def exp2FV (bits : Nat) (x : FV) : FV × Flags :=
  match x with
  | .nan s => (.nan false, flagIf s flNV)
  | .inf n => if n then (.fin false 0 0, 0) else (.inf false, 0)
  | .fin n m e =>
    let k : Int := if 0 ≤ e then x.at 0 else (x.at e) / (2 ^ (-e).toNat : Int)
    let frac : Nat := if 0 ≤ e then 0 else ((x.at e) % (2 ^ (-e).toNat : Int)).toNat
    if frac = 0 || (m = 0 && n) then (.fin false 1 k, 0)
    else
      let (r, q) := narrow 10 (bits + 40) bits (fun P => exp2Bounds frac (-e).toNat P)
      (.fin false r (q + k), 0)

/-- log2 x for rounding to `bits` - 3 bits. -/
def log2FV (bits : Nat) (x : FV) : FV × Flags :=
  match x with
  | .nan s => (.nan false, flagIf s flNV)
  | .inf n => if n then (.nan false, flNV) else (.inf false, 0)
  | .fin n m e =>
    if m = 0 then (.inf true, flDZ)
    else if n then (.nan false, flNV)
    else
      let E := expOf m e
      if m = 2 ^ (bitLen m - 1) then (.fin (E < 0) E.natAbs 0, 0)
      else
        let (r, q) := narrow 10 (bits + 40) bits (fun P =>
          let (lo, hi) := log2Bounds m P
          if 0 ≤ E then (E.natAbs * 2 ^ P + lo, E.natAbs * 2 ^ P + hi)
          else (E.natAbs * 2 ^ P - hi, E.natAbs * 2 ^ P - lo))
        (.fin (E < 0) r q, 0)

def sqrtFV (bits : Nat) (x : FV) : FV × Flags :=
  match x with
  | .nan s => (.nan false, flagIf s flNV)
  | .inf n => if n then (.nan false, flNV) else (.inf false, 0)
  | .fin n m e =>
    if m = 0 then (.fin n 0 0, 0)
    else if n then (.nan false, flNV)
    else
      let (r, q) := sqrtSig bits m e
      (.fin false r q, 0)

def rsqrtFV (bits : Nat) (x : FV) : FV × Flags :=
  match x with
  | .nan s => (.nan false, flagIf s flNV)
  | .inf n => if n then (.nan false, flNV) else (.fin false 0 0, 0)
  | .fin n m e =>
    if m = 0 then (.inf n, flDZ)
    else if n then (.nan false, flNV)
    else
      let (r, q) := rsqrtSig bits m e
      (.fin false r q, 0)

def rcpFV (bits : Nat) (x : FV) : FV × Flags := divFV bits (.fin false 1 0) x

end Sys2Proof.Machine
end

