-- ==== Sys2Proof/Machine/LaneInt.lean ====
section
/-!
DEFINITION. Integer lane instructions (08/R190 to R202): the elements of a lane, the shared computation, and
the instructions that only integers have.
-/

namespace Sys2Proof.Machine

/-! ### Elements (04/R82) -/

/-- Bits of an element of a type. -/
def LType.width (t : LType) : Nat :=
  match t with
  | .i32 | .n32 | .f32 | .ef | .blk => 32
  | .i16 | .n16 | .f16 | .bf16 => 16
  | .i8 | .n8 | .e4m3 | .e5m2 => 8
  | .e2m1 => 4
  | .i64 | .n64 => 64

def LType.signed (t : LType) : Bool := t == .i32 || t == .i16 || t == .i8 || t == .i64

/-- Elements of a 32-bit lane, or the one element of a pair. -/
def LType.count (t : LType) : Nat := if t.isW64 then 1 else 32 / LType.width t

/-- Element k of a lane's value. -/
def elemAt (w x k : Nat) : Nat := x / 2 ^ (w * k) % 2 ^ w

/-- Elements put together, the first lowest. -/
def packElems (w : Nat) (xs : List Nat) : Nat :=
  match xs with
  | [] => 0
  | x :: r => x % 2 ^ w + 2 ^ w * packElems w r

/-- A `w`-bit element as a signed number. -/
def signedOf (w x : Nat) : Int := if 2 ^ (w - 1) ≤ x then (x : Int) - 2 ^ w else x

/-- An element as its type has it. -/
def intOf (w : Nat) (sg : Bool) (x : Nat) : Int := if sg then signedOf w x else x

/-- The low `w` bits of a number. -/
def lowBits (w : Nat) (x : Int) : Nat := (x % (2 ^ w : Int)).toNat

/-- The words of a lane's result. -/
def outWords (wide : Bool) (x : Nat) : List Word :=
  if wide then [BitVec.ofNat 32 x, BitVec.ofNat 32 (x / 2 ^ 32)] else [BitVec.ofNat 32 x]

/-! ### Sources -/

/-- The value of a source at a lane: a pair under a 64-bit type. -/
def LCtx.val (C : LCtx) (ty : LType) (x : Src) (lane : Nat) : Nat :=
  if ty.isW64 then (C.pair x lane).toNat else (C.src x lane).toNat

/-- The value of the immediate B (R192). -/
def immValue (ty : LType) (imm : BitVec 24) : Nat :=
  match ty with
  | .i64 | .n64 => (imm.signExtend 64).toNat
  | .i32 | .n32 => (imm.signExtend 32).toNat
  | _ => packElems (LType.width ty) (List.replicate (LType.count ty) (imm.toNat % 2 ^ LType.width ty))

/-- Whether B is the immediate. -/
def hasImm (f : LF) : Bool := f.ty.isInt && f.md.getLsbD 0

def LCtx.valB (C : LCtx) (f : LF) (lane : Nat) : Nat :=
  if hasImm f then immValue f.ty f.imm else C.val f.ty f.b lane

def LCtx.shapeOf (C : LCtx) (ty : LType) (x : Src) : Shape :=
  if ty.isW64 then C.pairShape x else C.shape x

def LCtx.shapeB (C : LCtx) (f : LF) : Shape := if hasImm f then .u else C.shapeOf f.ty f.b

/-- The result shape of `vadd` and `vsub` (03/R66): A when one source is A and the other U, for i32 and
n32. -/
def LCtx.addShape (C : LCtx) (f : LF) (sub : Bool) : Shape :=
  let base : Word :=
    let x : Word := BitVec.ofNat 32 (C.val f.ty f.a 0)
    let y : Word := BitVec.ofNat 32 (C.valB f 0)
    if sub then x - y else x + y
  if !f.ty.isW32 then allU [C.shapeOf f.ty f.a, C.shapeB f]
  else
    match C.shape f.a, C.shapeB f with
    | .a _ y, .u => .a base y
    | .u, .a _ y => .a base (if sub then -y else y)
    | x, y => allU [x, y]

/-! ### Elementwise instructions -/

/-- An instruction that computes each element of a lane from the elements of A, B and C. -/
def State.runElems (s : State) (i : Instr) (f : LF) (sh : LCtx → Shape)
    (g : Nat → Nat → Nat → Nat) : Host.Outcome State Fault Refusal :=
  let w := LType.width f.ty
  s.runLanes i f (if f.ty.isW64 then 2 else 1) sh (fun C lane =>
    let a := C.val f.ty f.a lane
    let b := C.valB f lane
    let c := C.val f.ty f.c lane
    { xs := outWords f.ty.isW64 (packElems w ((List.range (LType.count f.ty)).map (fun k =>
        g (elemAt w a k) (elemAt w b k) (elemAt w c k)))) })

/-- Shapes of instructions with the sources A; A and B; A, B and C. -/
def LCtx.sh1 (f : LF) (C : LCtx) : Shape := allU [C.shapeOf f.ty f.a]
def LCtx.sh2 (f : LF) (C : LCtx) : Shape := allU [C.shapeOf f.ty f.a, C.shapeB f]
def LCtx.sh3 (f : LF) (C : LCtx) : Shape := allU [C.shapeOf f.ty f.a, C.shapeB f, C.shapeOf f.ty f.c]

/-- An operation of two elements. -/
def State.int2 (s : State) (i : Instr) (f : LF) (g : Nat → Nat → Nat) : Host.Outcome State Fault Refusal :=
  s.runElems i f (LCtx.sh2 f) (fun a b _ => g a b)

/-- An operation of one element. -/
def State.int1 (s : State) (i : Instr) (f : LF) (g : Nat → Nat) : Host.Outcome State Fault Refusal :=
  s.runElems i f (LCtx.sh1 f) (fun a _ _ => g a)

def execVmulh (f : LF) (s : State) : Host.Outcome State Fault Refusal :=
  let w := LType.width f.ty
  let sg := LType.signed f.ty
  s.int2 (.vmulh f) f (fun a b => lowBits w (intOf w sg a * intOf w sg b / 2 ^ w))

def execVand (f : LF) (s : State) : Host.Outcome State Fault Refusal :=
  s.int2 (.vand f) f (fun a b => a &&& b)
def execVor (f : LF) (s : State) : Host.Outcome State Fault Refusal :=
  s.int2 (.vor f) f (fun a b => a ||| b)
def execVxor (f : LF) (s : State) : Host.Outcome State Fault Refusal :=
  s.int2 (.vxor f) f (fun a b => a ^^^ b)
def execVandn (f : LF) (s : State) : Host.Outcome State Fault Refusal :=
  let w := LType.width f.ty
  s.int2 (.vandn f) f (fun a b => a &&& (2 ^ w - 1 - b))

/-! ### Shifts (R196) -/

def execVshl (f : LF) (s : State) : Host.Outcome State Fault Refusal :=
  let w := LType.width f.ty
  s.int2 (.vshl f) f (fun a b => a * 2 ^ (b % w) % 2 ^ w)
def execVshr (f : LF) (s : State) : Host.Outcome State Fault Refusal :=
  let w := LType.width f.ty
  s.int2 (.vshr f) f (fun a b => a / 2 ^ (b % w))
def execVsra (f : LF) (s : State) : Host.Outcome State Fault Refusal :=
  let w := LType.width f.ty
  s.int2 (.vsra f) f (fun a b => lowBits w (signedOf w a / 2 ^ (b % w)))
def execVrot (f : LF) (s : State) : Host.Outcome State Fault Refusal :=
  let w := LType.width f.ty
  s.int2 (.vrot f) f (fun a b => a * 2 ^ (b % w) % 2 ^ w + a / 2 ^ (w - b % w))

def execVclz (f : LF) (s : State) : Host.Outcome State Fault Refusal :=
  s.int1 (.vclz f) f (fun a => clzN (LType.width f.ty) a)
def execVpopc (f : LF) (s : State) : Host.Outcome State Fault Refusal :=
  s.int1 (.vpopc f) f (fun a => popN (LType.width f.ty) a)

/-! ### Division (R197) -/

/-- A division of lanes: a divisor of 0 faults ARITH in its lane. -/
def State.intDiv (s : State) (i : Instr) (f : LF) (g : Int → Int → Int) : Host.Outcome State Fault Refusal :=
  let w := LType.width f.ty
  let sg := LType.signed f.ty
  s.runLanes i f (if f.ty.isW64 then 2 else 1) (LCtx.sh2 f) (fun C lane =>
    let b := C.valB f lane
    if b = 0 then { bad := some (.arith, 0) }
    else { xs := outWords f.ty.isW64 (lowBits w (g (intOf w sg (C.val f.ty f.a lane)) (intOf w sg b))) })

def execVrem (f : LF) (s : State) : Host.Outcome State Fault Refusal :=
  s.intDiv (.vrem f) f (fun a b => a.tmod b)

/-! ### Moves, addresses and fields (R198 to R200) -/

/-- `vmov` in LX form (R200): every lane takes the immediate, tagged U. -/
def execVmovImm (ty : LType) (ms : BitVec 3) (d : Dst) (imm : BitVec 64) (s : State) :
    Host.Outcome State Fault Refusal :=
  s.runL (.vmovImm ty ms d imm) ms false (fun C =>
    C.finishLanes s d (if ty.isW64 then 2 else 1) .u
      (C.lanes.map (fun l => (l, { xs := outWords ty.isW64 imm.toNat }))))

/-- `vlea` (R199). -/
def execVlea (f : LF) (s : State) : Host.Outcome State Fault Refusal :=
  s.runLanes (.vlea f) f 2 (fun C => allU [C.pairShape f.a, C.shape f.b]) (fun C lane =>
    let b := C.src f.b lane
    let e : DWord := if f.ty == .i32 then b.signExtend 64 else b.setWidth 64
    let r := C.pair f.a lane + (e <<< (f.md.toNat % 8)) + f.imm.signExtend 64
    { xs := outWords true r.toNat })

/-- `vbfx` (R198). -/
def execVbfx (f : LF) (s : State) : Host.Outcome State Fault Refusal :=
  let l := bitsOf f.imm.toNat 4 0
  let w := bitsOf f.imm.toNat 10 5 + 1
  s.runLanes (.vbfx f) f 1 (fun C => allU [C.shape f.a]) (fun C lane =>
    let x := (C.src f.a lane).toNat / 2 ^ l % 2 ^ w
    { xs := outWords false (if f.ty == .i32 then lowBits 32 (signedOf w x) else x) })

/-- `vbfi` (R198). -/
def execVbfi (f : LF) (s : State) : Host.Outcome State Fault Refusal :=
  let l := bitsOf f.imm.toNat 4 0
  let w := bitsOf f.imm.toNat 10 5 + 1
  s.runLanes (.vbfi f) f 1 (fun C => allU [C.shape f.a, C.shape f.b]) (fun C lane =>
    let x := (C.src f.a lane).toNat % 2 ^ w
    let y := (C.src f.b lane).toNat
    { xs := outWords false (y % 2 ^ l + x * 2 ^ l + y / 2 ^ (l + w) * 2 ^ (l + w)) })

end Sys2Proof.Machine
end

