-- ==== Sys2Proof/Machine/LaneFloat.lean ====
section
/-!
DEFINITION. Binary floating lane instructions (09/R233 to R250): elements under FMT, conversions, block
formats, pruning and the generator.
-/

namespace Sys2Proof.Machine

/-! ### FMT (03/R70) and elements -/

def LCtx.rnd (C : LCtx) : Nat := bitsOf C.blk.fmt.toNat 5 3
def LCtx.sat (C : LCtx) : Bool := C.blk.fmt.getLsbD 6
def LCtx.ftz (C : LCtx) : Bool := C.blk.fmt.getLsbD 7
def LCtx.bfmt (C : LCtx) : Nat := bitsOf C.blk.fmt.toNat 2 0

/-- The format of a floating type. -/
def fmtOf (ty : LType) : Fmt :=
  match ty with
  | .f16 => fmtF16
  | .bf16 => fmtBf16
  | .e4m3 => fmtE4m3
  | .e5m2 => fmtE5m2
  | .e2m1 => fmtE2m1
  | _ => fmtF32

def isHalf (ty : LType) : Bool := ty == .f16 || ty == .bf16

/-- Whether FTZ applies to a type (04/R87). -/
def LCtx.flush (C : LCtx) (ty : LType) : Bool := isHalf ty && C.ftz

/-- The code of an element as In reads it: under FTZ a subnormal is a zero of its sign (09/R235). -/
def LCtx.inCode (C : LCtx) (ty : LType) (x : Nat) : Nat :=
  let F := fmtOf ty
  if C.flush ty && F.isSub x then x / 2 ^ (F.w - 1) * 2 ^ (F.w - 1) else x

def LCtx.inVal (C : LCtx) (ty : LType) (x : Nat) : FV := (fmtOf ty).decode (C.inCode ty x)

/-- A result rounded in RNE with Out (09/R235). -/
def LCtx.outCode (C : LCtx) (ty : LType) (r : FV × Flags) : Nat × Flags :=
  let (x, f) := (fmtOf ty).round 0 false (C.flush ty) r.1
  (x, r.2 ||| f)

/-- Elements with their flags put together as a lane's result. -/
def packOut (w : Nat) (rs : List (Nat × Flags)) : LOut :=
  { xs := outWords false (packElems w (rs.map (·.1))), fl := rs.foldl (fun f r => f ||| r.2) 0 }

/-- An instruction that computes the code and flags of each element from the codes of A, B and C. -/
def State.runCodes (s : State) (i : Instr) (f : LF) (sh : LCtx → Shape)
    (g : LCtx → Nat → Nat → Nat → Nat × Flags) : Host.Outcome State Fault Refusal :=
  let w := LType.width f.ty
  s.runLanes i f 1 sh (fun C lane =>
    let a := (C.src f.a lane).toNat
    let b := (C.src f.b lane).toNat
    let c := (C.src f.c lane).toNat
    packOut w ((List.range (LType.count f.ty)).map (fun k =>
      g C (elemAt w a k) (elemAt w b k) (elemAt w c k))))

/-- An instruction that computes each element exactly and rounds it once, in RNE (09/R235, R239). -/
def State.runFloats (s : State) (i : Instr) (f : LF) (sh : LCtx → Shape)
    (g : FV → FV → FV → FV × Flags) : Host.Outcome State Fault Refusal :=
  s.runCodes i f sh (fun C a b c =>
    C.outCode f.ty (g (C.inVal f.ty a) (C.inVal f.ty b) (C.inVal f.ty c)))

/-- Bits that an inexact function result carries before it is rounded. -/
def fnBits (ty : LType) : Nat := (fmtOf ty).p + 3

/-- The choice of `vmin` and `vmax` (09/R237): the chosen code, and NV. -/
def pickCode (F : Fmt) (isMax : Bool) (a b : Nat) : Nat × Flags :=
  let x := F.decode a
  let y := F.decode b
  let r :=
    if x.isNan && y.isNan then F.nanCode
    else if x.isNan then b
    else if y.isNan then a
    else if picksSecond isMax x y then b else a
  (r, sigNV [x, y])

/-! ### vcls, vfinq -/

/-- The class mask of an element (09/R240). -/
def classOf (F : Fmt) (x : Nat) : Nat := classBit (F.decode x) (F.isSub x)

def execVcls (f : LF) (s : State) : Host.Outcome State Fault Refusal :=
  if f.ty == .ef then
    s.runLanes (.vcls f) f 1 (fun _ => .g) (fun C lane =>
      let x := C.eVal f.a lane
      let low := x.v.isNum && x.sig < prcFloor (C.prc lane)
      { xs := outWords false (classBit x.v false + (if low then 2 ^ 10 else 0)) })
  else
    let w := LType.width f.ty
    s.runLanes (.vcls f) f 1 (fun C => allU [C.shape f.a]) (fun C lane =>
      let a := (C.src f.a lane).toNat
      { xs := outWords false (packElems w ((List.range (LType.count f.ty)).map (fun k =>
          classOf (fmtOf f.ty) (elemAt w a k)))) })

/-- `vfinq` (09/R241): codes are copied, and replacements are counted. A copy of type EF is moved under R255, whose narrowing raises
NX and OF as R101 has it, though R241 raises no flag (DESIGN CHOICE: log entry 132). -/
def execVfinq (f : LF) (s : State) : Host.Outcome State Fault Refusal :=
  let finite (v : FV) : Bool := !v.isNan && !v.isInf
  if f.ty == .ef then
    s.runLanes (.vfinq f) f 1 (fun _ => .g) (fun C lane =>
      let ok := finite (C.eVal f.a lane).v
      { C.eMove f.d lane (C.eRaw (if ok then f.a else f.b) lane) 0 with nf := if ok then 0 else 1 })
  else
    let w := LType.width f.ty
    s.runLanes (.vfinq f) f 1 (fun C => allU [C.shape f.a, C.shape f.b]) (fun C lane =>
      let a := (C.src f.a lane).toNat
      let b := (C.src f.b lane).toNat
      let ks := List.range (LType.count f.ty)
      let ok (k : Nat) : Bool := finite ((fmtOf f.ty).decode (elemAt w a k))
      { xs := outWords false (packElems w (ks.map (fun k => if ok k then elemAt w a k else elemAt w b k))),
        nf := (ks.filter (fun k => !ok k)).length })

/-! ### vprune, vrng (09/R242, R243) -/

/-- The choice for one element: x, t and the fraction u in units of 2^-24. -/
def prune (F : Fmt) (a c u : Nat) : Nat × Flags :=
  let x := F.decode a
  let t := F.decode c
  let z0 := F.signed x.neg 0
  if x.isNan then (F.nanCode, sigNV [x])
  else if t.isNan then (a, flNV)
  else if cmpNum t (.fin false 0 0) != .gt || cmpNum x.abs t != .lt then (a, 0)
  else if t.isInf then (z0, 0)
  else if cmpNum (mulFV (.fin false u (-24)) t).1 x.abs == .lt then
    (F.signed x.neg (c % 2 ^ (F.w - 1)), 0)
  else (z0, 0)

def execVprune (f : LF) (s : State) : Host.Outcome State Fault Refusal :=
  let w := LType.width f.ty
  s.runLanes (.vprune f) f 1 (fun C => allU [C.shape f.a, C.pairShape f.b, C.shape f.c]) (fun C lane =>
    let a := (C.src f.a lane).toNat
    let c := (C.src f.c lane).toNat
    packOut w ((List.range (LType.count f.ty)).map (fun k =>
      let g := gen C.blk.lq.rkey (genCtr (f.imm.extractLsb' 0 16) (C.pair f.b lane + BitVec.ofNat 64 k))
      prune (fmtOf f.ty) (C.inCode f.ty (elemAt w a k)) (C.inCode f.ty (elemAt w c k)) (g.toNat / 2 ^ 40))))

def execVrng (f : LF) (s : State) : Host.Outcome State Fault Refusal :=
  let k := bitsOf f.imm.toNat 20 16
  s.runLanes (.vrng f) f 1 (fun C => allU [C.pairShape f.a]) (fun C lane =>
    let g := (gen C.blk.lq.rkey (genCtr (f.imm.extractLsb' 0 16) (C.pair f.a lane))).toNat
    let x :=
      if f.ty == .f32 then (fmtF32.roundFin 0 false false false (g / 2 ^ 40) (-24)).1
      else if k = 0 then g / 2 ^ 32
      else k * 2 ^ 24 + g / 2 ^ (64 - k) * 2 ^ (24 - k)
    { xs := outWords false x })

/-! ### vcvt, vcvt.sr (09/R244 to R247) -/

/-- The destination a number of registers on. -/
def dstPlus (d : Dst) (j : Nat) : Dst :=
  match d with
  | .r x => .r (regPlus x j)
  | .rl x k => .rl (regPlus x j) k
  | .l k => .l k

/-- Elements of a conversion. -/
def cvtCount (d s : LType) : Nat := max d.perLane s.perLane

/-- The value of element k of a source, read under In. -/
def LCtx.cvtIn (C : LCtx) (ty : LType) (x : Src) (lane k : Nat) : FV :=
  let per := ty.perLane
  if ty == .ef then (C.eVal (srcPlus x (k / per)) lane).v
  else if ty.isW64 then ofInt 64 (LType.signed ty) (C.pair x lane).toNat
  else
    let w := LType.width ty
    let e := elemAt w (C.src (srcPlus x (k / per)) lane).toNat (k % per)
    if ty.isInt then ofInt w (LType.signed ty) e else C.inVal ty e

/-- The shape that a group of source registers gives (09/R233). -/
def LCtx.groupShape (C : LCtx) (x : Src) (n : Nat) : Shape :=
  allU ((List.range n).map (fun j => C.shape (srcPlus x j)))

/-- Registers of a side of a conversion with `n` elements. -/
def cvtRegs (ty : LType) (n : Nat) : Nat := if ty.isW64 then 2 else (n + ty.perLane - 1) / ty.perLane

/-- The lane's result from its elements' codes and flags: registers of `perLane` elements each. -/
def cvtPack (ty : LType) (n : Nat) (rs : List (Nat × Flags)) : LOut :=
  let w := LType.width ty
  let xs := rs.map (·.1)
  { xs := if ty.isW64 then outWords true (xs.headD 0)
          else (List.range (cvtRegs ty n)).map (fun j =>
            BitVec.ofNat 32 (packElems w ((xs.drop (j * ty.perLane)).take ty.perLane))),
    fl := rs.foldl (fun f r => f ||| r.2) 0 }

/-- A group of elastic results: the lowest fault decides the lane, CAPACITY of any before PRECISION of any (09/R246, R253). -/
def joinElastic (rs : List LOut) : LOut :=
  let bads := rs.filterMap (·.bad)
  match (bads.find? (·.1 == .capacity)).or bads.head? with
  | some b => { bad := some b }
  | none => { xs := rs.flatMap (·.xs), fl := rs.foldl (fun f r => f ||| r.fl) 0 }

/-- A conversion of one value to a type other than ef, in a mode (09/R246). -/
def LCtx.cvtOut (C : LCtx) (ty : LType) (v : FV) : Nat × Flags :=
  let nv := sigNV [v]
  if ty.isInt then
    let (x, f) := roundInt C.rnd (LType.width ty) (LType.signed ty) v
    (x, nv ||| f)
  else
    let (x, f) := (fmtOf ty).round C.rnd C.sat (C.flush ty) v
    (x, nv ||| f)

/-- A conversion into ef: FMT.RND, the lane's working length, σ = p_w (04/R102). Under FMT.SAT = 1 an infinity gives the
largest finite value and raises OF (04/R90; log entry 115). -/
def LCtx.cvtElastic (C : LCtx) (d : Dst) (lane : Nat) (v : FV) : LOut :=
  let cw := prcLen (C.prc lane)
  let x : FV × Flags :=
    match v with
    | .inf neg => if C.sat then (.fin neg (2 ^ ePrec cw - 1) (16383 - ePrec cw + 1), flOF) else (v, 0)
    | v => (v, sigNV [v])
  C.eStore d lane cw (eFinish C.rnd cw x (fun _ => ePrec cw) false)

def execVcvt (f : LF) (s : State) : Host.Outcome State Fault Refusal :=
  let st := LType.ofCode f.md
  let n := cvtCount f.ty st
  let cnt := if f.ty.isW64 then 2 else cvtRegs f.ty n
  s.runLanes (.vcvt f) f cnt
    (fun C => if st == .ef then .g else if st.isW64 then C.pairShape f.a
              else C.groupShape f.a (cvtRegs st n))
    (fun C lane =>
      let vs := (List.range n).map (fun k => C.cvtIn st f.a lane k)
      if f.ty == .ef then
        joinElastic (vs.zipIdx.map (fun p => C.cvtElastic (dstPlus f.d p.2) lane p.1))
      else cvtPack f.ty n (vs.map (C.cvtOut f.ty)))

/-- `vcvt.sr`: each element takes its random operand from its own register of B (09/R247). -/
def execVcvtSr (f : LF) (s : State) : Host.Outcome State Fault Refusal :=
  let st := LType.ofCode f.md
  let n := cvtCount f.ty st
  s.runLanes (.vcvtSr f) f (cvtRegs f.ty n)
    (fun C => if st == .ef then .g else allU [C.groupShape f.a (cvtRegs st n), C.groupShape f.b n])
    (fun C lane =>
      let ops := (List.range n).map (fun k => (C.src (srcPlus f.b k) lane).toNat)
      if ops.any (fun x => bitsOf x 31 29 != 0 || bitsOf x 28 24 = 0 || 24 < bitsOf x 28 24) then
        { bad := some (.reservedField, s.lAddr C) }
      else
        cvtPack f.ty n (ops.zipIdx.map (fun p =>
          let v := C.cvtIn st f.a lane p.2
          let k := bitsOf p.1 28 24
          let (x, fl) := (fmtOf f.ty).roundSr k (bitsOf p.1 23 (24 - k)) C.sat (C.flush f.ty) v
          (x, fl ||| sigNV [v]))))

/-! ### vmxq, vmxd (09/R248 to R250, 04/R94 to R96) -/

/-- The element format of BFMT, without the selector of a twin-scale element. -/
def blockFmt (b : Nat) : Fmt :=
  match b with
  | 0 => fmtE4m3
  | 1 => fmtE5m2
  | 2 => fmtE2m1
  | 3 => fmtTs8
  | _ => fmtTs4

/-- The exponent of the largest finite magnitude of an element (R249). -/
def blockEmax (b : Nat) : Int := match b with | 0 => 8 | 1 => 15 | 2 => 2 | 3 => 8 | _ => 0

def isTwin (b : Nat) : Bool := 3 ≤ b

/-- Bits of an element with its selector. -/
def blockBits (b : Nat) : Nat := if b = 2 || b = 4 then 4 else 8

def clampInt (x lo hi : Int) : Int := if x < lo then lo else if hi < x then hi else x

/-- An element's code: x / 2^(s - 127) rounded and clamped; a clamped one raises NX, not OF. -/
def elementCode (F : Fmt) (mode : Nat) (v : FV) (sc : Int) : Nat × Flags :=
  match v with
  | .fin neg m e =>
    let (x, f) := F.roundFin mode true false neg m (e - (sc - 127))
    (x, f &&& ~~~flOF)
  | _ => (0, 0)

/-- The scale or header, the codes and the flags of a block (R249). -/
def quantise (b mode : Nat) (vs : List FV) : Nat × List Nat × Flags :=
  let F := blockFmt b
  let flat (h : Nat) : Nat × List Nat := (if isTwin b then 0x100 + h else h, vs.map (fun _ => 0))
  if vs.any (fun v => v.isNan || v.isInf) then
    let z := flat 0xFF
    (z.1, z.2, sigNV vs)
  else
    let es := (vs.filter FV.isNum).map FV.exp
    match es with
    | [] =>
      let z := flat 0x7F
      (z.1, z.2, 0)
    | e0 :: _ =>
      let etop := es.foldl max e0
      let elow := es.foldl min e0
      let s0 := clampInt (etop - blockEmax b + 127) 0 254
      if isTwin b then
        let d := clampInt (etop - elow - (if b = 3 then 8 else 1)) 1 15
        let s1 := s0 - d
        let top : FV := .fin false F.maxN (F.maxQ + s1 - 127)
        let r := vs.map (fun v =>
          let low := cmpNum v.abs top != .gt
          let (x, f) := elementCode F mode v (if low then s1 else s0)
          (x + (if low then 2 ^ F.w else 0), f))
        (d.toNat * 256 + s0.toNat, r.map (·.1), r.foldl (fun a p => a ||| p.2) 0)
      else
        let r := vs.map (fun v => elementCode F mode v s0)
        (s0.toNat, r.map (·.1), r.foldl (fun a p => a ||| p.2) 0)

/-- The word of block lane j of a quantised block (R248). -/
def blockWord (b j : Nat) (q : Nat × List Nat) : Nat :=
  let w := blockBits b
  let per := 32 / w
  if j < 32 / per then packElems w ((q.2.drop (per * j)).take per)
  else if j = 8 then q.1 else 0

def execVmxq (f : LF) (s : State) : Host.Outcome State Fault Refusal :=
  s.runL (.vmxq f) f.ms false (fun C =>
    let blocks := (List.range (C.w / 32)).map (fun w =>
      if Mask.word C.eff w = 0 then (0, [], 0)
      else quantise C.bfmt C.rnd ((List.range 32).map (fun j =>
        let l := 32 * w + j
        if C.eff.getLsbD l then fmtF32.decode (C.src f.a l).toNat else .fin false 0 0)))
    C.finishLanes s f.d 1 .g (C.lanes.map (fun l =>
      let q := (blocks[l / 32]?).getD (0, [], 0)
      (l, { xs := outWords false (blockWord C.bfmt (l % 32) (q.1, q.2.1)), fl := q.2.2 }))))

/-- The value of element j of a block held as the words of lanes 0 to 8: NaN for a NaN scale or a malformed
header (R94 to R96), with whether that is so. -/
def blockValue (b : Nat) (words : List Nat) (j : Nat) : FV × Bool :=
  let w := blockBits b
  let per := 32 / w
  let F := blockFmt b
  let code := elemAt w ((words[j / per]?).getD 0) (j % per)
  let h := (words[8]?).getD 0
  if isTwin b then
    let s0 : Nat := h % 256
    let d : Nat := bitsOf h 11 8
    if s0 == 255 || d == 0 || bitsOf h 15 12 != 0 then (.nan false, true)
    else
      let sc : Int := if code / 2 ^ F.w = 1 then (s0 : Int) - d else s0
      match F.decode (code % 2 ^ F.w) with
      | .fin n m e => (.fin n m (e + sc - 127), false)
      | v => (v, false)
  else if h % 256 == 255 then (.nan false, true)
  else
    match F.decode code with
    | .fin n m e => (.fin n m (e + Int.ofNat (h % 256) - 127), false)
    | v => (v, false)

def execVmxd (f : LF) (s : State) : Host.Outcome State Fault Refusal :=
  s.runLanes (.vmxd f) f 1 (fun _ => .g) (fun C lane =>
    let w := lane / 32
    -- in a visitor the registers of a lane that it does not carry hold nothing: their values are free
    let words := (List.range 9).map (fun j =>
      if C.visiting && C.away.getLsbD (32 * w + j) then (s.freeWord (32 * w + j)).toNat % 2 ^ 32
      else (C.src f.a (32 * w + j)).toNat)
    let (v, _) := blockValue C.bfmt words (lane % 32)
    let (x, fl) := fmtF32.round 0 false false v
    { xs := outWords false x, fl := fl ||| flagIf v.isNan flNV })

end Sys2Proof.Machine
end

