-- ==== Sys2Proof/Machine/LaneArith.lean ====
section
/-!
DEFINITION. The lane opcodes that integer, binary floating and elastic types share (08/R195, R197, R200 to R202,
09/R235 to R239, R253 to R256), and the elastic window's own (09/R251, R252, R259, R260).
-/

namespace Sys2Proof.Machine

/-- An elastic arithmetic instruction (09/R253). -/
def State.runElastic (s : State) (i : Instr) (f : LF) (g : Nat → Nat → EV → EV → EV → EOut) :
    Host.Outcome State Fault Refusal :=
  s.runLanes i f 1 (fun _ => .g) (fun C lane =>
    let p := C.prc lane
    let cw := prcLen p
    C.eStore f.d lane cw (g (prcMode p) cw (C.eVal f.a lane) (C.eVal f.b lane) (C.eVal f.c lane)))

/-- The opposite of an elastic value. -/
def EV.flip (x : EV) : EV := { x with v := x.v.flip }

def floatSh1 (f : LF) (C : LCtx) : Shape := allU [C.shape f.a]
def floatSh2 (f : LF) (C : LCtx) : Shape := allU [C.shape f.a, C.shape f.b]
def floatSh3 (f : LF) (C : LCtx) : Shape := allU [C.shape f.a, C.shape f.b, C.shape f.c]

/-! ### Sums, products, quotients -/

def execVadd (f : LF) (s : State) : Host.Outcome State Fault Refusal :=
  if f.ty == .ef then s.runElastic (.vadd f) f (fun m cw x y _ => eAdd m cw x y)
  else if f.ty.isInt then s.runElems (.vadd f) f (fun C => C.addShape f false) (fun a b _ => a + b)
  else s.runFloats (.vadd f) f (floatSh2 f) (fun x y _ => addFV 0 x y)

def execVsub (f : LF) (s : State) : Host.Outcome State Fault Refusal :=
  if f.ty == .ef then s.runElastic (.vsub f) f (fun m cw x y _ => eAdd m cw x y.flip)
  else if f.ty.isInt then
    s.runElems (.vsub f) f (fun C => C.addShape f true) (fun a b _ => a + 2 ^ LType.width f.ty - b)
  else s.runFloats (.vsub f) f (floatSh2 f) (fun x y _ => addFV 0 x y.flip)

def execVmul (f : LF) (s : State) : Host.Outcome State Fault Refusal :=
  if f.ty == .ef then s.runElastic (.vmul f) f (fun m cw x y _ => eMul m cw x y)
  else if f.ty.isInt then s.int2 (.vmul f) f (fun a b => a * b)
  else s.runFloats (.vmul f) f (floatSh2 f) (fun x y _ => mulFV x y)

def execVmad (f : LF) (s : State) : Host.Outcome State Fault Refusal :=
  if f.ty == .ef then s.runElastic (.vmad f) f (fun m cw x y z => eFma m cw x y z)
  else if f.ty.isInt then s.runElems (.vmad f) f (LCtx.sh3 f) (fun a b c => a * b + c)
  else s.runFloats (.vmad f) f (floatSh3 f) (fun x y z => fmaFV 0 x y z)

def execVdiv (f : LF) (s : State) : Host.Outcome State Fault Refusal :=
  if f.ty == .ef then s.runElastic (.vdiv f) f (fun m cw x y _ => eDiv m cw x y)
  else if f.ty.isInt then s.intDiv (.vdiv f) f (fun a b => a.tdiv b)
  else s.runFloats (.vdiv f) f (floatSh2 f) (fun x y _ => divFV (fnBits f.ty) x y)

/-! ### Signs -/

/-- The sign bit of an elastic encoding's word 0, in its upper halfword. -/
def eSignBit : Nat := 2 ^ 11

/-- A change to the sign of an elastic encoding, which is then moved (09/R255). -/
def State.runSign (s : State) (i : Instr) (f : LF) (g : Bool → Bool) : Host.Outcome State Fault Refusal :=
  s.runLanes i f 1 (fun _ => .g) (fun C lane =>
    let hs := C.eRaw f.a lane
    let h1 := (hs[1]?).getD 0
    let h1' := h1 - (if h1.testBit 11 then eSignBit else 0) + (if g (h1.testBit 11) then eSignBit else 0)
    C.eMove f.d lane (hs.take 1 ++ [h1'] ++ hs.drop 2) 0)

def execVneg (f : LF) (s : State) : Host.Outcome State Fault Refusal :=
  let w := LType.width f.ty
  if f.ty == .ef then s.runSign (.vneg f) f (fun b => !b)
  else if f.ty.isInt then s.int1 (.vneg f) f (fun a => 2 ^ w - a)
  else s.runCodes (.vneg f) f (floatSh1 f) (fun _ a _ _ => (a ^^^ 2 ^ (w - 1), 0))

def execVabs (f : LF) (s : State) : Host.Outcome State Fault Refusal :=
  let w := LType.width f.ty
  if f.ty == .ef then s.runSign (.vabs f) f (fun _ => false)
  else if f.ty.isInt then
    s.int1 (.vabs f) f (fun a => if LType.signed f.ty && 2 ^ (w - 1) ≤ a then 2 ^ w - a else a)
  else s.runCodes (.vabs f) f (floatSh1 f) (fun _ a _ _ => (a % 2 ^ (w - 1), 0))

/-! ### Selections -/

/-- The lesser or the greater of two integer elements. -/
def pickInt (w : Nat) (sg isMax : Bool) (a b : Nat) : Nat :=
  let less := intOf w sg a < intOf w sg b
  if isMax then (if less then b else a) else (if less then a else b)

/-- The encoding that `vmin.ef` or `vmax.ef` chooses (09/R255), and NV. -/
def ePick (isMax : Bool) (a b : List Nat) : List Nat × Flags :=
  let x := EV.read a
  let y := EV.read b
  let r :=
    if x.v.isNan && y.v.isNan then eNan x.c
    else if x.v.isNan then b
    else if y.v.isNan then a
    else if picksSecond isMax x.v y.v then b else a
  (r, sigNV [x.v, y.v])

/-- `vmin` and `vmax`. -/
def State.runPick (s : State) (i : Instr) (f : LF) (isMax : Bool) : Host.Outcome State Fault Refusal :=
  if f.ty == .ef then
    s.runLanes i f 1 (fun _ => .g) (fun C lane =>
      let (r, fl) := ePick isMax (C.eRaw f.a lane) (C.eRaw f.b lane)
      C.eMove f.d lane r fl)
  else if f.ty.isInt then s.int2 i f (pickInt (LType.width f.ty) (LType.signed f.ty) isMax)
  else s.runCodes i f (floatSh2 f) (fun C a b _ =>
    pickCode (fmtOf f.ty) isMax (C.inCode f.ty a) (C.inCode f.ty b))

def execVmin (f : LF) (s : State) : Host.Outcome State Fault Refusal := s.runPick (.vmin f) f false
def execVmax (f : LF) (s : State) : Host.Outcome State Fault Refusal := s.runPick (.vmax f) f true

/-- A comparison of integers by its sub-operation (08/R202). -/
def cmpInt (sub : Nat) (a b : Int) : Bool :=
  match sub with
  | 0 => a == b
  | 1 => a != b
  | 2 => a < b
  | 3 => a ≤ b
  | 4 => b < a
  | _ => b ≤ a

def execVcmp (f : LF) (s : State) : Host.Outcome State Fault Refusal :=
  let w := LType.width f.ty
  let sg := LType.signed f.ty
  s.runMask (.vcmp f) f (fun C lane =>
    if f.ty == .ef then cmpPred f.sub.toNat (C.eVal f.a lane).v (C.eVal f.b lane).v
    else if f.ty.isInt then
      (cmpInt f.sub.toNat (intOf w sg (C.val f.ty f.a lane)) (intOf w sg (C.valB f lane)), 0)
    else
      cmpPred f.sub.toNat (C.inVal f.ty (C.src f.a lane).toNat) (C.inVal f.ty (C.src f.b lane).toNat))

/-- `vsel` (08/R201): the mask that C names chooses; the result is tagged G. -/
def execVsel (f : LF) (s : State) : Host.Outcome State Fault Refusal :=
  s.runLanes (.vsel f) f (if f.ty.isW64 then 2 else 1) (fun _ => .g) (fun C lane =>
    let x := if (C.mask f.c).getLsbD lane then f.a else f.b
    if f.ty == .ef then C.eMove f.d lane (C.eRaw x lane) 0
    else { xs := outWords f.ty.isW64 (C.val f.ty x lane) })

/-- `vmov` of a register (08/R200): a copy with the source's tag. -/
def execVmov (f : LF) (s : State) : Host.Outcome State Fault Refusal :=
  s.runLanes (.vmov f) f (if f.ty.isW64 then 2 else 1)
    (fun C => if f.ty == .ef then .g else C.shapeOf f.ty f.a) (fun C lane =>
    if f.ty == .ef then C.eMove f.d lane (C.eRaw f.a lane) 0
    else { xs := outWords f.ty.isW64 (C.val f.ty f.a lane) })

/-! ### Functions (09/R239, R254) -/

/-- A function of one value, and its significance from the operand and the result's exponent. An elastic result that overflows is
rounded as R253 and R100 round it, in every mode: for `vexp2.ef` under RTZ or RDN the largest finite value, though the table of
R239 names +∞ (DESIGN CHOICE: log entry 131). -/
def State.runFn (s : State) (i : Instr) (f : LF) (g : Nat → FV → FV × Flags) (sg : EV → Nat → Int → Int) :
    Host.Outcome State Fault Refusal :=
  if f.ty == .ef then
    s.runElastic i f (fun m cw x _ _ => eFinish m cw (g (ePrec cw + 3) x.v) (sg x (ePrec cw)) false)
  else s.runFloats i f (floatSh1 f) (fun x _ _ => g (fnBits f.ty) x)

def execVsqrt (f : LF) (s : State) : Host.Outcome State Fault Refusal :=
  s.runFn (.vsqrt f) f sqrtFV (fun x _ _ => x.sig)
def execVrcp (f : LF) (s : State) : Host.Outcome State Fault Refusal :=
  s.runFn (.vrcp f) f rcpFV (fun x _ _ => x.sig)
def execVrsq (f : LF) (s : State) : Host.Outcome State Fault Refusal :=
  s.runFn (.vrsq f) f rsqrtFV (fun x _ _ => x.sig)
def execVexp2 (f : LF) (s : State) : Host.Outcome State Fault Refusal :=
  s.runFn (.vexp2 f) f exp2FV (fun x pw _ => match x.lsbTerm with | some l => -l | none => pw)
def execVlog2 (f : LF) (s : State) : Host.Outcome State Fault Refusal :=
  s.runFn (.vlog2 f) f log2FV (fun x _ er => er + x.sig - 1)

/-! ### ewin, eprec, eround, esig -/

/-- Cells `v(lo)` to `v(lo + k - 1)` with new contents. -/
def setCells (v : List VReg) (lo k : Nat) (g : Nat → VReg) : List VReg :=
  (List.range k).foldl (fun v j => modifyAt v (lo + j) (fun _ => g j)) v

/-- The words of a window's cells after allocation: each register +0 with LEN = C - 2 (03/R78). -/
def freshCells (codes : DWord) : List Word :=
  (List.range 16).flatMap (fun k =>
    let c := capOf codes k
    if c = 0 then [] else wordsOf ((c + 1) / 2) (eCode c false 0 0 0))

/-- `ewin` (09/R252). It acts on the team as a whole. -/
def execEwin (f : LF) (s : State) : Host.Outcome State Fault Refusal :=
  s.runL (.ewin f) 0 true (fun C =>
    if C.visiting then .fault s C .notCarried 0
    else
      let codes := C.pair f.a 0
      let k := windowCells codes
      let staged := stagedList C.blk.staged
      if 64 < k || C.n < k || staged.any (fun r => C.n - k ≤ r && r < C.n) ||
          (C.blk.ew && 32 < staged.length + k) then .fault s C .window 0
      else
        let old := windowCells C.wcodes
        let v := setCells C.regs.v (C.n - old) old (fun _ => .u 0)
        let ws := freshCells codes
        let v := setCells v (C.n - k) k (fun j => .g (List.replicate C.w ((ws[j]?).getD 0)))
        .done s { C with wcodes := codes, regs := { C.regs with v := v } })

/-- `eprec` (09/R251): selected fields of PRC, in each active lane. -/
def execEprec (f : LF) (s : State) : Host.Outcome State Fault Refusal :=
  let imm := f.imm.toNat
  s.runLanes (.eprec f) f 1 (fun C => allU [C.regs.prc.shape]) (fun C lane =>
    let p := C.prc lane
    let rp := if bitsOf imm 22 22 = 1 then bitsOf imm 15 12 else bitsOf p 15 12
    let fl := if bitsOf imm 21 21 = 1 then bitsOf imm 11 4 else bitsOf p 11 4
    let g := if bitsOf imm 20 20 = 1 then bitsOf imm 3 0 else bitsOf p 3 0
    { xs := outWords false (rp * 4096 + fl * 16 + g) })

/-- `eround` (09/R259): a NaN that is not shortened keeps its fraction. -/
def execEround (f : LF) (s : State) : Host.Outcome State Fault Refusal :=
  let n := bitsOf f.imm.toNat 4 0
  s.runLanes (.eround f) f 1 (fun _ => .g) (fun C lane =>
    let p := C.prc lane
    let c := if n = 0 then prcLen p else n
    let hs := C.eRaw f.a lane
    let x := EV.read hs
    let nv := sigNV [x.v]
    if x.v.isNan && x.c ≤ c then
      if C.dstCap f.d < c then { bad := some (.capacity, 0) }
      else
        -- a NaN is read with σ = 0 (04/R99)
        let w := hs.take x.c
        let h1 := (w[1]?).getD 0 % 4096 + (c - 2) * 4096
        let h0 := (w[0]?).getD 0 % 16 + (w[0]?).getD 0 / 4096 * 4096
        { xs := C.eMerge f.d lane ([h0, h1] ++ w.drop 2 ++ List.replicate (c - x.c) 0), fl := nv }
    else
      let r := eRound (prcMode p) c x
      C.eStore f.d lane c { r with fl := r.fl ||| nv })

/-- `esig` (09/R260). -/
def execEsig (f : LF) (s : State) : Host.Outcome State Fault Refusal :=
  let op := bitsOf f.imm.toNat 9 8
  let k := bitsOf f.imm.toNat 7 0
  s.runLanes (.esig f) f 1 (fun _ => .g) (fun C lane =>
    if op = 0 then { xs := outWords false (C.eVal f.a lane).sig }
    else
      let (r, fl) := eNarrow (prcMode (C.prc lane)) (C.dstCap f.d) (C.eRaw f.a lane)
      let x := EV.read r
      let sg := if x.v.isNum then min k (ePrec x.c) else 0
      let h0 := (r[0]?).getD 0
      { xs := C.eMerge f.d lane ((h0 % 16 + sg % 256 * 16 + h0 / 4096 * 4096) :: r.drop 1), fl := fl })

end Sys2Proof.Machine
end

