-- ==== Sys2Proof/Machine/CrossLane.lean ====
section
/-!
DEFINITION. Cross-lane and mask instructions (08/R212 to R221, R223 to R225, 09/R257) and `vaway`
(14/R376).
-/

namespace Sys2Proof.Machine

/-! ### Result slots (R212) -/

/-- Writing a result slot of the team. -/
def LCtx.putSlot (C : LCtx) (k : BitVec 3) (x : Nat) : LCtx :=
  { C with slots := C.slots.set k.toNat (BitVec.ofNat 64 x) }

/-- Whether imm24 [3] asks for a slot write. -/
def hasSlot (f : LF) : Bool := f.imm.getLsbD 3

/-- The lowest active lane. -/
def LCtx.first (C : LCtx) : Nat := C.lanes.headD 0

/-- A source of another lane: in a visitor, a lane that is not carried reads as 0 (14/R369). -/
def LCtx.valAcross (C : LCtx) (ty : LType) (x : Src) (lane : Nat) : Nat :=
  if C.w ≤ lane || (C.visiting && C.away.getLsbD lane) then 0 else C.val ty x lane

/-- `vballot` (R214): it acts on the team as a whole, and under an empty mask leaves an empty destination (R213; log
entry 77). -/
def execVballot (f : LF) (s : State) : Host.Outcome State Fault Refusal :=
  s.runL (.vballot f) f.ms true (fun C =>
    if C.visiting && hasSlot f then .fault s C .notCarried 0
    else
      let on := C.lanes.filter (fun l => C.src f.a l != 0)
      let C := C.writeMask f.d (Mask.ofLanes on)
      if hasSlot f then
        .done s (C.putSlot (f.imm.extractLsb' 0 3) (on.length + on.headD 0xFFFFFFFF * 2 ^ 32))
      else .done s C)

/-- `vrank` (R215). -/
def execVrank (f : LF) (s : State) : Host.Outcome State Fault Refusal :=
  s.runLanes (.vrank f) f 1 (fun _ => .g) (fun C lane =>
    let before := (C.lanes.filter (fun l => l < lane && C.src f.a l != 0)).length
    { xs := [C.src f.b lane + BitVec.ofNat 32 before] })

/-- `vswz` (R216). -/
def execVswz (f : LF) (s : State) : Host.Outcome State Fault Refusal :=
  s.runLanes (.vswz f) f (if f.ty.isW64 then 2 else 1) (fun _ => .g) (fun C lane =>
    { xs := outWords f.ty.isW64 (C.valAcross f.ty f.a (C.src f.b lane).toNat) })

/-- `vbcast` (R217). -/
def execVbcast (f : LF) (s : State) : Host.Outcome State Fault Refusal :=
  s.runLanes (.vbcast f) f (if f.ty.isW64 then 2 else 1) (fun _ => .u) (fun C _ =>
    { xs := outWords f.ty.isW64 (C.valAcross f.ty f.a f.imm.toNat) })

/-! ### vred and vscan (R218, R219) -/

/-- One step of a reduction of integers or of f32. -/
def redStep (ty : LType) (op a b : Nat) : Nat × Flags :=
  let w := LType.width ty
  let sg := LType.signed ty
  if ty == .f32 then
    match op with
    | 0 =>
      let (v, f) := addFV 0 (fmtF32.decode a) (fmtF32.decode b)
      let (x, g) := fmtF32.round 0 false false v
      (x, f ||| g)
    | 1 => pickCode fmtF32 false a b
    | _ => pickCode fmtF32 true a b
  else
    (match op with
     | 0 => (a + b) % 2 ^ w
     | 1 => pickInt w sg false a b
     | 2 => pickInt w sg true a b
     | 3 => a &&& b
     | 4 => a ||| b
     | _ => a ^^^ b, 0)

/-- The identity of an operation. -/
def redIdentity (ty : LType) (op : Nat) : Nat :=
  let w := LType.width ty
  let sg := LType.signed ty
  match op with
  | 1 => if ty == .f32 then fmtF32.infCode else if sg then 2 ^ (w - 1) - 1 else 2 ^ w - 1
  | 2 => if ty == .f32 then fmtF32.signed true fmtF32.infCode else if sg then 2 ^ (w - 1) else 0
  | 3 => 2 ^ w - 1
  | _ => 0

/-- The partial results of a reduction, one for each value, with the flags raised up to it. -/
def partials {α : Type} (step : α → α → α × Flags) (acc : α) (fl : Flags) (xs : List α) : List (α × Flags) :=
  match xs with
  | [] => []
  | x :: r =>
    let (y, g) := step acc x
    (y, fl ||| g) :: partials step y (fl ||| g) r

/-- The partial results in lane order, the first being the first value itself. -/
def prefixes {α : Type} (step : α → α → α × Flags) (first : α → α × Flags) (xs : List α) :
    List (α × Flags) :=
  match xs with
  | [] => []
  | x :: r =>
    let (y, g) := first x
    (y, g) :: partials step y g r

/-- The results of a scan: inclusive, or exclusive with an identity for the lowest lane. -/
def scanOuts {α : Type} (ex : Bool) (ident : α) (ps : List (α × Flags)) : List (α × Flags) :=
  if ex then (ident, 0) :: ps.dropLast else ps

/-- An elastic partial result: its halfwords, its significance and whether R106 checks it. -/
structure EPart where
  hs : List Nat
  sig : Nat
  checked : Bool
  deriving DecidableEq, Repr, Inhabited

def EOut.part (r : EOut) : EPart := { hs := r.x.write, sig := r.x.sig, checked := r.checked }

/-- A step of an elastic reduction under the PRC of the lowest active lane (09/R257). -/
def eStep (p op : Nat) (a b : EPart) : EPart × Flags :=
  if op = 0 then
    let r := eAdd (prcMode p) (prcLen p) (EV.read a.hs) (EV.read b.hs)
    (r.part, r.fl)
  else
    let (r, f) := ePick (op == 2) a.hs b.hs
    ({ hs := r, sig := 0, checked := false }, f)

/-- The lowest lane's value: for add, rounded to the working length as an arithmetic result. -/
def eFirst (p op : Nat) (a : EPart) : EPart × Flags :=
  if op = 0 then
    let x := EV.read a.hs
    let r := eRound (prcMode p) (prcLen p) x
    (r.part, r.fl ||| sigNV [x.v])
  else (a, 0)

/-- +0 for add, +∞ for min, -∞ for max, at the working length. -/
def eIdentity (p op : Nat) : EPart :=
  let v : FV := if op = 0 then .fin false 0 0 else .inf (op == 2)
  { hs := ({ c := prcLen p, v := v, sig := 0 } : EV).write, sig := 0, checked := false }

/-- What a lane writes of an elastic reduction: for add, checked under the PRC of the lowest lane; for min and
max, a move. -/
def LCtx.eRedOut (C : LCtx) (d : Dst) (lane p op : Nat) (r : EPart × Flags) : LOut :=
  if op = 0 then
    if C.dstCap d < prcLen p then { bad := some (.capacity, 0) }
    else if prcPxe p && r.1.checked && r.1.sig < prcFloor p then { bad := some (.precision, 0) }
    else { xs := C.eMerge d lane r.1.hs, fl := r.2 }
  else C.eMove d lane r.1.hs r.2

/-- The elastic values of the active lanes, in lane order. -/
def LCtx.eParts (C : LCtx) (x : Src) : List EPart :=
  C.lanes.map (fun l => { hs := C.eRaw x l, sig := 0, checked := false })

/-- `vred` (R218, 09/R257): its slot is written even under an empty mask. Over one lane it gives that lane's value as it
stands, without a flag (log entry 112). -/
def execVred (f : LF) (s : State) : Host.Outcome State Fault Refusal :=
  let op := f.sub.toNat
  s.runL (.vred f) f.ms (hasSlot f) (fun C =>
    if C.visiting && hasSlot f then .fault s C .notCarried 0
    else if f.ty == .ef then
      let p := C.prc C.first
      let acc := (prefixes (eStep p op) (eFirst p op) (C.eParts f.a)).getLastD (eIdentity p op, 0)
      C.finishLanes s f.d 1 .g (C.lanes.map (fun l => (l, C.eRedOut f.d l p op acc)))
    else
      let acc := (prefixes (redStep f.ty op) (fun x => (x, 0)) (C.lanes.map (C.val f.ty f.a))).getLastD
        (redIdentity f.ty op, 0)
      let C := if hasSlot f then C.putSlot (f.imm.extractLsb' 0 3) acc.1 else C
      C.finishLanes s f.d (if f.ty.isW64 then 2 else 1) .u
        (C.lanes.map (fun l => (l, { xs := outWords f.ty.isW64 acc.1, fl := acc.2 }))))

/-- `vscan` (R219, 09/R257). Its first lane gives its value as it stands, without a flag (log entry 112). -/
def execVscan (f : LF) (s : State) : Host.Outcome State Fault Refusal :=
  let op := f.sub.toNat % 8
  let ex := f.sub.getLsbD 3
  s.runL (.vscan f) f.ms false (fun C =>
    if f.ty == .ef then
      let p := C.prc C.first
      let ps := scanOuts ex (eIdentity p op) (prefixes (eStep p op) (eFirst p op) (C.eParts f.a))
      C.finishLanes s f.d 1 .g ((C.lanes.zip ps).map (fun x => (x.1, C.eRedOut f.d x.1 p op x.2)))
    else
      let ps := scanOuts ex (redIdentity f.ty op)
        (prefixes (redStep f.ty op) (fun x => (x, 0)) (C.lanes.map (C.val f.ty f.a)))
      C.finishLanes s f.d (if f.ty.isW64 then 2 else 1) .g
        ((C.lanes.zip ps).map (fun x => (x.1, { xs := outWords f.ty.isW64 x.2.1, fl := x.2.2 }))))

/-- `vput` (R220). -/
def execVput (f : LF) (s : State) : Host.Outcome State Fault Refusal :=
  s.runL (.vput f) f.ms false (fun C =>
    if C.visiting then .fault s C .notCarried 0
    else .done s (C.putSlot (f.imm.extractLsb' 0 3) (C.val f.ty f.a C.first)))

/-- `vrdx` (R221): a visitor reads CORE and DIE of where it runs. -/
def execVrdx (f : LF) (s : State) : Host.Outcome State Fault Refusal :=
  let n := f.imm.toNat % 256
  s.runLanes (.vrdx f) f (if n = 6 then 2 else 1) (fun _ => .u) (fun C _ =>
    let x : Nat := match n with
      | 0 => C.tid
      | 1 => (s.gangOf C.t).num
      | 2 => (s.team C.t).rank
      | 3 => s.logicalCore C.part C.core
      | 4 => s.logicalDie C.part C.die
      | 5 => C.w
      | 6 => s.time.toNat
      | _ => C.blk.fmt.toNat
    { xs := outWords (n == 6) x })

/-! ### Masks (R224, R225) -/

/-- A mask computed from masks. -/
def State.runMaskOp (s : State) (i : Instr) (f : LF) (g : Mask → Mask → Mask) :
    Host.Outcome State Fault Refusal :=
  s.runL i f.ms false (fun C => .done s (C.writeMask f.d (g (C.mask f.a) (C.mask f.b))))

def execMand (f : LF) (s : State) : Host.Outcome State Fault Refusal :=
  s.runMaskOp (.mand f) f (fun a b => a &&& b)
def execMor (f : LF) (s : State) : Host.Outcome State Fault Refusal :=
  s.runMaskOp (.mor f) f (fun a b => a ||| b)
def execMxor (f : LF) (s : State) : Host.Outcome State Fault Refusal :=
  s.runMaskOp (.mxor f) f (fun a b => a ^^^ b)
def execMnot (f : LF) (s : State) : Host.Outcome State Fault Refusal :=
  s.runMaskOp (.mnot f) f (fun a _ => ~~~a)

/-- Whether a source names a mask. -/
def isMaskSrc (x : Src) : Bool := match x with | .reg (.m _) => true | _ => false
def isMaskDst (d : Dst) : Bool := match dstReg d with | some (.m _) => true | _ => false

/-- `mmov` (R225): a `v` destination with a V32 source is refused by the decoder. -/
def execMmov (f : LF) (s : State) : Host.Outcome State Fault Refusal :=
  if isMaskDst f.d then
    s.runMask (.mmov f) f (fun C lane =>
      (if isMaskSrc f.a then (C.mask f.a).getLsbD lane else C.src f.a lane != 0, 0))
  else
    s.runLanes (.mmov f) f 1 (fun _ => .g) (fun C lane =>
      { xs := [if (C.mask f.a).getLsbD lane then 1 else 0] })

/-- `vaway` (14/R376): the away mask, for all lanes; in a visitor, 0 for the carried lanes. -/
def execVaway (f : LF) (s : State) : Host.Outcome State Fault Refusal :=
  s.runL (.vaway f) 0 true (fun C =>
    match dstReg f.d with
    | some (.m k) =>
      let m : Mask := if C.visiting then C.regs.m[k.toNat] &&& C.away else C.away
      .done s { C with regs := { C.regs with m := C.regs.m.set k.toNat m } }
    | _ => .done s C)

end Sys2Proof.Machine
end

