-- ==== Sys2Proof/Machine/FaultQ.lean ====
section
/-!
DEFINITION. The fault queue (15/R394 to R397): the sources that wait to post an entry, posting one, and
resolving one by `eret` or FQDONE.
-/

namespace Sys2Proof.Machine

/-! ### Holds -/

/-- A hold that has neither an entry nor a resolution. -/
def Hold.unposted (h : Hold) : Bool := h.seq.isNone && h.res.isNone

/-- What the sources of a partition that wait to post are, in the model's own order: streams of resident
gangs, visitors, kettles, engines, caddies, and gangs pre-empted by a trap. -/
def State.pendingHolds (s : State) (p : Nat) : List (HSrc × Hold) :=
  let of (who : HSrc) (h : Option Hold) : List (HSrc × Hold) :=
    match h with
    | some h => if h.unposted then [(who, h)] else []
    | none => []
  let svcHold (T : Team) : Option Hold :=
    match T.wait with
    | .svc n none => some { cause := .user, addr := n.setWidth 64, write := false, exec := false, seq := none, res := none }
    | _ => none
  let team (t : Nat) : List (HSrc × Hold) :=
    if s.partOf t == p && (s.gangOf t).phase == .resident then
      let T := s.team t
      of (.s t) T.shold ++ of (.svc t) (svcHold T) ++
        (List.range 4).flatMap (fun k => of (.slot t k) ((vget T.oplog k).bind (·.hold))) ++
        of (.fetch t) (T.blk.bind (·.fetchHold)) ++
        (if T.blk.isNone then of (.fetch t) (T.held.bind (·.fetchHold)) else [])
    else []
  let chain (k : Chain) : List (HSrc × Hold) :=
    if s.partOf k.team == p then
      of (.chainFetch k.arrived) k.hold ++ k.recs.flatMap (fun r => of (.chan r.num) r.hold)
    else []
  (List.range s.teams.length).flatMap team ++
    (List.range s.visitors.length).flatMap (fun v =>
      match s.visitors[v]? with
      | some V => if V.alive && V.cont.part == p then of (.visitor v) V.hold else []
      | none => []) ++
    s.clusters.toList.flatMap (fun c => c.channels.toList.flatMap (fun l => l.flatMap chain)) ++
    s.clusters.toList.flatMap (fun c => c.jobs.flatMap (fun j =>
      if (s.gang j.gang).part == p then of (.job j.arrived) j.hold else []) ++
      c.latches.flatMap (fun h => if (s.gang h.gang).part == p then of (.crew h.mem.team) h.hold else [])) ++
    (List.range s.caddySets.length).flatMap (fun k =>
      match s.caddySets[k]? with
      | some S => if S.part == p then
          (List.range S.caddies.length).flatMap (fun j =>
            of (.caddy k j) ((S.caddies[j]?).bind (·.hold))) else []
      | none => []) ++
    (List.range s.gangs.length).flatMap (fun g =>
      let G := s.gang g
      if G.part == p && G.phase == .saved then of (.trap g) (G.unhandled.map (·.2)) else [])

/-- Changing the hold of a source. -/
def State.modHold (s : State) (who : HSrc) (f : Hold → Hold) : State :=
  let chains (put : Chain → Chain) : State :=
    { s with
      clusters := s.clusters.map (fun (c : Cluster) =>
        { c with channels := c.channels.map (fun (l : List Chain) => l.map put) }),
      gangs := s.gangs.map (fun (G : Gang) => { G with chains := G.chains.map (fun x => (x.1, put x.2)) }) }
  match who with
  | .s t => s.modTeam t (fun T => { T with shold := T.shold.map f })
  | .slot t k => s.modTeam t (fun T =>
      { T with oplog := vmod T.oplog k (fun o => o.map (fun (x : Slot) => { x with hold := x.hold.map f })) })
  | .fetch t => s.modTeam t (fun T =>
      { T with blk := T.blk.map (fun (b : Blk) => { b with fetchHold := b.fetchHold.map f }),
               held := T.held.map (fun (b : Blk) => { b with fetchHold := b.fetchHold.map f }) })
  | .visitor v => s.modVisitor v (fun V => { V with hold := V.hold.map f })
  | .chan n => chains (fun k =>
      { k with recs := k.recs.map (fun (r : KRec) => if r.num == n then { r with hold := r.hold.map f } else r) })
  | .chainFetch a => chains (fun k => if k.arrived == a then { k with hold := k.hold.map f } else k)
  | .crew t =>
    { s with clusters := s.clusters.map (fun (c : Cluster) =>
        { c with latches := c.latches.map (fun (h : Held) =>
            if h.mem.team == t then { h with hold := h.hold.map f } else h) }) }
  | .job a =>
    let put (j : Job) : Job := if j.arrived == a then { j with hold := j.hold.map f } else j
    { s with
      clusters := s.clusters.map (fun (c : Cluster) => { c with jobs := c.jobs.map put }),
      gangs := s.gangs.map (fun (G : Gang) => { G with jobs := G.jobs.map put }) }
  | .caddy set k => s.modCaddy set k (fun c => { c with hold := c.hold.map f })
  | .trap g => s.modGang g (fun G => { G with unhandled := G.unhandled.map (fun x => (x.1, f x.2)) })
  | .svc _ => s

/-- Changing the hold of a source that has no entry: of a team's lane fetches that of the block that runs, whatever the held block
waits for (R395). -/
def State.modFresh (s : State) (who : HSrc) (f : Hold → Hold) : State :=
  match who with
  | .fetch t => s.modTeam t (fun T =>
      match T.blk with
      | some b => { T with blk := some { b with fetchHold := b.fetchHold.map f } }
      | none => { T with held := T.held.map (fun (b : Blk) => { b with fetchHold := b.fetchHold.map f }) })
  | who => s.modHold who f

/-! ### Posting (R394) -/

/-- The chain whose record, or whose fetch, is held. -/
def State.holdChain (s : State) (who : HSrc) : Option Chain :=
  (s.clusters.toList.flatMap (fun c => c.channels.toList.flatMap id) ++
    s.gangs.flatMap (fun G => G.chains.map (·.2))).find? (fun k =>
      match who with
      | .chan n => k.recs.any (·.num == n)
      | .chainFetch a => k.arrived == a
      | _ => false)

/-- The team that an entry names, and the gang that a KILL removes. -/
def State.holdTeam (s : State) (who : HSrc) : Option Nat :=
  match who with
  | .s t | .slot t _ | .fetch t | .svc t | .crew t => some t
  | .visitor v => (s.visitors[v]?).map (·.cont.team)
  | .chan _ | .chainFetch _ => (s.holdChain who).map (·.team)
  | .job a =>
    ((s.clusters.toList.flatMap (·.jobs) ++ s.gangs.flatMap (·.jobs)).find? (·.arrived == a)).bind
      (fun j => j.members.head?.map (·.team))
  | .caddy _ _ => none
  | .trap g => (s.gang g).unhandled.map (·.1)

/-- SOURCE, and the address of the instruction that an entry reports. -/
def State.holdSource (s : State) (who : HSrc) : Nat × Nat :=
  match who with
  | .s t | .svc t => (0, (s.team t).spc.toNat)
  | .slot t k => (1, match vget (s.team t).oplog k with | some x => x.lpc.toNat | none => 0)
  | .fetch t => (2, match (s.team t).blk.or (s.team t).held with | some b => b.lpc.toNat | none => 0)
  | .visitor v => (3, match s.visitors[v]? with | some V => V.cont.blk.lpc.toNat | none => 0)
  | .chan _ | .chainFetch _ => (4, match s.holdChain who with | some k => k.spc.toNat | none => 0)
  | .crew t => (5, (s.team t).spc.toNat)
  | .job a =>
    (5, match ((s.clusters.toList.flatMap (·.jobs)).find? (·.arrived == a)).bind (fun j => j.members.head?) with
        | some m => m.spc.toNat
        | none => 0)
  | .caddy _ _ => (6, 0)
  | .trap g => (7, match (s.gang g).unhandled with | some x => (s.team x.1).tspc.toNat | none => 0)

/-- The launch that an entry names: for the blend unit, the oldest that shares the caddy set. -/
def State.holdLseq (s : State) (who : HSrc) : Word :=
  match who with
  | .caddy set _ => match s.caddySets[set]? with | some S => s.oldestLseq S | none => 0
  | _ => match s.holdTeam who with | some t => (s.launchOf t).lseq | none => 0

/-- The 64 bytes of an entry (15/R394). -/
def State.fqEntry (s : State) (who : HSrc) (h : Hold) (seq : Word) : List Byte :=
  let (src, pc) := s.holdSource who
  let T := match s.holdTeam who with | some t => s.team t | none => .blank
  let tid : Word := match s.holdTeam who with | some t => BitVec.ofNat 32 (s.team t).tid | none => 0xFFFFFFFF
  let (kind, cause, addr, arg0, arg1) : Nat × Nat × Nat × Nat × Nat := match who with
    | .svc _ =>
      (2, 0, h.addr.toNat, (T.rdp 4).toNat, (T.rdp 6).toNat)
    | .trap g =>
      (3, causeCode h.cause, T.taddr.toNat, T.tlpc.toNat + T.tlog.toNat * 2 ^ 32,
        match (s.gang g).image with | some i => i.addr.toNat | none => 0)
    | _ => (1, causeCode h.cause, h.addr.toNat, (if h.write then 1 else 0) + (if h.exec then 2 else 0), 0)
  leBytes 4 (kind * 2 ^ 24 + src * 2 ^ 16 + cause * 2 ^ 8) ++ w32le tid ++ w32le (s.holdLseq who) ++
    zeros 4 ++ leBytes 8 addr ++ leBytes 8 pc ++ leBytes 8 arg0 ++ leBytes 8 arg1 ++ zeros 8 ++
    w32le seq ++ zeros 4

/-- An `svc` whose entry is posted. -/
def Wait.posted (w : Wait) (seq : Word) : Wait :=
  match w with
  | .svc n _ => .svc n (some seq)
  | w => w

/-- Posting the entry of a source: the ring takes it and FQTAIL rises; in host mode vector 4p + 1 is
raised. -/
def State.postEntry (s : State) (p : Nat) (who : HSrc) (h : Hold) : State :=
  let P := s.part p
  let seq := P.fq.tail
  let s := s.writeEntry p (P.fq.slot 64 seq) (s.fqEntry who h seq)
  let s := s.modPart p (fun P =>
    { P with fq := { P.fq with tail := P.fq.tail + 1 }, fqOpen := P.fqOpen ++ [{ seq := seq, who := who, gen := P.fqGen }] })
  let s := s.modFresh who (fun h => { h with seq := some seq })
  let s := match who with
    | .svc t => s.modTeam t (fun T => { T with wait := T.wait.posted seq })
    | _ => s
  if P.fq.ctl.getLsbD 30 then s else s.irq (4 * p + 1)

/-! ### Resolving (R389, R395, R396) -/

/-- A resolved `svc`: in the wait, or in the wait that a trap has set aside. -/
def Wait.resolve (w : Wait) (seq : Word) (r : Resol) (x : DWord) : Wait :=
  match w with
  | .svc _ (some q) => if q == seq then .svcDone r x else w
  | w => w

/-- A gang saved after a trap without a handler is queued for resumption (R397). -/
def State.requeue (s : State) (g : Nat) : State :=
  s.modLaunch (s.gang g).launch (fun L =>
    { L with resumed := insertBy (fun a b => (s.gang a).num ≤ (s.gang b).num) g L.resumed })

/-- A hold that has an entry, with the entry's resolution. -/
def Hold.mark (seq : Word) (r : Resol) (h : Hold) : Hold :=
  if h.seq == some seq && h.res.isNone then { h with res := some r } else h

/-- The holds of a partition's pre-empted visitors, which are kept with the resolutions of their entries (R396). -/
def State.markKept (s : State) (p : Nat) (seq : Word) (r : Resol) : State :=
  let put (c : Cont) : Cont := if c.part == p then { c with held := c.held.map (Hold.mark seq r) } else c
  { s with
    channel := s.channel.map put, dies := s.dies.map (fun (d : Die) => { d with inbox := d.inbox.map put }),
    gangs := s.gangs.map (fun (G : Gang) => { G with roam := G.roam.map put }),
    visitors := s.visitors.map (fun (v : Visitor) =>
      if v.cont.part == p then { v with hold := v.hold.map (Hold.mark seq r) } else v) }

/-- The open entry of a sequence number: that which was posted under an enabling of the queue, or the newest. Entries that are open
when the queue is disabled stay open under the numbers that they have (DESIGN CHOICE: R394 counts SEQ from the last enabling, and
does not say what becomes of them; log entry 129). -/
def Part.openOf (P : Part) (seq : Word) (gen : Option Nat) : Option FqOpen :=
  P.fqOpen.reverse.find? (fun o => o.seq == seq && (match gen with | some g => o.gen == g | none => true))

/-- Applying a resolution to an open entry; without one, nothing. A gang that was removed meanwhile is not affected, and one that
has been pre-empted is when it resumes (R396). The partition's walks that are under way end: a replay walks anew, after what was
stored before (R389, 16/R420). -/
def State.resolve (s : State) (p : Nat) (entry : Option FqOpen) (r : Resol) (result : DWord) : State :=
  match entry with
  | none => s
  | some o =>
    let seq := o.seq
    let s := { s with walks := s.walks.filter (·.part != p) }.modPart p (fun P =>
      { P with fqOpen := P.fqOpen.filter (fun x => x != o) })
    let gone : Bool := match o.who with
      | .trap _ | .caddy _ _ => false
      | who => (match s.holdTeam who with | some t => (s.gangOf t).phase == .removed | none => false)
    if gone then s
    else
    let mark (s : State) (r : Resol) : State :=
      let s := s.modHold o.who (Hold.mark seq r)
      match o.who with
      | .visitor _ => s.markKept p seq r
      | _ => s
    let answer (s : State) (t : Nat) (r : Resol) : State :=
      s.modTeam t (fun T =>
        { T with wait := T.wait.resolve seq r result, savedWait := T.savedWait.resolve seq r result })
    -- a gang that is not resident is removed when it runs on
    let kill (s : State) (t : Nat) : State :=
      let g := (s.team t).gang
      if (s.gang g).phase == .resident then s.removeGang g else s.modGang g (fun G => { G with killed := true })
    match o.who, r with
    | .caddy _ _, .kill => mark s .fail
    | .trap g, .retry => if (s.gang g).phase == .saved then (mark s .retry).requeue g else s
    | .trap g, _ => s.removeGang g
    | .svc t, .kill => kill (answer s t .kill) t
    | .svc t, r => answer s t r
    | who, .kill =>
      match s.holdTeam who with
      | some t => kill (mark s .kill) t
      | none => s
    | _, r => mark s r

/-- The resolution that RESOL codes (R394). -/
def resolOf (x : Nat) : Resol := if x = 0 then .retry else if x = 1 then .fail else .kill

/-- Reading RESOL and RESULT of an entry at its physical address, and applying them. -/
def State.resolveAt (s : State) (p pa : Nat) (entry : Option FqOpen) : State :=
  let d := (s.part p).place pa 64
  let bs := s.readAt p d.1 d.2 64
  (s.pcie p d.1 64).resolve p entry (resolOf (bitsOf (natAt bs 0x0C 4) 1 0)) (dwordAt bs 0x30)

/-! ### The event FAULT_QUEUE_POST -/

/-- A source that waits to post does so when the ring has room (R395). When the queue has been turned off, it
is resolved FAIL at once; an `svc` issues again, and a gang that waits to be reported is removed (R393,
R397). -/
def execFaultQueuePost (part n : Nat) (s : State) : Host.Outcome State Fault Refusal :=
  match (s.pendingHolds part)[n]? with
  | none => .next s
  | some (who, h) =>
    let P := s.part part
    if !P.fqOn then
      match who with
      | .svc t => .next (s.modTeam t (fun T => { T with wait := .none }))
      | .trap g => .next (s.removeGang g)
      | _ => .next (s.modFresh who (fun h => { h with res := some .fail }))
    else if P.fq.full || s.pcieHeld part (P.place (P.fq.slot 64 P.fq.tail) 64).1 then .next s
    else .next (s.postEntry part who h)

end Sys2Proof.Machine
end

