-- ==== Sys2Proof/Machine/LaneQueue.lean ====
section
/-!
DEFINITION. Starting and waiting for lane work (07/R167, R168), the register count (02/R50, 07/R169), and
circles (02/R45, 07/R170, R171).
-/

namespace Sys2Proof.Machine

/-! ### lrun, lwait, lget -/

/-- Entries of the lane queue that count among the 8 (02/R32, 03/R55). -/
def Team.queueLen (T : Team) : Nat := T.laneQ.length + (if T.blk.isSome then 1 else 0)

/-- s16 to s31. -/
def params16 : List (BitVec 6) := (List.range 16).map (fun k => BitVec.ofNat 6 (16 + k))

def execLrun (index : BitVec 26) (s : State) : Host.Outcome State Fault Refusal :=
  s.runS params16 (fun t T =>
    if 8 ≤ T.queueLen then .wait s
    else
      let q : LQ := { index := index,
                      params := Vector.ofFn (fun k : Fin 16 => T.s[16 + k.val]),
                      rkey := T.rkey, migctl := T.migctl, n := T.n, sMark := s.nextId, low := T.low }
      .done ({ s with nextId := s.nextId + 1 }.setTeam t { T with laneQ := T.laneQ ++ [q], low := T.n }))

def execLwait (s : State) : Host.Outcome State Fault Refusal :=
  s.runS [] (fun t T => if T.laneIdle then .done (s.joinLanes t) else .wait s)

def execLget (d : BitVec 6) (slot : BitVec 3) (s : State) : Host.Outcome State Fault Refusal :=
  s.runS (both d) (fun t T =>
    if T.laneIdle then .done ((s.setTeam t (T.wrp d T.slots[slot.toNat])).joinLanes t) else .wait s)

/-! ### grow, shrink -/

/-- Rows that 8k registers take in a team (02/R50). -/
def Team.rowsOf (T : Team) (k : BitVec 4) : Nat := rowsFor (8 * k.toNat) T.w

/-- The team with registers added: they read as 0 for the blocks enqueued after it, also where blocks enqueued before an
earlier `shrink` still use registers of their numbers (R50, R169). -/
def Team.grown (T : Team) (k : BitVec 4) : Team :=
  { T with
    n := T.n + 8 * k.toNat, rows := T.rows + T.rowsOf k,
    regs := { T.regs with v := T.regs.v ++ List.replicate (T.n + 8 * k.toNat - T.regs.v.length) (.u 0) } }

/-- `grow` (R50, R169): WINDOW before GROW, the lower code. It waits in its core's request order until the
pool can grant all its rows. -/
def execGrow (k : BitVec 4) (s : State) : Host.Outcome State Fault Refusal :=
  s.runS [] (fun t T =>
    if T.wcodes != 0 then .trap s .window 0
    else if (s.descOf t).nmax < T.n + 8 * k.toNat then .trap s .grow 0
    else
      let c := s.core T.core
      let first := match c.growQ with | [] => true | u :: _ => u == t
      if first && T.rowsOf k ≤ s.freeRows T.core then
        let s := s.modCore T.core (fun c => { c with growQ := c.growQ.filter (· != t) })
        .done (s.setTeam t (T.grown k))
      else
        let s := s.modCore T.core (fun c =>
          if c.growQ.contains t then c else { c with growQ := c.growQ ++ [t] })
        .wait (s.setTeam t { T with wait := .grow }))

/-- The blocks of a team that have not ended: the lane queue, the running block, and what a trap has set
aside. -/
def Team.blocks (T : Team) : List LQ :=
  (match T.blk with | some b => [b.lq] | none => []) ++ (match T.held with | some b => [b.lq] | none => []) ++
    T.laneQ ++ T.asideQ

/-- The registers and rows of a `shrink` go once every block enqueued before it has ended (R169). -/
def Team.settleShrinks (T : Team) : Team :=
  let ready := T.shrinks.filter (fun x => T.blocks.all (fun q => x.1 ≤ q.sMark))
  let n := (ready.map (·.2)).sum
  { T with
    shrinks := T.shrinks.filter (fun x => !ready.contains x),
    rows := T.rows - rowsFor n T.w, regs := { T.regs with v := T.regs.v.take ((T.blocks.map (·.n)).foldl max T.n) } }

/-- `shrink`: N falls for the blocks enqueued after it; the registers and their rows go once every block
enqueued before it has ended (R169). -/
def execShrink (k : BitVec 4) (s : State) : Host.Outcome State Fault Refusal :=
  s.runS [] (fun t T =>
    if T.wcodes != 0 then .trap s .window 0
    else if T.n < 8 * k.toNat + 8 then .trap s .grow 0
    else
      let n := T.n - 8 * k.toNat
      .done (s.setTeam t (
        { T with n := n, low := min T.low n, shrinks := T.shrinks ++ [(s.nextId, 8 * k.toNat)] }.settleShrinks)))

/-! ### Circles -/

def execCjoin (kind : BitVec 1) (n : BitVec 6) (s : State) : Host.Outcome State Fault Refusal :=
  s.runS [] (fun t T =>
    match s.circle t (kind == 1) n.toNat with
    | none => .trap s .membership 0
    | some _ =>
      .done (s.modCircle t (kind == 1) n.toNat (fun c => c.join (T.circleName (kind == 1)))))

def execCleave (kind : BitVec 1) (n : BitVec 6) (s : State) : Host.Outcome State Fault Refusal :=
  s.runS [] (fun t T =>
    match s.circle t (kind == 1) n.toNat with
    | none => .trap s .membership 0
    | some _ =>
      .done (s.modCircle t (kind == 1) n.toNat (fun c => c.leave (T.circleName (kind == 1)))))

/-- Scope of a circle: gang for a gang circle, device for a launch circle (R171). -/
def circleScope (kind : BitVec 1) : Nat := if kind == 1 then 3 else 1

/-- `csync`: its arrival is a release, performed once; it blocks until the phase it arrived in has been
released (02/R45, 07/R171, 15/R403). -/
def execCsync (kind : BitVec 1) (n : BitVec 6) (s : State) : Host.Outcome State Fault Refusal :=
  s.runS [] (fun t T =>
    let l := kind == 1
    match s.circle t l n.toNat with
    | none => .trap s .membership 0
    | some c =>
      match T.wait with
      | .csync _ _ p => if c.phase == p then .wait s else .done s
      | _ =>
        if !c.members.contains (T.circleName l) then .trap s .membership 0
        else if !s.sReleased t (circleScope kind) then .wait s
        else
          let s' := s.modCircle t l n.toNat (fun c => c.arrive (T.circleName l))
          match s'.circle t l n.toNat with
          | some c' =>
            if c'.phase == c.phase then
              .wait (s'.modTeam t (fun T => { T with wait := .csync l n.toNat c.phase }))
            else .done s'
          | none => .done s')

def execCinfo (d : BitVec 6) (kind : BitVec 1) (n : BitVec 6) (s : State) :
    Host.Outcome State Fault Refusal :=
  s.runS (both d) (fun t T =>
    match s.circle t (kind == 1) n.toNat with
    | none => .trap s .membership 0
    | some c =>
      let (count, rank) := c.info (T.circleName (kind == 1))
      .done (s.setTeam t ((T.wr d count).wr (d + 1) rank)))

end Sys2Proof.Machine
end

