-- ==== Sys2Proof/Machine/LaneControl.lean ====
section
/-!
DEFINITION. Lane control (02/R37 to R39, 08/R226 to R231), `vstage` (08/R211), `vfence` (08/R210), and the
waiting points at which lanes re-assemble (14/R371 to R379): `lhome`, `lret` and `vsync` (08/R222).
-/

namespace Sys2Proof.Machine

/-! ### Conditionals and loops -/

/-- The index that an offset reaches. -/
def Blk.offset (b : Blk) (imm : BitVec 24) : BitVec 26 := b.lpc + imm.signExtend 26

/-- A block with a new path mask. -/
def LCtx.withPath (C : LCtx) (m : Mask) : LCtx := { C with blk := { C.blk with path := m } }

/-- A lane-control instruction: it acts on the team as a whole (02/R30). -/
def State.runCtl (s : State) (i : Instr) (f : LCtx → LEff) : Host.Outcome State Fault Refusal :=
  s.runL i 0 true f

/-- ILLEGAL at a lane instruction. -/
def State.lIllegal (s : State) (C : LCtx) : LEff := .fault s C .illegal (s.lAddr C)

/-- Pushing an entry, or RECONVERGENCE_OVERFLOW. -/
def LCtx.push (C : LCtx) (s : State) (rpc : BitVec 26) (k : RKind) (g : LCtx → LEff) : LEff :=
  if 32 ≤ C.blk.stack.length then .fault s C .reconvergenceOverflow 0
  else g { C with blk := { C.blk with
    stack := { mask := C.blk.path, fmt := C.blk.fmt, rpc := rpc, kind := k } :: C.blk.stack } }

def execLif (f : LF) (s : State) : Host.Outcome State Fault Refusal :=
  s.runCtl (.lif f) (fun C =>
    let t := C.blk.offset f.imm
    C.push s (t + 1) .ifK (fun C =>
      let a := C.blk.path &&& C.mask f.a
      if a = 0 then .jump s (C.withPath a) t else .done s (C.withPath a)))

def execLelse (f : LF) (s : State) : Host.Outcome State Fault Refusal :=
  s.runCtl (.lelse f) (fun C =>
    match C.blk.stack with
    | t :: r =>
      if t.kind != .ifK then s.lIllegal C
      else
        let i := C.blk.offset f.imm
        let a := Mask.minus t.mask C.blk.path
        let C := { C with blk := { C.blk with
          path := a, fmt := t.fmt, stack := { t with kind := .elseK, rpc := i + 1 } :: r } }
        if a = 0 then .jump s C i else .done s C
    | [] => s.lIllegal C)

def execLfi (f : LF) (s : State) : Host.Outcome State Fault Refusal :=
  s.runCtl (.lfi f) (fun C =>
    match C.blk.stack with
    | t :: r =>
      if t.kind == .loopK then s.lIllegal C
      else .done s { C with blk := { C.blk with path := t.mask, fmt := t.fmt, stack := r } }
    | [] => s.lIllegal C)

def execLdo (f : LF) (s : State) : Host.Outcome State Fault Refusal :=
  s.runCtl (.ldo f) (fun C => C.push s (C.blk.offset f.imm + 1) .loopK (fun C => .done s C))

def execLwhile (f : LF) (s : State) : Host.Outcome State Fault Refusal :=
  s.runCtl (.lwhile f) (fun C =>
    match C.blk.stack with
    | t :: r =>
      if t.kind != .loopK then s.lIllegal C
      else
        let a := C.blk.path &&& C.mask f.a
        if a = 0 then
          .jump s { C with blk := { C.blk with path := t.mask, fmt := t.fmt, stack := r } } t.rpc
        else .done s (C.withPath a)
    | [] => s.lIllegal C)

def execLod (f : LF) (s : State) : Host.Outcome State Fault Refusal :=
  s.runCtl (.lod f) (fun C =>
    match C.blk.stack with
    | t :: _ => if t.kind != .loopK then s.lIllegal C else .jump s C (C.blk.offset f.imm + 1)
    | [] => s.lIllegal C)

/-! ### lfmt, ltrap, lnop, vstage -/

def execLfmt (f : LF) (s : State) : Host.Outcome State Fault Refusal :=
  s.runCtl (.lfmt f) (fun C =>
    let x : Word := (f.imm.extractLsb' 0 8).setWidth 32
    if fmtOk x then .done s { C with blk := { C.blk with fmt := x } }
    else .fault s C .reservedField (s.lAddr C))

/-- `ltrap` (R231): USER for every lane of the effective mask; on `tresume` those lanes complete it without
effect. At home the block therefore stands after it; a visitor is sent out again behind it (log entry 78). -/
def execLtrap (f : LF) (s : State) : Host.Outcome State Fault Refusal :=
  s.runCtl (.ltrap f) (fun C =>
    if C.eff = 0 then .done s C
    else
      match C.who with
      | .l t =>
        let i := C.blk.lpc
        let s := (s.putL { C with blk := { C.blk.pass with lpc := i + 1 } }).charge C.part 0 (Mask.passes C.eff)
        .over (s.raiseL t { cause := .user, taddr := f.imm.setWidth 64, tlpc := i, lanes := C.eff,
                            slot := none, redoFrom := none, sseq := none, visitor := none })
      | _ => .fault s C .user (f.imm.setWidth 64))

def execLnop (f : LF) (s : State) : Host.Outcome State Fault Refusal :=
  s.runCtl (.lnop f) (fun C => .done s C)

/-- `vstage` (R211): the lowest cause of its checks, or the new staged set. -/
def execVstage (ew : Bool) (imm : BitVec 64) (s : State) : Host.Outcome State Fault Refusal :=
  s.runCtl (.vstage ew imm) (fun C =>
    let l := stagedList imm
    let k := windowCells C.wcodes
    if C.visiting then .fault s C .notCarried 0
    else if l.any (C.n ≤ ·) then s.lIllegal C
    else if 16 < l.length then .fault s C .reservedField (s.lAddr C)
    else if (k != 0 && l.any (fun r => C.n - k ≤ r)) || (ew && 32 < l.length + k) then
      .fault s C .window 0
    else .done s { C with blk := { C.blk with staged := imm, ew := ew } })

/-! ### Orders of an L-issue point (R207, R210) -/

/-- The entries in flight of the issue point. -/
def State.lOwn (s : State) (C : LCtx) : List Entry := s.flight.filter (fun e => e.owner == C.who)

/-- The earlier accesses of an issue point (10/R274): a visitor does not inherit its team's (14/R381). -/
def State.earlierOf (s : State) (C : LCtx) : List Entry :=
  match C.who with
  | .v v => s.vEarlier v
  | _ => s.lEarlier C.t C.blk.lq.sMark

/-- Adding an order to the issue point. -/
def State.addLOrd (s : State) (C : LCtx) (o : Ord) : State :=
  match C.who with
  | .l t => s.modTeam t (fun T => { T with lOrd := o :: s.pruneOrd T.lOrd })
  | .v v => s.modVisitor v (fun V => { V with ord := o :: s.pruneOrd V.ord })
  | _ => s

/-- `vfence` (08/R210) gathers every earlier access of the issue point, the S accesses before the block's `lrun` among
them (10/R272, R274). -/
def execVfence (f : LF) (s : State) : Host.Outcome State Fault Refusal :=
  s.runL (.vfence f) 0 true (fun C =>
    .done (s.addLOrd C (fenceOrd (f.md.toNat / 4) f.sub.toNat (s.earlierOf C))) C)

/-! ### Re-assembly (14/R371 to R379) -/

/-- A visitor's return at the current instruction (R371). -/
def State.visitorReturn (s : State) (C : LCtx) (kind : Nat) : LEff :=
  match C.who with
  | .v v =>
    match s.visitors[v]? with
    | some V =>
      .over ((s.charge C.part 0 (Mask.passes C.eff)).returnHome v kind C.blk.lpc V.cont.tidx 0 none 0)
    | none => .wait s
  | _ => .wait s

/-- Whether a continuation of a block is in flight: departing, hopping, standing in an inbox or running. -/
def State.blockRoaming (s : State) (t mark : Nat) (m : Mask) : Bool :=
  let mine (c : Cont) : Bool := c.team == t && c.blk.lq.sMark == mark && c.lanes &&& m != 0
  s.channel.any mine || s.visitors.any (fun v => v.alive && mine v.cont) ||
    s.dies.toList.any (fun d => d.inbox.any mine)

/-- The returned continuations of a block. -/
def Team.backs (T : Team) (mark : Nat) : List Returned := T.returned.filter (·.block == mark)

/-- Lanes that returned rejoin: they leave the away mask. -/
def Team.rejoin (T : Team) (rs : List Returned) : Team :=
  { T with away := rs.foldl (fun m r => Mask.minus m r.lanes) T.away,
           returned := T.returned.filter (fun r => !rs.contains r) }

/-- Whether a continuation returned normally at an index with KIND 1 or 2. -/
def Returned.normalAt (r : Returned) (i : BitVec 26) : Bool := (r.kind == 1 || r.kind == 2) && r.lpc == i

/-- Delivering the trap of a returned continuation at a waiting point (R377). -/
def State.deliverVisitor (s : State) (t : Nat) (C : LCtx) (r : Returned) : State :=
  let s := s.modTeam t (fun T =>
    T.rejoin (r :: (T.backs C.blk.lq.sMark).filter (·.normalAt C.blk.lpc)))
  s.raiseL t { cause := r.cause.getD .user, taddr := r.taddr, tlpc := r.tidx, lanes := r.redo, slot := none,
               redoFrom := none, sseq := none, visitor := some r }

/-- The first trapped continuation of some that returned. -/
def firstTrap (rs : List Returned) : Option Returned := rs.find? (·.kind == 4)

/-- `lhome` (R229, R374, R375). -/
def execLhome (f : LF) (s : State) : Host.Outcome State Fault Refusal :=
  s.runCtl (.lhome f) (fun C =>
    if C.visiting then s.visitorReturn C 1
    else
      let t := C.t
      let backs := (s.team t).backs C.blk.lq.sMark
      if s.blockRoaming t C.blk.lq.sMark (~~~0) then .wait s
      else
        match firstTrap backs with
        | some r => .over (s.deliverVisitor t C r)
        | none => .done (s.modTeam t (fun T => T.rejoin (backs.filter (·.normalAt C.blk.lpc)))) C)

/-- The end of a block (02/R39, 08/R228): FMT keeps its value, and rows that wait for it go. -/
def Team.endBlock (T : Team) (fmt : Word) : Team := { T with blk := none, fmt := fmt, lblocked := false }.settleShrinks

/-- `lret` (R228). -/
def execLret (f : LF) (s : State) : Host.Outcome State Fault Refusal :=
  s.runCtl (.lret f) (fun C =>
    if C.visiting then s.visitorReturn C 2
    else
      let t := C.t
      let backs := (s.team t).backs C.blk.lq.sMark
      if s.blockRoaming t C.blk.lq.sMark (~~~0) then .wait s
      else
        match firstTrap backs with
        | some r => .over (s.deliverVisitor t C r)
        | none =>
          .over ((s.modTeam t (fun T => (T.rejoin backs).endBlock C.blk.fmt)).charge C.part 0
            (Mask.passes C.eff)))

/-- The number of the mask register that a source names. -/
def maskNum (x : Src) : Nat := match x with | .reg (.m k) => k.toNat | _ => 0

/-- `vsync` (R222, R379). When it faults MEMBERSHIP for what has returned, the lanes that returned here and agree have rejoined, and
the others stay away with their returns (DESIGN CHOICE: R222 says which lanes `m7` names, and not which rejoin; log entry
130). -/
def execVsync (f : LF) (s : State) : Host.Outcome State Fault Refusal :=
  s.runL (.vsync f) 0 true (fun C =>
    if C.visiting then s.visitorReturn C 3
    else
      let t := C.t
      let m := C.mask f.a
      let e := C.eff
      if Mask.minus e m != 0 || Mask.minus m (e ||| C.away) != 0 then .fault s C .membership 0
      else if s.blockRoaming t C.blk.lq.sMark m then .wait s
      else
        let backs := ((s.team t).backs C.blk.lq.sMark).filter (fun r => r.lanes &&& m != 0)
        match firstTrap backs with
        | some r => .over (s.deliverVisitor t C r)
        | none =>
          let here (r : Returned) : Bool :=
            r.kind == 3 && r.lpc == C.blk.lpc && !r.disagree.contains (maskNum f.a)
          let s' := s.modTeam t (fun T => T.rejoin (backs.filter here))
          let all := backs.foldl (fun a r => a ||| r.lanes) e
          if backs.all here then
            -- the fence of the lanes of M
            let mine := (s.lOwn C).filter (fun x => match x.lane with | some l => m.getLsbD l | none => false)
            .done (s'.addLOrd C (fenceOrd 3 1 mine)) { C with eff := all }
          else .fault s' { C with eff := all } .membership 0)

end Sys2Proof.Machine
end

