-- ==== Sys2Proof/Machine/Depart.lean ====
section
/-!
DEFINITION. Lanes that depart (14/R360 to R363, R370): the groups of an instruction's migrating lanes, the
tests that may refuse a group, and the continuation that an accepted group becomes.
-/

namespace Sys2Proof.Machine

/-- A lane that migrates: the lane, the die of its page, the page's REFUSE_MODE, the lane's address. -/
abbrev Moving := Nat × Nat × Nat × DWord

/-- The groups of some migrating lanes: ascending mask word, and within one word ascending die (R361). -/
def groupsOf (ms : List Moving) : List (Nat × Nat × List Moving) :=
  (List.range 32).flatMap (fun w =>
    (List.range 8).filterMap (fun d =>
      let here := ms.filter (fun m => m.1 / 32 == w && m.2.1 == d)
      if here.isEmpty then none else some (w, d, here)))

/-- The hop limit of MIGCTL (R364). -/
def hopLimit (migctl : Word) : Nat := let l := bitsOf migctl.toNat 2 0; if l = 0 then 7 else l

/-- Whether a group is refused (R362): the hop limit, a die outside the partition, the migration budget, no
free inbox entry. An inbox holds 64. -/
def State.refusesGroup (s : State) (part hops : Nat) (migctl : Word) (die : Nat) : Bool :=
  hopLimit migctl < hops || !(s.part part).hasDie die || s.spent part 3 ||
    64 ≤ (s.die die).inbox.length + (s.die die).reserved

/-- Whether a lane of a refused group faults rather than falls back (R363). -/
def refuseFaults (mode : Nat) (migctl : Word) : Bool := mode == 2 || (mode == 0 && migctl.getLsbD 4)

/-- What an instruction that departs is: where it stands, and where its lanes restart. -/
structure Leaving where
  C : LCtx
  /-- HOPS of what departs -/
  hops : Nat
  migctl : Word
  lpc : BitVec 26
  restart : BitVec 26
  /-- the entries in flight that count as earlier accesses (10/R273) -/
  earlier : List Entry

/-- The flags and counts that a visitor has raised so far: they leave with the first group that hops, so that
they reach the team once (R370, R372). -/
def State.raised (s : State) (C : LCtx) : BitVec 5 × Word :=
  match C.who with
  | .v v => match s.visitors[v]? with | some V => (V.cont.flags, V.cont.nfcAdd) | none => (0, 0)
  | _ => (0, 0)

/-- Masks of the carried lanes alone: a visitor's path, its stack and `m0` to `m7` (14/R365, R366, R368). -/
def Blk.carry (b : Blk) (lanes : Mask) : Blk :=
  { b with path := b.path &&& lanes, stack := b.stack.map (fun e => { e with mask := e.mask &&& lanes }),
           rest := b.rest.map (fun r => (r.1 &&& lanes, r.2)) }

def Regs.carry (r : Regs) (lanes : Mask) : Regs := { r with m := r.m.map (· &&& lanes) }

/-- The earlier accesses of some departing lanes (10/R273, 14/R381). -/
def departWaits (es : List Entry) (lanes : Mask) : List Nat :=
  (es.filter (fun e => match e.lane with | some l => lanes.getLsbD l | none => true)).map (·.id)

/-- The continuation of an accepted group (R361, R365, R366). -/
def Leaving.cont (L : Leaving) (s : State) (word die : Nat) (lanes : Mask) : Cont :=
  let b := L.C.blk
  let up := s.raised L.C
  { team := L.C.t, part := L.C.part, kind := 0, hops := L.hops, tidx := L.lpc, word := word,
    lanes := lanes, redo := lanes, cause := none, taddr := 0,
    regs := { (L.C.regs.carry lanes) with v := L.C.regs.v.take L.C.n }, wcodes := L.C.wcodes,
    blk := { b.cut.carry lanes with
      lpc := L.restart, restart := false, chainCount := 0, redo := (lanes, L.lpc) :: [], redoM7 := false,
      redoSseq := none, part := 0, rest := none, fetchHold := none },
    flags := up.1, nfcAdd := up.2, src := L.C.die, dst := die,
    waits := departWaits L.earlier lanes,
    reserved := true, held := none }

/-- Lanes leave their team or the visitor that carried them. The last-page registers of a team's lanes empty
(16/R418); what a visitor holds of masks is cut to the lanes that it still carries (R368, R369), and one whose every lane
has left is over. -/
def State.leave (s : State) (C : LCtx) (lanes : Mask) : State :=
  match C.who with
  | .l t => s.modTeam t (fun T =>
      { T with away := T.away ||| lanes, lastPage := T.lastPage.filter (fun p => !lanes.getLsbD p.1) })
  | .v v => s.modVisitor v (fun V =>
      let left := Mask.minus V.cont.lanes lanes
      { V with cont := { V.cont with lanes := left, regs := V.cont.regs.carry left, blk := V.cont.blk.carry left,
                                     flags := 0, nfcAdd := 0 }, alive := left != 0,
               last := V.last.filter (fun p => !lanes.getLsbD p.1) })
  | _ => s

/-- What becomes of migrating lanes: the state, the lanes that left, those that fall back, and those whose group
faults. -/
structure Moved where
  s : State
  gone : Mask
  back : List Moving
  bad : Bads

/-- One group is tested and handled (R362, R363). -/
def Leaving.group (L : Leaving) (r : Moved) (g : Nat × Nat × List Moving) : Moved :=
  let p := L.C.part
  let count (s : State) (f : Part → Part) : State := s.modPart p f
  if r.s.refusesGroup p L.hops L.migctl g.2.1 then
    let bad := g.2.2.filter (fun m => refuseFaults m.2.2.1 L.migctl)
    let back := g.2.2.filter (fun m => !refuseFaults m.2.2.1 L.migctl)
    let s := if back.isEmpty then r.s else count r.s (fun P => { P with migFall := P.migFall + 1 })
    let s := if bad.isEmpty then s else count s (fun P => { P with migRef := P.migRef + 1 })
    { s := s, gone := r.gone, back := r.back ++ back,
      bad := r.bad ++ bad.map (fun m => (m.1, Cause.migrationRefused, m.2.2.2)) }
  else
    let lanes := Mask.ofLanes (g.2.2.map (·.1))
    let s := count r.s (fun P => { P with migDep := P.migDep + 1 })
    let s := s.modDie g.2.1 (fun D => { D with reserved := D.reserved + 1 })
    let s := (s.sendCont (L.cont s g.1 g.2.1 lanes)).leave L.C lanes
    { s := s, gone := r.gone ||| lanes, back := r.back, bad := r.bad }

/-- Every group of the migrating lanes, in order. -/
def Leaving.all (L : Leaving) (s : State) (ms : List Moving) : Moved :=
  (groupsOf ms).foldl L.group { s := s, gone := 0, back := [], bad := [] }

end Sys2Proof.Machine
end

