-- ==== Sys2Proof/Machine/Launch.lean ====
section
/-!
DEFINITION. Launches: descriptors (02/R47, R48), caddy tables and tape headers (13/R337 to R339),
acceptance (17/R434 to R437), and the instructions `pour`, `withdraw`, `end`, `yield`, `tresume` and
`tresume.at` (07/R172 to R176).
-/

namespace Sys2Proof.Machine

/-! ### Descriptors -/

/-- A dependence or completion event field (02/R47). -/
def eventField (x : Nat) : Option (BitVec 24) :=
  if bitsOf x 31 31 = 1 then some (BitVec.ofNat 24 x) else none

/-- The fields of a launch descriptor's 128 bytes (02/R47). -/
def Desc.ofBytes (bs : List Byte) : Desc :=
  let shape := natAt bs 0x30 4
  let cnt := natAt bs 0x34 4
  { sentry := dwordAt bs 0, lbase := dwordAt bs 8, caddy := dwordAt bs 0x10, handler := dwordAt bs 0x18,
    args := dwordAt bs 0x20, teams := bitsOf (natAt bs 0x28 4) 23 0, tag := wordAt bs 0x2C,
    prio := bitsOf shape 31 24, span := bitsOf shape 18 17 + 1, gsize := bitsOf shape 16 13 + 1,
    nmax := 8 * (bitsOf shape 12 9 + 1), n0 := 8 * (bitsOf shape 8 5 + 1),
    w := 32 * (bitsOf shape 4 0 + 1), sup := bitsOf cnt 31 31 = 1, caddies := bitsOf cnt 24 18,
    lcirc := bitsOf cnt 17 11, spad := bitsOf cnt 10 0,
    deps := (List.range 4).map (fun k => eventField (natAt bs (0x40 + 4 * k) 4)),
    done := eventField (natAt bs 0x50 4), raw := bs }

/-- The reserved fields of a descriptor are zero. -/
def descReservedOk (bs : List Byte) : Bool :=
  bitsOf (natAt bs 0x28 4) 31 24 = 0 && bitsOf (natAt bs 0x30 4) 23 19 = 0 &&
    bitsOf (natAt bs 0x34 4) 30 25 = 0 && natAt bs 0x38 8 = 0 &&
    (List.range 5).all (fun k => bitsOf (natAt bs (0x40 + 4 * k) 4) 30 24 = 0) && allZero (bs.drop 0x54)

/-- Malformed (02/R48), the caddy table apart. CADDY is ignored when CADDIES is 0. -/
def descMalformed (bs : List Byte) : Bool :=
  let d := Desc.ofBytes bs
  !descReservedOk bs || d.sentry.toNat % 4 != 0 || d.lbase.toNat % 4 != 0 ||
    (d.caddies != 0 && d.caddy.toNat % 64 != 0) || d.handler.toNat % 4 != 0 ||
    d.teams = 0 || d.teams % d.gsize != 0 || d.gsize < d.span || d.nmax < d.n0 || 1024 < d.spad ||
    64 < d.lcirc || 64 < d.caddies || 8192 < (d.gsize + d.span - 1) / d.span * rowsFor d.n0 d.w

/-! ### Caddy tables -/

/-- A caddy entry and its tape header (13/R337, R339); the state parts at creation. -/
def Caddy.ofBytes (e hdr : List Byte) : Caddy :=
  let m := natAt e 0x14 4
  { base := dwordAt e 0, tape := dwordAt e 8, slots := natAt e 0x10 4, circle := bitsOf m 23 18,
    tv := bitsOf m 14 14 = 1, twin := bitsOf m 13 8, accum := bitsOf m 4 4 = 1, d := bitsOf m 3 0 + 1,
    tseg := natAt hdr 0 4, tdepth := natAt hdr 4 2, home := 0, steep := 0, wrapped := false, closers := [], recs := [],
    count := 0, overflow := false, fault := none, oldest := 0, opened := false, apply := none, later := [],
    walker := none, hold := none, holdOpen := false, made := false }

/-- The rules of R338 on one entry, given every entry of the table. -/
def caddyOk (d : Desc) (es : List (List Byte)) (k : Nat) : Bool :=
  let e := (es[k]?).getD []
  let m := natAt e 0x14 4
  let c := Caddy.ofBytes e []
  let tw := (es[c.twin]?).getD []
  let t := Caddy.ofBytes tw []
  bitsOf m 31 24 = 0 && bitsOf m 17 15 = 0 && bitsOf m 7 5 = 0 && allZero (e.drop 0x18) &&
    c.base != 0 && c.base.toNat % 64 = 0 && c.tape != 0 && c.tape.toNat % 64 = 0 &&
    1 ≤ c.slots && c.slots ≤ 1048576 && c.circle < d.lcirc &&
    (if c.tv then
      c.twin < d.caddies && c.twin != k && t.accum && t.slots = c.slots && t.d = c.d
     else c.twin = 0)

/-- A tape header keeps R339. -/
def tapeOk (c : Caddy) (hdr : List Byte) : Bool :=
  natAt hdr 0 4 % 64 = 0 && 64 + c.recSize ≤ natAt hdr 0 4 && natAt hdr 6 2 = 0 && 2 ≤ natAt hdr 4 2 &&
    allZero (hdr.drop 8)

/-- Reading the tape header of each caddy entry; `none` when one cannot be read or breaks R339. -/
def State.readTapes (s : State) (p : Nat) (who : Option Nat) (es : List (List Byte)) : Option (List Caddy) × State :=
  match es with
  | [] => (some [], s)
  | e :: r =>
    match s.unitRead p none (s.part p).dieFirst (dwordAt e 8) 64 who with
    | (.fail .., s) => (none, s)
    | (.ok hdr, s) =>
      let c := Caddy.ofBytes e hdr
      if tapeOk c hdr then
        match State.readTapes s p who r with
        | (some l, s) => (some (c :: l), s)
        | (none, s) => (none, s)
      else (none, s)

/-- Reading a caddy table and every tape header of it, at the partition's first die; `none` when R338 makes
the launch malformed. -/
def State.readCaddies (s : State) (p : Nat) (d : Desc) (who : Option Nat) : Option (List Caddy) × State :=
  if d.caddies = 0 then (some [], s)
  else
    match s.unitRead p none (s.part p).dieFirst d.caddy (64 * d.caddies) who with
    | (.fail .., s) => (none, s)
    | (.ok bs, s) =>
      let es := (List.range d.caddies).map (fun k => bytesAt bs (64 * k) 64)
      if (List.range d.caddies).all (caddyOk d es) then s.readTapes p who es else (none, s)

/-! ### Acceptance (17/R434 to R437) -/

/-- Whether every event that a launch depends on has been signalled (17/R437). -/
def Part.depsMet (P : Part) (d : Desc) : Bool :=
  d.deps.all (fun e => match e with | some n => P.events.contains n.toNat | none => true)

/-- A caddy set of the partition with this table address that a live launch shares (13/R341). -/
def State.findSet (s : State) (p : Nat) (addr : DWord) : Option Nat :=
  (List.range s.caddySets.length).find? (fun k =>
    match s.caddySets[k]? with
    | some S => S.part == p && S.addr == addr && !(s.liveLaunches S).isEmpty
    | none => false)

/-- Accepting a launch: it takes the next LSEQ. A poured launch's PRIO is at most its pourer's
(R436). A launch that shares a table has the caddies as the first launch found them, and those of its own entries beyond
(13/R341; log entry 104). -/
def State.accept (s : State) (p : Nat) (d : Desc) (caddies : List Caddy) (queue : Nat) (entry : Bool) :
    State :=
  let P := s.part p
  let l := s.launches.length
  let (set, s) : Option Nat × State :=
    if d.caddies = 0 then (none, s)
    else
      match s.findSet p d.caddy with
      | some k => (some k, s.modSet k (fun S =>
          { S with launches := S.launches ++ [l], caddies := S.caddies ++ caddies.drop S.caddies.length }))
      | none =>
        (some s.caddySets.length,
          { s with caddySets := s.caddySets ++
              [{ part := p, addr := d.caddy, created := false, launches := [l], caddies := caddies }] })
  let ready := P.depsMet d
  let L : Launch :=
    { part := p, desc := d, lseq := P.lseqNext, queue := queue, phase := if ready then .ready else .waiting,
      circles := List.replicate d.lcirc .empty, nextGang := 0, resumed := [], faulted := false,
      entry := entry && !ready, caddySet := set }
  let s := { s with launches := s.launches ++ [L] }
  s.modPart p (fun P => { P with lseqNext := P.lseqNext + 1 })

/-- Entries of the device launch queue that are held (17/R436). -/
def State.deviceQueue (s : State) (p : Nat) : Nat :=
  (s.launches.filter (fun L => L.part == p && L.entry)).length

/-- A descriptor with another PRIO, in the bytes that the image copies too (R436). -/
def Desc.withPrio (d : Desc) (prio : Nat) : Desc :=
  { d with prio := prio,
           raw := d.raw.take 0x33 ++ [BitVec.ofNat 8 prio] ++ d.raw.drop 0x34 }

/-! ### pour and withdraw -/

/-- `pour` (07/R172): the checks in their order, then acceptance. The release at device scope holds it
until the team's S accesses have been performed (10/R273). -/
def execPour (a : BitVec 6) (s : State) : Host.Outcome State Fault Refusal :=
  s.runS (both a) (fun t T =>
    let va := T.rdp a
    let p := s.partOf t
    let die := dieOfCore T.core
    if va.toNat % 64 != 0 then .trap s .align va
    else if !s.sMay t true true || !s.sReleased t 3 then .stall s
    else if s.walkStalls p (some T.core) die t die va 128 { r := true } || s.unitHeld p (some T.core) die va 128 { r := true } then
      .stall s
    else
      match s.unitRead p (some T.core) die va 128 (some t) with
      | (.fail c res _, s') => s'.sFail t c res va false false
      | (.ok bs, s') =>
        let d := Desc.ofBytes bs
        if descMalformed bs || d.sup then .trap s' .queue va
        else
          if s'.crossHeld p (fun z => (z.readCaddies p d (some t)).2) then .stall s
          else
          match s'.readCaddies p d (some t) with
          | (none, s') => .trap s' .queue va
          | (some cs, s') =>
            if 1024 ≤ s'.deviceQueue p then .trap s' .queue va
            else
              let mine := (s.descOf t).prio
              let d := if mine < d.prio then d.withPrio mine else d
              .done (s'.accept p d cs 255 true))

/-- Withdrawing every launch of a tag with no gang placed (07/R173, 17/R440). -/
def State.withdrawTag (s : State) (p : Nat) (tag : Word) : State :=
  (List.range s.launches.length).foldl (fun s l =>
    let L := s.launch l
    if L.part == p && L.phase != .complete && L.desc.tag == tag && L.nextGang == 0 then
      s.completeLaunch l 2
    else s) s

def execWithdraw (a : BitVec 6) (s : State) : Host.Outcome State Fault Refusal :=
  s.runS [a] (fun t T => .done (s.withdrawTag (s.partOf t) (T.rd a)))

/-! ### end, yield -/

/-- The lowest-numbered token of a mask whose error is set. -/
def Team.tokenError (T : Team) (mask : Nat) : Option Nat :=
  (List.range 8).find? (fun k => bitsOf mask k k = 1 && (vget T.tok k).err)

/-- Whether every token of a mask is raised (07/R177). -/
def Team.raised (T : Team) (mask : Nat) : Bool :=
  (List.range 8).all (fun k => bitsOf mask k k = 0 || (vget T.tok k).out == 0)

/-- What discarded slots of a team still await returns to nothing: those of the blocks with some numbers. -/
def State.forgetSlots (s : State) (t : Nat) (gone : Slot → Bool) : State :=
  let lost (k : Nat) : Bool := match vget (s.team t).oplog k with | some x => gone x | none => false
  let put (e : Entry) : Entry := match e.ret with
    | .slot u k _ _ | .soft u k _ _ => if u = t && lost k then { e with ret := .none } else e
    | _ => e
  { s with fwd := s.fwd.map put, arr := s.arr.map put }.modTeam t (fun T =>
    { T with oplog := T.oplog.map (fun o => match o with | some x => if gone x then none else some x | none => none) })

/-- `end` while the team is TRAPPED abandons the held block, what was set aside behind it, its slots and a pending L trap
(07/R176). -/
def State.abandonHeld (s : State) (t : Nat) : State :=
  match (s.team t).held with
  | none => s.modTeam t (fun T => { T with asideQ := [], pendL := none })
  | some b =>
    (s.forgetSlots t (fun k => k.block == b.lq.sMark)).modTeam t (fun T =>
      { T with held := none, asideQ := [], pendL := none, vtrap := none,
               away := Mask.minus T.away ((T.returned.filter (·.block == b.lq.sMark)).foldl (fun m r => m ||| r.lanes) 0),
               returned := T.returned.filter (·.block != b.lq.sMark) })

/-- `end` (02/R42): it waits for lane work and for all tokens; a token error is delivered instead. While the
team is TRAPPED it first abandons the held block and what was set aside (07/R176), once its continuations are
home (14/R379). -/
def execEndTeam (s : State) : Host.Outcome State Fault Refusal :=
  s.runS [] (fun t T =>
    if T.phase == .trapped && s.roaming t then .wait s
    else
      let s := if T.phase == .trapped then s.abandonHeld t else s
      if !T.laneIdle || !T.raised 255 then .wait s
      else
        match T.tokenError 255 with
        | some k => .over (s.trapToken t k)
        | none => .over (s.endTeam t))

/-- `yield`: the S-stream is not ready for one selection, which the schedule shows (02/R52). -/
def execYield (s : State) : Host.Outcome State Fault Refusal :=
  s.runS [] (fun _ _ => .done s)

/-! ### tresume -/

/-- The lanes of a delivered visitor trap go out again (14/R378): with the team's current registers and the staged set of the
delivered continuation, for the lanes of `m7`, to the die on which the trap was raised. It is the release of the lanes'
earlier accesses (10/R273), and carries the path, the stack and FMT of the block at its waiting point (log entry 105). A USER
trap is that of an `ltrap`, which the lanes complete without effect: they start behind it (08/R231, log entry 78). -/
def State.resend (s : State) (t : Nat) (r : Returned) : State :=
  let T := s.team t
  match T.blk with
  | none => s
  | some b =>
    let m7 := T.regs.m[7]
    let passed := r.cause == some Cause.user
    let c : Cont :=
      { team := t, part := s.partOf t, kind := 0, hops := r.hops, tidx := r.tidx,
        word := (Mask.lanes r.lanes 1024).headD 0 / 32, lanes := r.lanes, redo := m7 &&& r.lanes,
        cause := none, taddr := 0, regs := T.regs.carry r.lanes, wcodes := T.wcodes,
        blk := { b.cut.carry r.lanes with
                 lpc := if passed then r.tidx + 1 else r.lpc,
                 redo := if passed then [] else [(m7 &&& r.lanes, r.tidx)], restart := false, chainCount := 0,
                 staged := r.staged, ew := r.ew },
        flags := 0, nfcAdd := 0, src := dieOfCore T.core, dst := r.die,
        waits := departWaits (s.lEarlier t b.lq.sMark) r.lanes, reserved := false, held := none }
    (s.modTeam t (fun T => { T with away := T.away ||| r.lanes })).sendCont c

/-- A pending L trap is delivered at once when the team is RUNNING again (03/R57). -/
def State.backRunning (s : State) (t : Nat) : Eff := .over (s.deliverL t)

/-- `tresume` (03/R54, R55, 07/R175): it waits for the handler's blocks, then the held block and the entries
set aside are back. -/
def execTresume (s : State) : Host.Outcome State Fault Refusal :=
  s.runS [] (fun t T =>
    if T.phase != .trapped then .trap s .illegal T.spc
    else if !T.laneIdle then .wait s
    else
      let s := s.setTeam t { T.resumed with vtrap := none }
      match T.vtrap with
      | some r => (s.resend t r).backRunning t
      | none => s.backRunning t)

/-- The held block restarts at an index, with the mask, the stack and the FMT that it had (03/R54). -/
def Blk.restartFrom (b : Blk) (i : BitVec 26) : Blk :=
  { b with lpc := i, redo := [], redoM7 := false, redoSseq := none, chainCount := 0, restart := false,
           fetchHold := none, stash := [] }

/-- `tresume.at` (03/R54, 07/R175, 14/R378): the held block's slots and a pending L trap are discarded, every
returned lane rejoins, and the held block restarts at s(a)[25:0]. Without a held block it is `tresume`. -/
def execTresumeAt (a : BitVec 6) (s : State) : Host.Outcome State Fault Refusal :=
  s.runS [a] (fun t T =>
    if T.phase != .trapped then .trap s .illegal T.spc
    else if !T.laneIdle then .wait s
    else
      match T.held with
      | none => (s.setTeam t T.resumed).backRunning t
      | some b =>
        let back := T.returned.foldl (fun m r => m ||| r.lanes) 0
        .over ((s.forgetSlots t (fun _ => true)).setTeam t { T.resumed with
          blk := some (b.restartFrom ((T.rd a).extractLsb' 0 26)), oplog := Vector.replicate 4 none,
          pendL := none, vtrap := none, returned := [], away := Mask.minus T.away back }))

end Sys2Proof.Machine
end

