-- ==== Sys2Proof/Machine/Token.lean ====
section
/-!
DEFINITION. Tokens and transaction barriers (07/R177 to R189).
-/

namespace Sys2Proof.Machine

/-! ### Tokens -/

/-- A job that is accepted on a token: OUT rises (R177), and the command takes its sequence tag (R178). -/
def Team.accepted (T : Team) (tok : BitVec 3) : Team :=
  { T with tok := vmod T.tok tok.toNat (fun k => { k with out := k.out + 1 }), cmdCtr := T.cmdCtr + 1 }

/-- A job on a token ends: OUT falls. -/
def State.lowerTok (s : State) (t tok : Nat) : State :=
  s.modTeam t (fun T => { T with tok := vmod T.tok tok (fun k => { k with out := k.out - 1 }) })

/-- A job's failure is recorded on its token; when ERR is set already, the first record stands. -/
def State.failTok (s : State) (t tok : Nat) (c : Cause) (spc a : DWord) (tag : Word) : State :=
  s.modTeam t (fun T => { T with tok := vmod T.tok tok (fun k =>
    if k.err then k
    else { k with err := true, cause := some c, tspc := spc, taddr := a, tseq := tag }) })

/-- Chains that a channel holds (R179). -/
def chainLimit : Nat := 16

/-- `kpour` (R179): the checks in their order; a head of 0 starts an empty job, which ends at once. -/
def execKpour (a : BitVec 6) (tok ch : BitVec 3) (s : State) : Host.Outcome State Fault Refusal :=
  s.runS (both a) (fun t T =>
    let head := T.rdp a
    let c := clusterOfCore T.core
    if head.toNat % 64 != 0 then .trap s .align head
    else if chainLimit ≤ (s.chan c ch.toNat).length then .trap s .queue head
    else if 255 ≤ (vget T.tok tok.toNat).out then .trap s .queue head
    else if !s.sMay t true true || !s.sReleased t 2 then .stall s
    else if head = 0 then .done (s.setTeam t { T with cmdCtr := T.cmdCtr + 1 })
    else
      let k : Chain :=
        { gang := T.gang, team := t, tok := tok, tag := T.cmdCtr, spc := T.spc, arrived := s.nextId,
          started := false, next := head, fetched := false, failed := false, stopped := false, recs := [],
          hold := none }
      let s' := s.setTeam t (T.accepted tok)
      .done ({ s' with nextId := s'.nextId + 1 }.modChan c ch.toNat (fun l => l ++ [k])))

/-- `twait` (R180): it blocks until the tokens are raised, delivers an error, or completes. -/
def execTwait (mask : BitVec 8) (s : State) : Host.Outcome State Fault Refusal :=
  s.runS [] (fun t T =>
    if !T.raised mask.toNat then .wait s
    else
      match T.tokenError mask.toNat with
      | some k => .over (s.trapToken t k)
      | none => .done s)

/-- `tprobe` (R181). -/
def execTprobe (d : BitVec 6) (mask : BitVec 8) (s : State) : Host.Outcome State Fault Refusal :=
  s.runReg [d] (fun T =>
    let bits (p : Token → Bool) : Nat :=
      ((List.range 8).map (fun k =>
        if bitsOf mask.toNat k k = 1 && p (vget T.tok k) then 2 ^ k else 0)).sum
    T.wr d (BitVec.ofNat 32 (bits (fun k => k.out == 0) + 256 * bits (fun k => k.err))))

/-! ### Barrier words (R183) -/

def wEpoch (w : Nat) : Nat := bitsOf w 63 52
def wNeed (w : Nat) : Nat := bitsOf w 51 42
def wGot (w : Nat) : Nat := bitsOf w 41 32
/-- OWED, two's complement. -/
def wOwed (w : Nat) : Int := (BitVec.ofNat 32 w).toInt
def mkBarrier (epoch need got : Nat) (owed : Int) : Nat :=
  epoch % 4096 * 2 ^ 52 + need % 1024 * 2 ^ 42 + got % 1024 * 2 ^ 32 + (BitVec.ofInt 32 owed).toNat

/-- The live word at an offset of a gang's scratchpad; `none` when it is not live. -/
def State.barrier (s : State) (g off : Nat) : Option Nat :=
  if (s.gang g).live.contains off then some (leNat ((s.gang g).spad.readN off 8)) else none

/-- Every `bwait` of a gang blocked on a word, for an epoch or for any, is released with a status. -/
def State.releaseWaits (s : State) (g off : Nat) (epoch : Option Nat) (status : Word) : State :=
  { s with teams := s.teams.map (fun (T : Team) =>
      if T.gang == g then
        match T.wait with
        | .bwait o e =>
          if o == off && (match epoch with | some x => e.toNat == x | none => true) then
            { T with wait := .bdone status }
          else T
        | _ => T
      else T) }

/-- Writing a barrier word and Check(w) (R185). -/
def State.putBarrier (s : State) (g off epoch need got : Nat) (owed : Int) : State :=
  if got = need && owed = 0 then
    (s.releaseWaits g off (some epoch) 0).writeSpad g off
      (leBytes 8 (mkBarrier (epoch + 1) need 0 owed))
  else s.writeSpad g off (leBytes 8 (mkBarrier epoch need got owed))

/-- `n` arrivals at a live word; `none` for BARRIER_STATE (R185). -/
def State.arriveAt (s : State) (g off n : Nat) : Option State :=
  match s.barrier g off with
  | none => none
  | some w =>
    if n = 0 || wNeed w - wGot w < n then none
    else some (s.putBarrier g off (wEpoch w) (wNeed w) (wGot w + n) (wOwed w))

/-- `n` bytes more are owed; `none` for BARRIER_STATE. -/
def State.expectAt (s : State) (g off n : Nat) : Option State :=
  match s.barrier g off with
  | none => none
  | some w =>
    if 2 ^ 31 - 1 < wOwed w + n then none
    else some (s.putBarrier g off (wEpoch w) (wNeed w) (wGot w) (wOwed w + n))

/-- A copy completes `n` bytes against a live word; `none` when its count is dropped and its record fails
with BARRIER_STATE (R185, 11/R303). -/
def State.payAt (s : State) (g off n : Nat) : Option State :=
  match s.barrier g off with
  | none => none
  | some w =>
    if wOwed w - n < -2 ^ 31 then none
    else some (s.putBarrier g off (wEpoch w) (wNeed w) (wGot w) (wOwed w - n))

/-- The checks of R182 on a barrier instruction's address, and its turn at the bank (10/R266). -/
def State.barrierOp (s : State) (t : Nat) (a : DWord) (read : Bool) (f : State → Eff) : Eff :=
  match s.sSpad t a 8 read false with
  | .no e => e
  | .ok _ s =>
    if s.bankBusy t a.toNat 8 || !s.sMay t true true then .stall s else f s

/-! ### The barrier instructions -/

def execBinit (a b c : BitVec 6) (s : State) : Host.Outcome State Fault Refusal :=
  s.runS (both a ++ [b, c]) (fun t T =>
    let w := T.rdp a
    let x := (T.rd b).toNat
    let y := (T.rd c).toNat
    s.barrierOp t w false (fun s =>
      if (s.barrier T.gang w.toNat).isSome || bitsOf x 9 0 = 0 || bitsOf x 15 10 != 0 ||
          bitsOf x 31 28 != 0 || 2 ^ 31 - 1 < y then .trap s .barrierState w
      else
        let s := s.writeSpad T.gang w.toNat (leBytes 8 (mkBarrier (bitsOf x 27 16) (bitsOf x 9 0) 0 y))
        .done (s.modGang T.gang (fun G => { G with live := w.toNat :: G.live }))))

/-- `barrive` is a release at gang scope (R189). -/
def execBarrive (a b : BitVec 6) (s : State) : Host.Outcome State Fault Refusal :=
  s.runS (both a ++ [b]) (fun t T =>
    let w := T.rdp a
    s.barrierOp t w true (fun s =>
      if !s.sReleased t 1 then .stall s
      else
        match s.arriveAt T.gang w.toNat (T.rd b).toNat with
        | none => .trap s .barrierState w
        | some s => .done s))

def execBexpect (a b : BitVec 6) (s : State) : Host.Outcome State Fault Refusal :=
  s.runS (both a ++ [b]) (fun t T =>
    let w := T.rdp a
    s.barrierOp t w true (fun s =>
      match s.expectAt T.gang w.toNat (T.rd b).toNat with
      | none => .trap s .barrierState w
      | some s => .done s))

/-- `bwait` (R186): a phase that has ended completes it at once; else it blocks until its phase ends or
the word is invalidated. -/
def execBwait (a b c : BitVec 6) (s : State) : Host.Outcome State Fault Refusal :=
  s.runS (both a ++ [b, c]) (fun t T =>
    let w := T.rdp a
    match T.wait with
    | .bdone st => .done (s.setTeam t (T.wr c st))
    | .bwait _ _ => .wait s
    | _ =>
      s.barrierOp t w true (fun s =>
        match s.barrier T.gang w.toNat with
        | none => .trap s .barrierState w
        | some x =>
          let e := (T.rd b).toNat % 4096
          if 2048 ≤ (e + 4096 - wEpoch x) % 4096 then .done (s.setTeam t (T.wr c 0))
          else .wait (s.setTeam t { T with wait := .bwait w.toNat (BitVec.ofNat 12 e) })))

def execBinval (a : BitVec 6) (s : State) : Host.Outcome State Fault Refusal :=
  s.runS (both a) (fun t T =>
    let w := T.rdp a
    s.barrierOp t w false (fun s =>
      match s.barrier T.gang w.toNat with
      | none => .trap s .barrierState w
      | some _ =>
        let s := s.modGang T.gang (fun G => { G with live := G.live.filter (· != w.toNat) })
        .done (s.releaseWaits T.gang w.toNat none 1)))

end Sys2Proof.Machine
end

