-- ==== Sys2Proof/Machine/Kettle.lean ====
section
/-!
DEFINITION. The kettle (11/R283 to R310): the events that walk a chain: CHAIN_START, KETTLE_FETCH, LINEAR, TILE, GATHER,
FILL, ARRIVE and RECORD_RETIRE.
-/

namespace Sys2Proof.Machine

/-! ### Chains on a channel -/

/-- Changing the chain that was accepted under a number. -/
def State.modChain (s : State) (c ch : Nat) (a : Nat) (f : Chain → Chain) : State :=
  s.modChan c ch (fun l => l.map (fun k => if k.arrived == a then f k else k))

def State.modRec (s : State) (c ch a r : Nat) (f : KRec → KRec) : State :=
  s.modChain c ch a (fun k => { k with recs := modifyAt k.recs r f })

/-- The chain that a channel walks. -/
def State.walking (s : State) (c ch : Nat) : Option Chain := (s.chan c ch).find? (·.started)

/-- A record that still works: fetched, not retired, failed or dropped. -/
def KRec.live (r : KRec) : Bool := !r.retired && !r.failed

/-- A record that still works, or has failed with its control doubleword to be written. -/
def KRec.going (r : KRec) : Bool := r.live || r.fate.isSome

/-- Whether the chain's fetching has reached its null next pointer (10/R277), whatever has failed since. -/
def Chain.whole (k : Chain) : Bool := k.fetched && k.next == 0 && !k.stopped

/-- The footprint of a chain: the union of its records'. -/
def Chain.footprint (k : Chain) : List Extent := k.recs.flatMap (fun r => kFootprint r.image)

/-- A chain ends when fetching has stopped and no record of it is in flight (R287): OUT falls. -/
def State.endChain (s : State) (c ch : Nat) : State :=
  match s.walking c ch with
  | some k =>
    if k.fetched && k.hold.isNone && k.recs.all (fun r => !r.going) then
      (s.modChan c ch (fun l => l.filter (fun x => x.arrived != k.arrived))).lowerTok k.team k.tok.toNat
    else s
  | none => s

/-- The doubleword at 0x08 of a record as the kettle writes it (R286, R299). -/
def kControl (b : List Byte) (own : Bool) (status : Nat) : List Byte :=
  leBytes 4 (kCtl b % 2 ^ 31 + (if own then 2 ^ 31 else 0)) ++ leBytes 4 status

/-- A hold on a resolvable fault. -/
def Hold.on (cause : Cause) (addr : DWord) (write : Bool) : Hold :=
  { cause := cause, addr := addr, write := write, exec := false, seq := none, res := none }

/-- The first failure of a chain stops its fetching and is recorded on its token (R300, R302). -/
def State.chainFailed (s : State) (c ch : Nat) (k : Chain) (addr : DWord) (cause : Cause) : State :=
  (s.modChain c ch k.arrived (fun k =>
    { k with failed := true, fetched := true, hold := none })).failTok k.team k.tok.toNat cause k.spc addr k.tag

/-- What the control doubleword of a record comes to: written and counted (R310), not yet, or not to be written, with
whether a resolution may still help (R301). -/
inductive KControl where
  | written (s : State)
  | later
  | cannot (cause : Cause) (resolvable : Bool) (va : DWord) (s : State)

/-- Writing the control doubleword of a record of a chain, under the kettle and PCIe budgets. -/
def State.putControl (s : State) (c : Nat) (k : Chain) (x : KRec) (own : Bool) (status : Nat) : KControl :=
  let part := s.partOf k.team
  let put (s : State) : UOut Unit × State :=
    s.unitWrite part none (dieOfCluster c) (2 * k.arrived) (x.addr + 8) (kControl x.image own status) (some k.team)
  if s.spent part 2 || s.crossHeld part (fun s => (put s).2) then .later
  else
    match put s with
    | (.ok _, s) => .written (s.charge part 2 8)
    | (.fail cause res a, s) => .cannot cause res a s

/-- The control doubleword of a failed record is written when it can be (R299), and held when its fault may be resolved
(R301); then the chain may end. -/
def State.putFate (s : State) (c ch r : Nat) : State :=
  match s.walking c ch with
  | none => s
  | some k =>
    match k.recs[r]? with
    | none => s
    | some x =>
      match x.fate with
      | none => s.endChain c ch
      | some cause =>
        let over_ (s : State) : State :=
          (s.modRec c ch k.arrived r (fun x => { x with fate := none, hold := none })).endChain c ch
        match s.putControl c k x true (causeCode cause) with
        | .later => s
        | .written s => over_ s
        | .cannot e res a s =>
          if res && s.canHold k.team then s.modRec c ch k.arrived r (fun x => { x with hold := some (.on e a true) })
          else over_ s

/-- A record fails (R299, R302): it leaves the scoreboard, the first failure of the chain is recorded on its token, and
its control doubleword is to be written. -/
def State.failRec (s : State) (c ch : Nat) (k : Chain) (r : Nat) (x : KRec) (cause : Cause) : State :=
  let s := s.modRec c ch k.arrived r (fun x =>
    { x with failed := true, ranged := false, hold := none, fate := some cause })
  (if k.failed then s else s.chainFailed c ch k x.addr cause).putFate c ch r

/-! ### Accesses of the kettle and of the engine (R297, 12/R323) -/

/-- Reading bytes of a space for a gang's job; `who` is the team that consumes them. -/
def State.jobRead (s : State) (part g die space : Nat) (a : DWord) (n : Nat) (who : Option Nat) :
    UOut (List Byte) × State :=
  if space = 0 then s.unitRead part none die a n who
  else if s.spadBytes g < a.toNat + n then (.fail .scratchRange false a, s)
  else if s.isBad 2 g a.toNat n then
    (.fail .deviceError false a, s.metBad part 2 die 0 a.toNat who)
  else (.ok ((s.gang g).spad.readN a.toNat n), s.note (.bank g) a.toNat n)

/-- Writing the line parts of a run of scratchpad bytes, up to the first that fails (R305). -/
def State.spadParts (s : State) (g : Nat) (a : DWord) (bs : List Byte) (ps : List (Nat × Nat)) :
    UOut Unit × State :=
  match ps with
  | [] => (.ok (), s)
  | (off, n) :: r =>
    let p := a.toNat + off
    if s.spadBytes g < p + n then (.fail .scratchRange false a, s)
    else if (s.gang g).liveAt p n then (.fail .barrierStore false a, s)
    else State.spadParts ((s.writeAt (.bank g) p (bytesAt bs off n)).note (.bank g) p n) g a bs r

/-- Writing bytes of a space for a gang's job; `src` is the number of the source to GFL peers. -/
def State.jobWrite (s : State) (part g die src space : Nat) (a : DWord) (bs : List Byte) (who : Option Nat) :
    UOut Unit × State :=
  if space = 0 then s.unitWrite part none die src a bs who
  else s.spadParts g a bs (lineParts (bs.length / 64 + 2) a.toNat 0 bs.length)

/-! ### CHAIN_START, KETTLE_FETCH -/

/-- A channel starts the first chain that it may walk, once the chain before it has ended (R283). -/
def execChainStart (cluster ch : Nat) (s : State) : Host.Outcome State Fault Refusal :=
  match s.walking cluster ch with
  | some _ => .next s
  | none =>
    match (s.chan cluster ch).find? (fun k => !k.stopped) with
    | some k => .next (s.modChain cluster ch k.arrived (fun k => { k with started := true }))
    | none => .next s

/-- Ranges that the scoreboard of a cluster holds. -/
def State.scoreboard (s : State) (c : Nat) : Nat :=
  ((List.range 8).flatMap (fun ch => (s.chan c ch).flatMap (fun k =>
    k.recs.filter (fun r => r.ranged && !r.retired)))).length

/-- Whether a channel may fetch the next record of a chain (R284, R301, R310, 10/R278). -/
def State.mayFetch (s : State) (c : Nat) (k : Chain) : Bool :=
  let p := s.partOf k.team
  !k.fetched && !k.stopped && (k.recs.filter KRec.live).length < 8 &&
    !k.recs.any (fun r => r.live && (r.addr == k.next || r.hold.isSome)) && s.scoreboard c < 64 &&
    !s.spent p 2 && !s.unitHeld p none (dieOfCluster c) k.next 64 { r := true }

/-- Fetching the record at a chain's next address (R284, R296). -/
def State.fetchRec (s : State) (c ch : Nat) (k : Chain) : State :=
  match s.unitRead (s.partOf k.team) none (dieOfCluster c) k.next 64 (some k.team) with
  | (.fail cause res a, s) =>
    if res && s.canHold k.team then
      s.modChain c ch k.arrived (fun k => { k with hold := some (.on cause a false) })
    else (s.chainFailed c ch k k.next cause).endChain c ch
  | (.ok b, s) =>
    let r : KRec :=
      { num := s.nextId, addr := k.next, image := b, released := false, clear := false, todo := [(0, kUnits b)], rbuf := [],
        ranged := false, counted := false, failed := false, fate := none, retired := false, hold := none }
    let s := { s with nextId := s.nextId + 1 }.modChain c ch k.arrived (fun k =>
      { k with recs := k.recs ++ [r], next := kNext b, fetched := kNext b = 0 })
    if kOk b (s.spadBytes k.gang) then s
    else s.failRec c ch k k.recs.length r .record

def execKettleFetch (cluster ch : Nat) (s : State) : Host.Outcome State Fault Refusal :=
  match s.walking cluster ch with
  | none => .next s
  | some k =>
    match k.hold with
    | some h =>
      match h.res with
      | none => .next s
      | some .retry =>
        let s := s.modChain cluster ch k.arrived (fun k => { k with hold := none })
        .next (if s.mayFetch cluster { k with hold := none } then s.fetchRec cluster ch { k with hold := none } else s)
      | some _ => .next ((s.chainFailed cluster ch k k.next h.cause).endChain cluster ch)
    | none =>
      if s.mayFetch cluster k then .next (s.fetchRec cluster ch k) else .next (s.endChain cluster ch)

/-! ### Performing a record (R285, R292 to R295) -/

/-- A part that fails: what it meets, and whether it was a write. -/
structure KFail where
  cause : Cause
  res : Bool
  va : DWord
  write : Bool

/-- What the bytes of a unit are: those that it reads (space, address, length), or given ones. -/
inductive KData where
  | from (space : Nat) (a : DWord) (n : Nat)
  | lit (bs : List Byte)

/-- Byte i of a FILL's pattern, from a first byte on. -/
def kPattern (b : List Byte) (lo n : Nat) : List Byte :=
  (List.range n).map (fun i => (b[0x28 + (lo + i) % 8]?).getD 0)

/-- Whether element (r, c) of a TILE lies on a side that is filled with zeros (R293). -/
def kBorder (b : List Byte) (r c : Nat) : Bool :=
  let x := natAt b 0x2C 4
  let h := kHalo b
  (r < h && bitsOf x 9 9 == 1) || (kRows b + h ≤ r && bitsOf x 8 8 == 1) ||
    (c < h && bitsOf x 7 7 == 1) || (kCols b + h ≤ c && bitsOf x 6 6 == 1)

def addI (a : DWord) (x : Int) : DWord := a + BitVec.ofInt 64 x

/-- The row of a unit of a GATHER. -/
def kRow (b : List Byte) (u : Nat) : Nat := u / (kElem b / 4)

/-- The data and the destination of a unit `[lo, hi)`; the index of a GATHER's row is `x` (R294: `none` for one not
below SLIMIT). -/
def kUnitData (b : List Byte) (lo hi x : Nat) : Option (KData × DWord) :=
  let dst := kDst b
  let e := kElem b
  match kType b with
  | 0 => some (.from (kSsp b) (kSrc b + BitVec.ofNat 64 lo) (hi - lo), dst + BitVec.ofNat 64 lo)
  | 4 => some (.lit (kPattern b lo (hi - lo)), dst + BitVec.ofNat 64 lo)
  | 1 =>
    let r := lo / kCt b
    let c := lo % kCt b
    let h : Int := kHalo b
    let d := dst + BitVec.ofNat 64 (r * kDstride b + c * e)
    if kBorder b r c then some (.lit (zeros e), d)
    else some (.from (kSsp b) (addI (kSrc b) (((r : Int) - h) * kSstride b + ((c : Int) - h) * e)) e, d)
  | _ =>
    let d := dst + BitVec.ofNat 64 (4 * lo)
    if x = 0xFFFFFFFF then some (.lit (zeros 4), d)
    else if kSlimit b ≤ x then none
    else some (.from (kSsp b) (kSrc b + BitVec.ofNat 64 (x * kSstride b + 4 * (lo % (e / 4)))) 4, d)

/-- The offset of a unit in its record's data, under which bytes read ahead are kept; those of the indices of a GATHER
come after the data. -/
def kOffset (b : List Byte) (u : Nat) : Nat :=
  match kType b with
  | 1 => u * kElem b
  | 2 => 4 * u
  | _ => u

def kIndexOffset (b : List Byte) (row : Nat) : Nat := 4 * (kUnits b + row)

/-- Bytes of a record's data that have been read ahead. -/
def KRec.ahead (x : KRec) (off n : Nat) : Option (List Byte) :=
  (x.rbuf.find? (fun p => p.1 ≤ off && off + n ≤ p.1 + p.2.length)).map (fun p => bytesAt p.2 (off - p.1) n)

/-- Bytes of a record's data from where they lie, line by line, or as each line was read ahead. -/
def State.kLines (s : State) (c : Nat) (k : Chain) (x : KRec) (off space : Nat) (a : DWord) (ps : List (Nat × Nat)) :
    UOut (List Byte) × State :=
  match ps with
  | [] => (.ok [], s)
  | (o, n) :: r =>
    let here : UOut (List Byte) × State := match x.ahead (off + o) n with
      | some bs => (.ok bs, s)
      | none => s.jobRead (s.partOf k.team) k.gang (dieOfCluster c) space (a + BitVec.ofNat 64 o) n (some k.team)
    match here with
    | (.fail e z y, s) => (.fail e z y, s)
    | (.ok bs, s) =>
      match State.kLines s c k x off space a r with
      | (.ok more, s) => (.ok (bs ++ more), s)
      | (.fail e z y, s) => (.fail e z y, s)

def State.kFrom (s : State) (c : Nat) (k : Chain) (x : KRec) (off space : Nat) (a : DWord) (n : Nat) :
    UOut (List Byte) × State :=
  s.kLines c k x off space a (lineParts (n / 64 + 2) a.toNat 0 n)

/-- The index of the row of a unit; none for a record that is no GATHER. -/
def State.kIndexOf (s : State) (c : Nat) (k : Chain) (x : KRec) (row : Nat) : UOut (List Byte) × State :=
  let b := x.image
  if kType b = 2 then s.kFrom c k x (kIndexOffset b row) (kIsp b) (kIndex b + BitVec.ofNat 64 (4 * row)) 4
  else (.ok [], s)

/-- What a unit moves: its bytes, where they go, and the index of its row. -/
structure KMove where
  bs : List Byte
  dst : DWord
  index : List Byte

/-- Reading a unit. -/
def State.kGet (s : State) (c : Nat) (k : Chain) (x : KRec) (lo hi : Nat) : Except KFail KMove × State :=
  let b := x.image
  match s.kIndexOf c k x (kRow b lo) with
  | (.fail e r a, s) => (.error ⟨e, r, a, false⟩, s)
  | (.ok i, s) =>
    match kUnitData b lo hi (leNat i) with
    | none => (.error ⟨.record, false, 0, false⟩, s)
    | some (.lit bs, dst) => (.ok ⟨bs, dst, i⟩, s)
    | some (.from sp a n, dst) =>
      match s.kFrom c k x (kOffset b lo) sp a n with
      | (.fail e r a, s) => (.error ⟨e, r, a, false⟩, s)
      | (.ok bs, s) => (.ok ⟨bs, dst, i⟩, s)

/-- A unit of a record: it is read, written, and counted against the kettle budget; the answer is the index of its row. -/
def State.kUnit (s : State) (c : Nat) (k : Chain) (x : KRec) (lo hi : Nat) : Except KFail (List Byte) × State :=
  match s.kGet c k x lo hi with
  | (.error e, s) => (.error e, s)
  | (.ok m, s) =>
    let part := s.partOf k.team
    match s.jobWrite part k.gang (dieOfCluster c) (2 * k.arrived) (kDsp x.image) m.dst m.bs (some k.team) with
    | (.fail e r a, s) => (.error ⟨e, r, a, true⟩, s)
    | (.ok _, s) => (.ok m.index, s.charge part 2 m.bs.length)

/-- The index of a row is read once: the later units of the row use it. -/
def KRec.noteIndex (x : KRec) (u : Nat) (i : List Byte) : KRec :=
  if i.isEmpty then x else { x with rbuf := (kIndexOffset x.image (kRow x.image u), i) :: x.rbuf }

/-- The units of `[lo, lo + n)`: for LINEAR and FILL the destination's line parts, else each its own. -/
def kPieces (b : List Byte) (lo n : Nat) : List (Nat × Nat) :=
  if kType b = 0 || kType b = 4 then
    (lineParts (n / 64 + 2) ((kDst b).toNat + lo) 0 n).map (fun p => (lo + p.1, lo + p.1 + p.2))
  else (List.range n).map (fun i => (lo + i, lo + i + 1))

/-- Performing units in order until one waits, is held or fails. -/
def State.kRun (s : State) (c ch : Nat) (k : Chain) (r : Nat) (x : KRec) (ps : List (Nat × Nat)) : State :=
  match ps with
  | [] => s
  | (lo, hi) :: rest =>
    let part := s.partOf k.team
    if s.spent part 2 || s.crossHeld part (fun s => (s.kUnit c k x lo hi).2) then s
    else
      match s.kUnit c k x lo hi with
      | (.ok i, s) =>
        State.kRun (s.modRec c ch k.arrived r (fun x => { x.noteIndex lo i with todo := cutInterval x.todo lo hi }))
          c ch k r (x.noteIndex lo i) rest
      | (.error f, s) =>
        if f.res && s.canHold k.team then
          s.modRec c ch k.arrived r (fun x => { x with hold := some (.on f.cause f.va f.write) })
        else s.failRec c ch k r x f.cause

/-- A record of the walked chain: what a step of it finds. -/
def State.kRec (s : State) (c ch r : Nat) : Option (Chain × KRec) :=
  match s.walking c ch with
  | some k => match k.recs[r]? with | some x => if x.live then some (k, x) else none | none => none
  | none => none

/-- A step of a record that has begun: a hold that is resolved takes effect, else it goes on (R301). A
record that is held fails when its gang has been removed. -/
def State.kStep (s : State) (c ch r : Nat) (f : State → Chain → KRec → State) : State :=
  match s.kRec c ch r with
  | none => s
  | some (k, x) =>
    if !x.released then s
    else
      match x.hold with
      | none => f s k x
      | some h =>
        match h.res with
        | none => if (s.gang k.gang).phase == .removed then s.failRec c ch k r x h.cause else s
        | some .retry => f (s.modRec c ch k.arrived r (fun x => { x with hold := none })) k { x with hold := none }
        | some _ => s.failRec c ch k r x h.cause

/-- Reading a unit ahead of its write, or the index of a GATHER row (10/R263, R276). What cannot be read now is met when it
is needed. -/
def State.kAhead (s : State) (c ch r lo n : Nat) : State :=
  match s.kRec c ch r with
  | none => s
  | some (k, x) =>
    let part := s.partOf k.team
    let keep (s : State) (off : Nat) (bs : List Byte) : State :=
      s.modRec c ch k.arrived r (fun x => { x with rbuf := (off, bs) :: x.rbuf })
    if !x.released || x.hold.isSome || !inIntervals x.todo lo (lo + max n 1) then s
    else if n = 0 then
      match s.kIndexOf c k x (kRow x.image lo) with
      | (.ok i, s') => if s.crossHeld part (fun s => (s.kIndexOf c k x (kRow x.image lo)).2) || i.isEmpty then s
          else keep s' (kIndexOffset x.image (kRow x.image lo)) i
      | (.fail .., _) => s
    else
      let hi := if kType x.image = 0 then lo + min n 64 else lo + 1
      match s.kGet c k x lo hi with
      | (.ok m, s') =>
        if s.crossHeld part (fun s => (s.kGet c k x lo hi).2) then s
        else (keep s' (kOffset x.image lo) m.bs).modRec c ch k.arrived r (fun x => x.noteIndex lo m.index)
      | (.error _, _) => s

/-- A copy step: units of a record of a type. -/
def State.kCopy (s : State) (type c ch r lo n : Nat) : State :=
  s.kStep c ch r (fun s k x =>
    if kType x.image = type && n != 0 && inIntervals x.todo lo (lo + n) then
      s.kRun c ch k r x (kPieces x.image lo n)
    else s)

def execLinear (cluster ch r lo n : Nat) (s : State) : Host.Outcome State Fault Refusal :=
  .next (s.kCopy 0 cluster ch r lo n)

def execTile (cluster ch r lo n : Nat) (s : State) : Host.Outcome State Fault Refusal :=
  .next (s.kCopy 1 cluster ch r lo n)

def execGather (cluster ch r lo n : Nat) (s : State) : Host.Outcome State Fault Refusal :=
  .next (s.kCopy 2 cluster ch r lo n)

def execFill (cluster ch r lo n : Nat) (s : State) : Host.Outcome State Fault Refusal :=
  .next (s.kCopy 4 cluster ch r lo n)

/-- ARRIVE (R295, R304): `barrive` with COUNT at the barrier's bank, or BARRIER_STATE. -/
def execArrive (cluster ch r : Nat) (s : State) : Host.Outcome State Fault Refusal :=
  .next (s.kStep cluster ch r (fun s k x =>
    if kType x.image != 3 || x.todo.isEmpty then s
    else if s.isBad 2 k.gang (kBarrier x.image) 8 then
      (s.metBad (s.partOf k.team) 2 (dieOfCluster cluster) 0 (kBarrier x.image) (some k.team)).failRec cluster ch k r x
        .deviceError
    else
      match s.arriveAt k.gang (kBarrier x.image) (kCount x.image) with
      | some s => s.modRec cluster ch k.arrived r (fun x => { x with todo := [] })
      | none => s.failRec cluster ch k r x .barrierState))

/-! ### RECORD_RETIRE (R286, R300) -/

/-- Step 4 of a retirement: the control doubleword is written, and the chain may end. -/
def State.retireRec (s : State) (c ch r : Nat) (k : Chain) (x : KRec) : State :=
  match s.putControl c k x false 0 with
  | .later => s
  | .written s => (s.modRec c ch k.arrived r (fun x => { x with retired := true })).endChain c ch
  | .cannot cause res a s =>
    if res && s.canHold k.team then
      s.modRec c ch k.arrived r (fun x => { x with hold := some (.on cause a true) })
    else s.failRec c ch k r x cause

/-- A failed record whose control doubleword waits for a budget or for a resolution (R299, R301). -/
def State.fateStep (s : State) (c ch r : Nat) : State :=
  match s.walking c ch with
  | none => s
  | some k =>
    match (k.recs[r]?).bind (·.hold) with
    | none => s.putFate c ch r
    | some h =>
      let give (s : State) : State := s.modRec c ch k.arrived r (fun x => { x with fate := none, hold := none })
      match h.res with
      | some .retry => (s.modRec c ch k.arrived r (fun x => { x with hold := none })).putFate c ch r
      | some _ => (give s).endChain c ch
      | none => if (s.gang k.gang).phase == .removed then (give s).endChain c ch else s

/-- A record after a failed one, of which nothing has been performed, may be dropped, and an ARRIVE always is
(R300). -/
def Chain.dropped (k : Chain) (r : Nat) (x : KRec) : Bool :=
  k.failed && (k.recs.take r).any (·.failed) && x.todo == [(0, kUnits x.image)]

def execRecordRetire (cluster ch r : Nat) (s : State) : Host.Outcome State Fault Refusal :=
  match s.kRec cluster ch r with
  | none => .next (s.fateStep cluster ch r)
  | some (k, x) =>
    if k.dropped r x then
      .next ((s.modRec cluster ch k.arrived r (fun x =>
        { x with retired := true, ranged := false, hold := none })).endChain cluster ch)
    else
      .next (s.kStep cluster ch r (fun s k x =>
        if !x.todo.isEmpty then s
        else
          let s := s.modRec cluster ch k.arrived r (fun x => { x with ranged := false, counted := true })
          if kBar x.image && kType x.image != 3 && !x.counted then
            match s.payAt k.gang (kBarrier x.image) (kBytes x.image) with
            | some s => s.retireRec cluster ch r k { x with counted := true }
            | none => s.failRec cluster ch k r x .barrierState
          else s.retireRec cluster ch r k x))

/-! ### The release of a record (R285, 10/R277) -/

/-- Whether a record may begin within its chain (R285). -/
def Chain.mayBegin (k : Chain) (r : Nat) (x : KRec) : Bool :=
  let before := k.recs.take r
  if kType x.image = 3 then before.all (·.retired)
  else before.all (fun y => !y.live || !clashes (kFootprint y.image) (kFootprint x.image))

end Sys2Proof.Machine
end

