-- ==== Sys2Proof/Machine/Engine.lean ====
section
/-!
DEFINITION. What a matrix engine computes (12/R314 to R317, R319, R326 to R335, 04/R110 to R112): tile records,
reading their elements and scales, the accumulators, and one pass of each kind of job.
-/

namespace Sys2Proof.Machine

/-! ### Tile records (R314, R315) -/

def tBase (b : List Byte) : DWord := dwordAt b 0
def tSbase (b : List Byte) : DWord := dwordAt b 8
def tBm (b : List Byte) : DWord := dwordAt b 0x10
def tRstride (b : List Byte) : Nat := natAt b 0x18 4
def tSstride (b : List Byte) : Nat := natAt b 0x1C 4
def tRows (b : List Byte) : Nat := natAt b 0x20 2
def tCols (b : List Byte) : Nat := natAt b 0x22 2
def tKind (b : List Byte) : Nat := bitsOf (natAt b 0x24 4) 31 28
def tSpace (b : List Byte) : Nat := bitsOf (natAt b 0x24 4) 27 26
def tType (b : List Byte) : Nat := bitsOf (natAt b 0x24 4) 25 22
def tAxis (b : List Byte) : Nat := bitsOf (natAt b 0x24 4) 21 21
def tXstride (b : List Byte) : Nat := natAt b 0x28 4
def tOw (b : List Byte) : Nat := natAt b 0x2E 2
def tFh (b : List Byte) : Nat := bitsOf (natAt b 0x2C 4) 15 12 + 1
def tFw (b : List Byte) : Nat := bitsOf (natAt b 0x2C 4) 11 8 + 1
def tStr (b : List Byte) : Nat := bitsOf (natAt b 0x2C 4) 7 4 + 1
def tDil (b : List Byte) : Nat := bitsOf (natAt b 0x2C 4) 3 0 + 1
def tCh (b : List Byte) : Nat := natAt b 0x30 2

/-- Whether a type has block scales, twice EB, SB and the family. -/
def tScaled (ty : Nat) : Bool := ty < 5
def tNib (ty : Nat) : Nat := if ty = 2 || ty = 4 then 1 else if ty = 5 || ty = 6 then 4 else if ty = 9 then 8 else 2
def tSb (ty : Nat) : Nat := if ty < 3 then 1 else if ty < 5 then 2 else 0
def tFamily (ty : Nat) : Nat :=
  if ty < 3 then 0 else if ty < 5 then 1 else if ty = 5 then 2 else if ty = 6 then 3 else if ty < 9 then 4 else 5

/-- Bytes of a row of elements. -/
def tRowBytes (b : List Byte) : Nat := (tCols b * tNib (tType b) + 1) / 2

/-- Malformed (R319); `dest` when a job writes through the record. -/
def tBad (b : List Byte) (dest : Bool) : Bool :=
  let ty := tType b
  let z (off n : Nat) : Bool := natAt b off n = 0
  2 < tKind b || tSpace b = 3 || 9 < ty || bitsOf (natAt b 0x24 4) 20 0 != 0 || !z 0x32 2 || !z 0x34 12 ||
    tRows b = 0 || tCols b = 0 || (tBase b).toNat % 16 != 0 || tRstride b % 16 != 0 ||
    (tKind b = 2 && tXstride b % 16 != 0) ||
    (if tScaled ty then
      (if tAxis b = 0 then tCols b % 32 != 0 else tRows b % 32 != 0) ||
        (tSbase b).toNat % tSb ty != 0 || tSstride b % tSb ty != 0
     else tSbase b != 0 || tSstride b != 0 || tAxis b != 0) ||
    (tKind b = 0 && (tBm b != 0 || !z 0x28 12)) ||
    (tKind b = 1 && (tXstride b < (tCols b + 7) / 8 || !z 0x2C 8)) ||
    (tKind b = 2 && (tBm b != 0 || tOw b = 0 || tCh b = 0 || tCh b % 32 != 0 ||
      tCols b != tFh b * tFw b * tCh b || (tScaled ty && tAxis b = 1))) ||
    (dest && tRstride b < tRowBytes b)

/-! ### Addresses (R316, R317) -/

def off64 (a : DWord) (n : Nat) : DWord := a + BitVec.ofNat 64 n

/-- Image row, pixel and channel of element (m, k) of a WINDOW. -/
def tWindow (b : List Byte) (m k : Nat) : Nat × Nat × Nat :=
  let tap := k / tCh b
  (m / tOw b * tStr b + tap / tFw b * tDil b, m % tOw b * tStr b + tap % tFw b * tDil b, k % tCh b)

/-- The byte of element (r, c), and whether it is in the high half of it. -/
def tElemAt (b : List Byte) (r c : Nat) : DWord × Bool :=
  let nib := tNib (tType b)
  if tKind b = 2 then
    let (y, x, ch) := tWindow b r c
    (off64 (tBase b) (y * tRstride b + x * tXstride b + ch * nib / 2), nib == 1 && ch % 2 == 1)
  else (off64 (tBase b) (r * tRstride b + c * nib / 2), nib == 1 && c % 2 == 1)

/-- The scale of the block that holds element (r, c). -/
def tScaleAt (b : List Byte) (r c : Nat) : DWord :=
  let sb := tSb (tType b)
  if tKind b = 2 then
    let (y, x, ch) := tWindow b r c
    off64 (tSbase b) (y * tSstride b + (x * tCh b / 32 + ch / 32) * sb)
  else if tAxis b = 0 then off64 (tSbase b) (r * tSstride b + c / 32 * sb)
  else off64 (tSbase b) (r / 32 * tSstride b + c * sb)

/-- The rows of a WINDOW that may reach its highest byte: the last, and the last at the right edge of the image. -/
def tCorners (b : List Byte) : List Nat :=
  let m := tRows b - 1
  m :: (if tOw b ≤ tRows b then [tRows b / tOw b * tOw b - 1] else [])

/-- The bounding ranges of a record's elements, scales and bitmap: address and length (R322). -/
def tRanges (b : List Byte) : List (DWord × Nat) :=
  let ty := tType b
  let m := tRows b - 1
  let sb := tSb ty
  if tKind b = 2 then
    let top (f : Nat → Nat → Nat) : Nat := ((tCorners b).map (fun m =>
      f (m / tOw b * tStr b + (tFh b - 1) * tDil b) (m % tOw b * tStr b + (tFw b - 1) * tDil b))).foldl max 0
    (tBase b, top (fun y x => y * tRstride b + x * tXstride b) + tCh b * tNib ty / 2) ::
      (if tScaled ty then
        [(tSbase b, top (fun y x => y * tSstride b + x * tCh b / 32 * sb) + tCh b / 32 * sb)] else [])
  else
    (tBase b, m * tRstride b + tRowBytes b) ::
      (if !tScaled ty then []
       else if tAxis b = 0 then [(tSbase b, m * tSstride b + tCols b / 32 * sb)]
       else [(tSbase b, (tRows b / 32 - 1) * tSstride b + tCols b * sb)]) ++
      (if tKind b = 1 then [(tBm b, m * tXstride b + (tCols b + 7) / 8)] else [])

/-- The same as pieces of a footprint. -/
def tExtents (b : List Byte) (write : Bool) : List Extent :=
  (tRanges b).map (fun r => .range (tSpace b) r.1 r.2 write)

/-! ### Reading and writing operands -/

/-- Bytes of the B-store. -/
def bstoreSize : Nat := 0x800000

/-- The failure of a job (R323): its cause, whether it is resolvable, the address of the access, and the tile record
whose operand caused it. -/
structure JFail where
  cause : Cause
  res : Bool
  va : DWord
  write : Bool
  record : DWord

/-- What a job works on: its gang's partition, gang, cluster, the record with its address; the team that consumes the data,
the number of the job, the bytes that it has read ahead, and whether a pass only forms its writes (10/R263, R276). -/
structure TRec where
  part : Nat
  gang : Nat
  clu : Nat
  addr : DWord
  b : List Byte
  team : Nat
  job : Nat
  ahead : List (Nat × DWord × List Byte)
  defer : Bool

/-- Reading bytes of a space for a job. -/
def State.tFetch (s : State) (t : TRec) (space : Nat) (a : DWord) (n : Nat) : UOut (List Byte) × State :=
  if space = 2 then
    if s.isBad 6 t.clu a.toNat n then
      (.fail .deviceError false a, s.metBad t.part 6 (dieOfCluster t.clu) 0 0 (some t.team))
    else (.ok ((s.cluster t.clu).bstore.readN a.toNat n), s)
  else s.jobRead t.part t.gang (dieOfCluster t.clu) space a n (some t.team)

/-- A computation on each of a list of things in order, up to the first that fails. -/
def runEach {α β ε : Type} (f : State → α → Except ε β × State) (l : List α) (s : State) :
    Except ε (List β) × State :=
  match l with
  | [] => (.ok [], s)
  | x :: r =>
    match f s x with
    | (.error e, s) => (.error e, s)
    | (.ok y, s) =>
      match runEach f r s with
      | (.ok ys, s) => (.ok (y :: ys), s)
      | (.error e, s) => (.error e, s)

/-- Bytes of a job's operands that have been read ahead. -/
def TRec.readAhead (t : TRec) (a : DWord) (n : Nat) : Option (List Byte) :=
  (t.ahead.find? (fun p => p.1 == tSpace t.b && (a - p.2.1).toNat + n ≤ p.2.2.length)).map (fun p =>
    bytesAt p.2.2 (a - p.2.1).toNat n)

/-- Reading bytes of a record's space that have not been read ahead. -/
def State.tNow (s : State) (t : TRec) (a : DWord) (n : Nat) : Except JFail (List Byte) × State :=
  match s.tFetch t (tSpace t.b) a n with
  | (.ok bs, s) => (.ok bs, s)
  | (.fail c r x, s) => (.error ⟨c, r, x, false, t.addr⟩, s)

/-- Reading bytes of a record's space: each line's are those that were read ahead, or are read now (10/R263, R276). -/
def State.tRead (s : State) (t : TRec) (a : DWord) (n : Nat) : Except JFail (List Byte) × State :=
  let ps := lineParts (n / 64 + 2) a.toNat 0 n
  if !ps.any (fun p => (t.readAhead (off64 a p.1) p.2).isSome) then s.tNow t a n
  else
    match runEach (fun s (p : Nat × Nat) =>
      match t.readAhead (off64 a p.1) p.2 with
      | some bs => (.ok bs, s)
      | none => s.tNow t (off64 a p.1) p.2) ps s with
    | (.ok bss, s) => (.ok bss.flatten, s)
    | (.error e, s) => (.error e, s)

def State.modJob (s : State) (c a : Nat) (f : Job → Job) : State :=
  s.modCluster c (fun k => { k with jobs := k.jobs.map (fun x => if x.arrived == a then f x else x) })

/-- Writing bytes of a record's space, or only forming the writes, one to a line. -/
def State.tWrite (s : State) (t : TRec) (a : DWord) (bs : List Byte) : Except JFail Unit × State :=
  if t.defer then
    (.ok (), s.modJob t.clu t.job (fun j => { j with
      wbuf := j.wbuf ++ (lineParts (bs.length / 64 + 2) a.toNat 0 bs.length).map (fun p =>
        (t.addr, tSpace t.b, off64 a p.1, bytesAt bs p.1 p.2)) }))
  else
    match s.jobWrite t.part t.gang (dieOfCluster t.clu) (2 * t.job) (tSpace t.b) a bs (some t.team) with
    | (.ok _, s) => (.ok (), s)
    | (.fail c r x, s) => (.error ⟨c, r, x, true, t.addr⟩, s)

/-- The byte at an address as it stands, where half of it is to be kept. -/
def State.tPeek (s : State) (t : TRec) (a : DWord) : Nat :=
  if tSpace t.b = 1 then ((s.gang t.gang).spad.read a.toNat).toNat
  else
    match (s.translate t.part none (dieOfCluster t.clu) none a { w := true } none).1 with
    | .ok tl =>
      let p := (s.part t.part).at tl a 1
      leNat (s.readAt t.part p.1 p.2 1)
    | .fail .. => 0

/-- The code of an element. -/
def State.tCode (s : State) (t : TRec) (rc : Nat × Nat) : Except JFail Nat × State :=
  let (a, hi) := tElemAt t.b rc.1 rc.2
  let n := (tNib (tType t.b) + 1) / 2
  match s.tRead t a n with
  | (.error e, s) => (.error e, s)
  | (.ok bs, s) =>
    (.ok (if tNib (tType t.b) = 1 then (if hi then leNat bs / 16 else leNat bs % 16) else leNat bs), s)

/-- The code of an element, or nothing when a bitmap marks it absent (R316). -/
def State.tPresent (s : State) (t : TRec) (rc : Nat × Nat) : Except JFail (Option Nat) × State :=
  let code (s : State) : Except JFail (Option Nat) × State :=
    match s.tCode t rc with
    | (.ok c, s) => (.ok (some c), s)
    | (.error e, s) => (.error e, s)
  if tKind t.b = 1 then
    match s.tRead t (off64 (tBm t.b) (rc.1 * tXstride t.b + rc.2 / 8)) 1 with
    | (.error e, s) => (.error e, s)
    | (.ok bs, s) => if bitsOf (leNat bs) (rc.2 % 8) (rc.2 % 8) = 1 then code s else (.ok none, s)
  else code s

/-- The scale or header of the block of an element; 0x7F, a scale of 1, for a type without scales. -/
def State.tScale (s : State) (t : TRec) (rc : Nat × Nat) : Except JFail Nat × State :=
  if tScaled (tType t.b) then
    match s.tRead t (tScaleAt t.b rc.1 rc.2) (tSb (tType t.b)) with
    | (.ok bs, s) => (.ok (leNat bs), s)
    | (.error e, s) => (.error e, s)
  else (.ok 0x7F, s)

/-! ### Values (04/R84, R94 to R96) -/

/-- The format of an element of a type, without a selector. -/
def tFmt (ty : Nat) : Fmt :=
  if ty < 5 then blockFmt ty else if ty = 5 then fmtBf16 else if ty = 6 then fmtF16 else if ty = 7 then fmtE4m3
  else if ty = 8 then fmtE5m2 else fmtF32

/-- An element before scaling. -/
def tElem (ty code : Nat) : FV :=
  (tFmt ty).decode (if ty = 3 || ty = 4 then code % 2 ^ (tFmt ty).w else code)

/-- Whether a scale is the NaN scale, or a header is malformed (R94, R95). -/
def tScaleNan (ty h : Nat) : Bool :=
  if ty < 3 then h == 255
  else if ty < 5 then h % 256 == 255 || bitsOf h 11 8 == 0 || bitsOf h 15 12 != 0
  else false

/-- The exponent of the scale of an element. -/
def tScaleExp (ty h code : Nat) : Int :=
  if ty < 3 then Int.ofNat h - 127
  else if ty < 5 then
    Int.ofNat (h % 256) - (if code / 2 ^ (tFmt ty).w % 2 = 1 then Int.ofNat (bitsOf h 11 8) else 0) - 127
  else 0

def FV.scale (v : FV) (k : Int) : FV := match v with | .fin n m e => .fin n m (e + k) | v => v

/-- Scale × Elem. -/
def tValue (ty h code : Nat) : FV :=
  if tScaleNan ty h then .nan false else (tElem ty code).scale (tScaleExp ty h code)

/-! ### The accumulator store (R311) -/

def accAddr (tile r c : Nat) : Nat := tile * 0x40000 + (r * 256 + c) * 4

def Cluster.accAt (c : Cluster) (tile r k : Nat) : Word := BitVec.ofNat 32 (leNat (c.acc.readN (accAddr tile r k) 4))

def State.setAcc (s : State) (clu tile r k : Nat) (x : Word) : State :=
  s.modCluster clu (fun c => { c with acc := c.acc.writeN (accAddr tile r k) (w32le x) })

/-! ### One block of one output element (R327, 04/R110 to R112) -/

/-- A block of 32 elements of an operand along K: codes, absent ones `none`, and its scale. -/
structure TBlock where
  ty : Nat
  els : List (Option Nat)
  scale : Nat

/-- The products of a block: the exact scaled sum, whether any was formed, and whether one was skipped beside an
infinity or a NaN. -/
def dotBlock (a b : TBlock) : FV × Bool × Bool :=
  (a.els.zip b.els).foldl (fun (acc : FV × Bool × Bool) (p : Option Nat × Option Nat) =>
    match p with
    | (some x, some y) =>
      let v := (tElem a.ty x).scale (tScaleExp a.ty a.scale x)
      let w := (tElem b.ty y).scale (tScaleExp b.ty b.scale y)
      ((addFV 0 acc.1 (mulFV v w).1).1, true, acc.2.2)
    | (some x, none) => (acc.1, acc.2.1, acc.2.2 || (tElem a.ty x).isNan || (tElem a.ty x).isInf)
    | (none, some y) => (acc.1, acc.2.1, acc.2.2 || (tElem b.ty y).isNan || (tElem b.ty y).isInf)
    | (none, none) => acc) (.fin false 0 0, false, false)

/-- The accumulator after a block, with the flags of MSTAT. -/
def accBlock (acc : Word) (a b : TBlock) : Word × BitVec 3 :=
  let (sum, formed, skip) := dotBlock a b
  let fl : BitVec 3 := if skip then msSkipNf else 0
  if !formed then (acc, fl)
  else
    let nan := tScaleNan a.ty a.scale || tScaleNan b.ty b.scale
    let x := fmtF32.decode (fmtF32.round 0 false false (if nan then .nan false else sum)).1
    let old := fmtF32.decode acc.toNat
    let new := (fmtF32.round 0 false false (addFV 0 old x).1).1
    let ovf := !old.isNan && !old.isInf && !x.isNan && !x.isInf && (fmtF32.decode new).isInf
    (BitVec.ofNat 32 new,
      fl ||| (if nan then msNanScale else 0) ||| (if ovf then msAccOverflow else 0))

/-- Reading the elements of block q of a line of an operand: `at k` is the place of element k. -/
def State.tEls (s : State) (t : TRec) (place : Nat → Nat × Nat) (q : Nat) : Except JFail (List (Option Nat)) × State :=
  runEach (fun s k => s.tPresent t (place k)) ((List.range 32).map (32 * q + ·)) s

/-- Whether two lines of elements form a product. -/
def formsProduct (x y : List (Option Nat)) : Bool := (x.zip y).any (fun p => p.1.isSome && p.2.isSome)

/-- The block of a line with its scale, which is read only where a product of the block is formed with one of the other
operand's lines (R327). -/
def State.tBlock (s : State) (t : TRec) (place : Nat → Nat × Nat) (q : Nat) (els : List (Option Nat))
    (others : List (List (Option Nat))) : Except JFail TBlock × State :=
  if others.any (formsProduct els) then
    match s.tScale t (place (32 * q)) with
    | (.error e, s) => (.error e, s)
    | (.ok h, s) => (.ok { ty := tType t.b, els := els, scale := h }, s)
  else (.ok { ty := tType t.b, els := els, scale := 0 }, s)

/-- Reading block q of every line of both operands. -/
def State.mmaBlocks (s : State) (a b : TRec) (wide : Bool) (m n q : Nat) :
    Except JFail (List TBlock × List TBlock) × State :=
  let pa (i k : Nat) : Nat × Nat := (i, k)
  let pb (j k : Nat) : Nat × Nat := if wide then (k, j) else (j, k)
  match runEach (fun s i => s.tEls a (pa i) q) (List.range m) s with
  | (.error e, s) => (.error e, s)
  | (.ok xs, s) =>
    match runEach (fun s j => s.tEls b (pb j) q) (List.range n) s with
    | (.error e, s) => (.error e, s)
    | (.ok ys, s) =>
      match runEach (fun s (i : List (Option Nat) × Nat) => s.tBlock a (pa i.2) q i.1 ys) xs.zipIdx s with
      | (.error e, s) => (.error e, s)
      | (.ok rows, s) =>
        match runEach (fun s (j : List (Option Nat) × Nat) => s.tBlock b (pb j.2) q j.1 xs) ys.zipIdx s with
        | (.error e, s) => (.error e, s)
        | (.ok cols, s) => (.ok (rows, cols), s)

/-! ### The fields of the job control operand (R324) -/

def scAcc (sc : Word) : Nat := bitsOf sc.toNat 18 16
def scRow (sc : Word) : Nat := bitsOf sc.toNat 15 8
def scCol (sc : Word) : Nat := bitsOf sc.toNat 7 0
def scBit (sc : Word) : Bool := sc.getLsbD 19

/-! ### Passes -/

/-- What a pass gives: the state and the flags that it raises. -/
abbrev PassOut := Except JFail (BitVec 3) × State

/-- Whether reading a region of an accumulator tile meets an uncorrectable error (15/R399). -/
def State.accBad (s : State) (clu tile row col rows cols : Nat) : Bool :=
  (List.range rows).any (fun r => s.isBad 5 clu (accAddr tile (row + r) col) (cols * 4))

/-- Rows of a region that have been written. -/
def State.accHealed (s : State) (clu tile row col rows cols : Nat) : State :=
  (List.range rows).foldl (fun s r => s.healed 5 clu (accAddr tile (row + r) col) (cols * 4)) s

/-- K-block q of an `mma` for one member (R327). An error that the accumulator store meets names the record in pair a (DESIGN
CHOICE: R323 says of no record that it caused it; log entry 126). -/
def State.mmaPass (s : State) (a b : TRec) (wide : Bool) (sc : Word) (q : Nat) : PassOut :=
  let m := tRows a.b
  let n := if wide then tCols b.b else tRows b.b
  match s.mmaBlocks a b wide m n q with
  | (.error e, s) => (.error e, s)
  | (.ok (rows, cols), s) =>
    let tile := scAcc sc
    let fresh := q = 0 && scBit sc
    if !fresh && s.accBad a.clu tile (scRow sc) (scCol sc) m n then
      (.error ⟨.deviceError, false, 0, false, a.addr⟩, s.metBad a.part 5 (dieOfCluster a.clu) 0 0 (some a.team))
    else
      let r := rows.zipIdx.foldl (fun (x : State × BitVec 3) (ra : TBlock × Nat) =>
        cols.zipIdx.foldl (fun (x : State × BitVec 3) (cb : TBlock × Nat) =>
          let i := scRow sc + ra.2
          let j := scCol sc + cb.2
          let old := if fresh then 0 else (x.1.cluster a.clu).accAt tile i j
          let (v, f) := accBlock old ra.1 cb.1
          (x.1.setAcc a.clu tile i j v, x.2 ||| f)) x) (s, 0)
      (.ok r.2, r.1.accHealed a.clu tile (scRow sc) (scCol sc) m n)

/-- The rows of pass g of a job that works in groups of 32 rows. -/
def groupRows (rows g : Nat) : List Nat := (List.range (min 32 (rows - 32 * g))).map (32 * g + ·)

/-- Padding a line with zeros to its stride. -/
def padTo (n : Nat) (bs : List Byte) : List Byte := bs ++ zeros (n - bs.length)

def tPr (b : List Byte) : Nat := roundUp (tRowBytes b) 64
def tPs (b : List Byte) : Nat := roundUp ((if tAxis b = 0 then tCols b / 32 else tCols b) * tSb (tType b)) 64
def tPb (b : List Byte) : Nat := roundUp ((tCols b + 7) / 8) 64
/-- Lines of scales of an image. -/
def tLines (b : List Byte) : Nat :=
  if !tScaled (tType b) then 0 else if tAxis b = 0 then tRows b else tRows b / 32
/-- The size of a B-store image (R331). -/
def tImage (b : List Byte) : Nat :=
  tRows b * tPr b + tLines b * tPs b + (if tKind b = 1 then tRows b * tPb b else 0)

/-- Group g of a `bput` at a B-store offset (R331). The last byte of a row of an odd count of 4-bit elements is copied whole
(log entry 107). -/
def State.bputPass (s : State) (t : TRec) (o g : Nat) : PassOut :=
  let b := t.b
  let rows := groupRows (tRows b) g
  let s0 := o + tRows b * tPr b
  let bm := s0 + tLines b * tPs b
  let put (s : State) (x : Nat × DWord × Nat × Nat) : Except JFail Unit × State :=
    match s.tRead t x.2.1 x.2.2.1 with
    | (.error e, s) => (.error e, s)
    | (.ok bs, s) =>
      (.ok (), (s.modCluster t.clu (fun c => { c with bstore := c.bstore.writeN x.1 (padTo x.2.2.2 bs) })).healed
        6 t.clu x.1 x.2.2.2)
  let els := rows.map (fun r => (o + r * tPr b, off64 (tBase b) (r * tRstride b), tRowBytes b, tPr b))
  let sb := tSb (tType b)
  let scs :=
    if !tScaled (tType b) then []
    else if tAxis b = 0 then
      rows.map (fun r => (s0 + r * tPs b, off64 (tSbase b) (r * tSstride b), tCols b / 32 * sb, tPs b))
    else [(s0 + g * tPs b, off64 (tSbase b) (g * tSstride b), tCols b * sb, tPs b)]
  let bms := if tKind b = 1 then
      rows.map (fun r => (bm + r * tPb b, off64 (tBm b) (r * tXstride b), (tCols b + 7) / 8, tPb b)) else []
  match runEach put (els ++ scs ++ bms) s with
  | (.ok _, s) => (.ok 0, s)
  | (.error e, s) => (.error e, s)

/-- The value of an element of a record, with whether its scale is the NaN scale or malformed. -/
def State.tLoad (s : State) (t : TRec) (rc : Nat × Nat) : Except JFail (FV × Bool) × State :=
  match s.tCode t rc with
  | (.error e, s) => (.error e, s)
  | (.ok c, s) =>
    match s.tScale t rc with
    | (.error e, s) => (.error e, s)
    | (.ok h, s) => (.ok (tValue (tType t.b) h c, tScaleNan (tType t.b) h), s)

/-- Group g of an `accld` (R332). -/
def State.accldPass (s : State) (t : TRec) (sc : Word) (g : Nat) : PassOut :=
  let cells := (groupRows (tRows t.b) g).flatMap (fun r => (List.range (tCols t.b)).map (fun c => (r, c)))
  match runEach (fun s rc => s.tLoad t rc) cells s with
  | (.error e, s) => (.error e, s)
  | (.ok vs, s) =>
    let r := (cells.zip vs).foldl (fun (x : State × BitVec 3) (p : (Nat × Nat) × FV × Bool) =>
      let (w, f) := fmtF32.round 0 false false p.2.1
      (x.1.setAcc t.clu (scAcc sc) (scRow sc + p.1.1) (scCol sc + p.1.2) (BitVec.ofNat 32 w),
        x.2 ||| (if p.2.2 then msNanScale else 0) ||| (if f &&& flOF != 0 then msAccOverflow else 0))) (s, 0)
    (.ok r.2, r.1.accHealed t.clu (scAcc sc) (scRow sc + 32 * g) (scCol sc) (groupRows (tRows t.b) g).length (tCols t.b))

/-- Quantising a block of exact values (R334). -/
def engineQuantise (ty mode : Nat) (vs : List FV) : Nat × List Nat :=
  let fin (v : FV) : Bool := !(v.isNan || v.isInf)
  if (ty = 2 || ty = 4) || vs.all fin then
    let q := quantise ty mode vs
    (q.1, q.2.1)
  else
    let q := quantise ty mode (vs.map (fun v => if fin v then v else .fin false 0 0))
    (q.1, (vs.zip q.2.1).map (fun p =>
      match p.1 with
      | .nan _ => (blockFmt ty).nanCode
      | .inf n => if ty = 1 then fmtE5m2.signed n fmtE5m2.infCode else (blockFmt ty).nanCode
      | .fin .. => p.2))

/-- Packing a row of elements into bytes; an odd half byte is `rest`. -/
def packRow (nib rest : Nat) (cs : List Nat) : List Byte :=
  if nib = 1 then
    (List.range ((cs.length + 1) / 2)).map (fun i =>
      BitVec.ofNat 8 ((cs[2 * i]?).getD 0 % 16 + ((cs[2 * i + 1]?).getD rest) % 16 * 16))
  else cs.flatMap (fun c => leBytes (nib / 2) c)

/-- Writing rows of elements of group g of a destination, and the scales of its blocks: `val r c` is an element's
exact value, `raw r c` its f32 bits (R333, R335). -/
def State.tStore (s : State) (t : TRec) (fmt : Word) (g : Nat) (val : Nat → Nat → FV)
    (raw : Nat → Nat → Nat) : Except JFail Unit × State :=
  let b := t.b
  let ty := tType b
  let nib := tNib ty
  let mode := bitsOf fmt.toNat 5 3
  let rows := groupRows (tRows b) g
  let cols := tCols b
  let sb := tSb ty
  -- the blocks of the group: along rows, one list of blocks a row; along columns, one block a column
  let rowBlocks (r : Nat) : List (Nat × List Nat) :=
    (List.range (cols / 32)).map (fun k => engineQuantise ty mode ((List.range 32).map (fun j => val r (32 * k + j))))
  let colBlocks : List (Nat × List Nat) :=
    if tScaled ty && tAxis b = 1 then (List.range cols).map (fun c => engineQuantise ty mode (rows.map (fun r => val r c)))
    else []
  let codes (r : Nat) : List Nat :=
    if tScaled ty then
      if tAxis b = 0 then (rowBlocks r).flatMap (·.2)
      else colBlocks.map (fun q => (q.2[r - 32 * g]?).getD 0)
    else (List.range cols).map (fun c =>
      if ty = 9 then raw r c
      else ((tFmt ty).round mode (fmt.getLsbD 6) (fmt.getLsbD 7 && (ty = 5 || ty = 6)) (val r c)).1)
  let put (s : State) (x : DWord × List Byte) : Except JFail Unit × State := s.tWrite t x.1 x.2
  let row (s : State) (r : Nat) : Except JFail Unit × State :=
    let a := (tElemAt b r 0).1
    let rest := if nib = 1 && cols % 2 = 1 then s.tPeek t (off64 a (cols / 2)) / 16 else 0
    put s (a, packRow nib rest (codes r))
  let scales : List (DWord × List Byte) :=
    if !tScaled ty then []
    else if tAxis b = 0 then
      rows.map (fun r => (tScaleAt b r 0, (rowBlocks r).flatMap (fun q => leBytes sb q.1)))
    else [(tScaleAt b (32 * g) 0, colBlocks.flatMap (fun q => leBytes sb q.1))]
  match runEach row rows s with
  | (.error e, s) => (.error e, s)
  | (.ok _, s) =>
    match runEach put scales s with
    | (.error e, s) => (.error e, s)
    | (.ok _, s) => (.ok (), s)

/-- Group g of an `accst` (R333). -/
def State.accstPass (s : State) (t : TRec) (sc fmt : Word) (g : Nat) : PassOut :=
  let rows := groupRows (tRows t.b) g
  let c := s.cluster t.clu
  let raw (r k : Nat) : Nat := (c.accAt (scAcc sc) (scRow sc + r) (scCol sc + k)).toNat
  let row := scRow sc + 32 * g
  if s.accBad t.clu (scAcc sc) row (scCol sc) rows.length (tCols t.b) then
    (.error ⟨.deviceError, false, 0, false, t.addr⟩, s.metBad t.part 5 (dieOfCluster t.clu) 0 0 (some t.team))
  else
    match s.tStore t fmt g (fun r k => fmtF32.decode (raw r k)) raw with
    | (.error e, s) => (.error e, s)
    | (.ok _, s) =>
      (.ok 0,
        if scBit sc then
          (rows.foldl (fun s r => (List.range (tCols t.b)).foldl (fun s k =>
            s.setAcc t.clu (scAcc sc) (scRow sc + r) (scCol sc + k) 0) s) s).accHealed t.clu (scAcc sc) row
            (scCol sc) rows.length (tCols t.b)
        else s)

/-- Group g of an `mxreq` (R335). -/
def State.mxreqPass (s : State) (src dst : TRec) (fmt : Word) (g : Nat) : PassOut :=
  let cols := tCols src.b
  let cells := (groupRows (tRows src.b) g).flatMap (fun r => (List.range cols).map (fun c => (r, c)))
  match runEach (fun s rc => s.tLoad src rc) cells s with
  | (.error e, s) => (.error e, s)
  | (.ok vs, s) =>
    let val (r c : Nat) : FV := ((vs[(r - 32 * g) * cols + c]?).getD (.fin false 0 0, false)).1
    match s.tStore dst fmt g val (fun _ _ => 0) with
    | (.error e, s) => (.error e, s)
    | (.ok _, s) => (.ok (if vs.any (·.2) then msNanScale else 0), s)

end Sys2Proof.Machine
end

