-- ==== Sys2Proof/Machine/Matrix.lean ====
section
/-!
DEFINITION. The matrix engine's commands and jobs (12/R312, R318 to R336): `mcrew`, `bput`, `mma`, `accld`,
`accst`, `mxreq`, `mstat`, the granting of the engine state, the release of jobs (10/R277), their passes and
their end.
-/

namespace Sys2Proof.Machine

/-! ### The record path (R318, 10/R279) -/

/-- Filling an entry of the record cache, which holds 64 (01/R14): the oldest makes room. -/
def Cluster.fillRec (c : Cluster) (e : RecEnt) : Cluster := { c with recs := e :: c.recs.take 63 }

/-- Reading a tile record for a command of a team: an entry of the record cache filled since a mark, that of the last
`rfence` of the command's teams, when the schedule's choice is even and there is one, or a new fill. -/
def State.readTile (s : State) (t mark : Nat) (va : DWord) : UOut (List Byte) × State :=
  let T := s.team t
  let p := s.partOf t
  let c := clusterOfCore T.core
  match s.translate p none (dieOfCluster c) none va { r := true } (some t) with
  | (.fail cause res, _, s) => (.fail cause res va, s)
  | (.ok tl, _, s) =>
    let pl := (s.part p).at tl va 64
    let hit := (s.cluster c).recs.find? (fun e => e.part == p && e.pa == tl.pa va && mark ≤ e.fill)
    match (if s.choice % 2 = 0 then hit else none) with
    | some e =>
      if s.isBad 7 c e.pa 64 then
        (.fail .deviceError false va, s.metBad p 7 (dieOfCluster c) 0 va.toNat (some t))
      else (.ok e.image, s)
    | none =>
      match s.badAt pl.1 pl.2 64 with
      | some u => (.fail .deviceError false va, s.metBad p u (homeOf pl.2) pl.2 va.toNat (some t))
      | none =>
        let img := s.readAt p pl.1 pl.2 64
        let e : RecEnt := { part := p, pa := tl.pa va, image := img, fill := s.nextId }
        (.ok img,
          (({ s with nextId := s.nextId + 1 }.modCluster c (fun k => k.fillRec e)).pcie p pl.1 64).healed
            7 c e.pa 64)

/-! ### Acceptance (R320 to R322) -/

/-- Whether a job counts as one of a gang other than the holder (R321). -/
def Cluster.foreign (c : Cluster) (g : Nat) : Bool := c.holder != some g

/-- Whether the reservation table has an entry for a job of a gang (R321). -/
def Cluster.hasEntry (c : Cluster) (g : Nat) : Bool :=
  c.jobs.length < 16 && (!c.foreign g || (c.jobs.filter (fun j => c.foreign j.gang)).length < 8)

/-- A job fails (R323): its failure is recorded on every member's token. -/
def State.failJob (s : State) (c : Nat) (j : Job) (cause : Cause) (record : DWord) : State :=
  let s := s.modCluster c (fun k =>
    { k with jobs := k.jobs.map (fun x =>
        if x.arrived == j.arrived then { x with failed := true, hold := none, wbuf := [] } else x) })
  j.members.foldl (fun s m => s.failTok m.team m.tok.toNat cause m.spc record m.tag) s

/-- The records of a job that have not been read: member and address, or the record in pair b (`none`). -/
def Job.unread (j : Job) : List (Option Nat × DWord) :=
  (j.members.zipIdx.filter (fun m => m.1.recA.isEmpty)).map (fun m => (some m.2, m.1.pairA)) ++
    (if (j.kind == .mma || j.kind == .mxreq) && j.recB.isEmpty then [(none, j.pairB)] else [])

def Job.putRec (j : Job) (who : Option Nat) (img : List Byte) : Job :=
  match who with
  | some k => { j with members := modifyAt j.members k (fun m => { m with recA := img }) }
  | none => { j with recB := img }

/-- The last `rfence` of a job's teams whose command names a record: of a member's own record that member's, of the record in
pair b, which every member names, all of theirs (07/R165, 10/R279). -/
def State.jobMark (s : State) (j : Job) (who : Option Nat) : Nat :=
  match who with
  | some k => ((j.members[k]?).map (fun m => (s.team m.team).recMark)).getD 0
  | none => (j.members.map (fun m => (s.team m.team).recMark)).foldl max 0

/-- Reading the records that a job names, in order; a failure fails or holds the job (R323). -/
def State.readJobRecs (s : State) (c a : Nat) (l : List (Option Nat × DWord)) : State :=
  match l with
  | [] => s
  | (who, va) :: r =>
    match (s.cluster c).jobs.find? (·.arrived == a) with
    | none => s
    | some j =>
      let t := (j.members.headD { team := 0, tok := 0, tag := 0, spc := 0, pairA := 0, recA := [], sc := 0 }).team
      let t := match who with | some k => ((j.members[k]?).map (·.team)).getD t | none => t
      match s.readTile t (s.jobMark j who) va with
      | (.ok img, s) => State.readJobRecs (s.modJob c a (fun j => j.putRec who img)) c a r
      | (.fail cause res x, s) =>
        if res && s.canHold t then
          s.modJob c a (fun j => { j with hold := some (.on cause x false), heldRec := va })
        else s.failJob c j cause va

/-- A job takes an entry; each member's token gains 1 and each takes its own tag (R320, R330). The answer is the job as it
stands in the table. -/
def State.enterJob (s : State) (c : Nat) (j : Job) : Job × State :=
  let ms := j.members.map (fun (m : JMember) => { m with tag := (s.team m.team).cmdCtr })
  let j := { j with arrived := s.nextId, members := ms }
  let s := { s with nextId := s.nextId + 1 }
  let s := j.members.foldl (fun (s : State) (m : JMember) => s.modTeam m.team (fun T => T.accepted m.tok)) s
  (j, s.modCluster c (fun k => { k with jobs := k.jobs ++ [j] }))

/-- Accepting a job: its records are read (R318). -/
def State.acceptJob (s : State) (c : Nat) (j : Job) : State :=
  let r := s.enterJob c j
  r.2.readJobRecs c r.1.arrived r.1.unread

/-- The word of an S instruction. -/
def wordOf (i : Instr) : Word := (encode i).headD 0

/-- A job of one team, not yet accepted. -/
def State.newJob (s : State) (t : Nat) (i : Instr) (kind : JKind) (tok : BitVec 3) (pairA pairB : DWord)
    (sc : Word) (sparse wide : Bool) : Job :=
  let T := s.team t
  { kind := kind, gang := T.gang, arrived := 0, prio := (s.descOf t).prio, word := wordOf i,
    members := [{ team := t, tok := tok, tag := 0, spc := T.spc, pairA := pairA, recA := [], sc := sc }],
    pairB := pairB, recB := [], fmt := T.fmtNow, sparse := sparse, wide := wide, released := false,
    begun := false, done := 0, flags := 0, failed := false, hold := none, heldRec := 0, rbuf := [], wbuf := [] }

/-- The checks of R320 on record addresses, the control operand and the tables, and the release at die scope. A
crew `mma` has its own check between them. -/
def State.jobChecks (s : State) (t : Nat) (pairA : DWord) (pairB : Option DWord) (operand : Option Cause)
    (crewOk : Bool) (tok : BitVec 3) (f : Eff) : Eff :=
  let T := s.team t
  if pairA.toNat % 64 != 0 then .trap s .align pairA
  else if (match pairB with | some b => b.toNat % 64 != 0 | none => false) then .trap s .align (pairB.getD 0)
  else
    match operand with
    | some c => .trap s c pairA
    | none =>
      if !crewOk then .trap s .crew 0
      else if 255 ≤ (vget T.tok tok.toNat).out then .trap s .queue pairA
      else if !(s.cluster (clusterOfCore T.core)).hasEntry T.gang then .trap s .queue pairA
      else if !s.sMay t true true || !s.sReleased t 2 then .stall s
      else if s.heldTo (s.partOf t) f.state then .stall s
      else f

/-- Reserved bits of the job control operand (R324). -/
def scCheck (sc : Word) (rsv : Nat) : Option Cause := if sc.toNat &&& rsv != 0 then some .reservedField else none

/-! ### The commands -/

/-- `mcrew` (R329). -/
def execMcrew (a : BitVec 6) (s : State) : Host.Outcome State Fault Refusal :=
  s.runS [a] (fun t T =>
    let x := T.rd a
    if !mcrOk x then .trap s .reservedField T.spc else .done (s.setTeam t { T with mcr := x }))

/-- `bput` (R331): its offset is checked as R320 says. -/
def execBput (a b : BitVec 6) (tok : BitVec 3) (s : State) : Host.Outcome State Fault Refusal :=
  s.runS (both a ++ [b]) (fun t T =>
    let o := (T.rd b).toNat
    let op := if 0x7FFFC0 < o then some Cause.reservedField else if o % 64 != 0 then some .align else none
    s.jobChecks t (T.rdp a) none op true tok
      (.done (s.acceptJob (clusterOfCore T.core)
        (s.newJob t (.bput a b tok) .bput tok (T.rdp a) 0 (T.rd b) false false))))

def execAccld (a c : BitVec 6) (tok : BitVec 3) (s : State) : Host.Outcome State Fault Refusal :=
  s.runS (both a ++ [c]) (fun t T =>
    s.jobChecks t (T.rdp a) none (scCheck (T.rd c) 0xFFF80000) true tok
      (.done (s.acceptJob (clusterOfCore T.core)
        (s.newJob t (.accld a c tok) .accld tok (T.rdp a) 0 (T.rd c) false false))))

def execAccst (a c : BitVec 6) (tok : BitVec 3) (s : State) : Host.Outcome State Fault Refusal :=
  s.runS (both a ++ [c]) (fun t T =>
    s.jobChecks t (T.rdp a) none (scCheck (T.rd c) 0xFFF00000) true tok
      (.done (s.acceptJob (clusterOfCore T.core)
        (s.newJob t (.accst a c tok) .accst tok (T.rdp a) 0 (T.rd c) false false))))

def execMxreq (a b : BitVec 6) (tok : BitVec 3) (s : State) : Host.Outcome State Fault Refusal :=
  s.runS (both a ++ both b) (fun t T =>
    s.jobChecks t (T.rdp a) (some (T.rdp b)) none true tok
      (.done (s.acceptJob (clusterOfCore T.core)
        (s.newJob t (.mxreq a b tok) .mxreq tok (T.rdp a) (T.rdp b) 0 false false))))

/-- `mstat` (R336). -/
def execMstat (d : BitVec 6) (s : State) : Host.Outcome State Fault Refusal :=
  s.runS [d] (fun t T => .done (s.setTeam t { T.wr d (T.mstat.setWidth 32) with mstat := 0 }))

/-! ### Crews (R329, R330) -/

/-- The ranks that MCR lists. -/
def mcrRanks (mcr : Word) : List Nat :=
  (List.range (bitsOf mcr.toNat 26 24)).map (fun k => bitsOf mcr.toNat (4 * k + 3) (4 * k))

def distinct (l : List Nat) : Bool := match l with | [] => true | x :: r => !r.contains x && distinct r

/-- The checks of a crew `mma` at issue. -/
def crewOk (mcr : Word) (g rank : Nat) : Bool :=
  let l := mcrRanks mcr
  2 ≤ l.length && l.length ≤ 6 && l.all (· < g) && distinct l && l.contains rank

/-- Whether held commands agree (R330). -/
def Held.agree (x y : Held) : Bool :=
  x.mcr == y.mcr && x.wide == y.wide && x.sparse == y.sparse && x.pairB == y.pairB &&
    (x.mem.sc &&& 0xFF0F00FF) == (y.mem.sc &&& 0xFF0F00FF)

/-- Whether the row ranges of held commands overlap; M comes from the A record of each. -/
def rowsClash (l : List (Nat × Nat)) : Bool :=
  match l with
  | [] => false
  | x :: r => r.any (fun y => overlaps x.1 x.2 y.1 y.2) || rowsClash r

/-- What the A records of held commands come to (R330): all read, or failed with the first that cannot be, or one that a
resolvable fault holds. -/
inductive LatchRead where
  | done (recs : List (List Byte)) (broken : Option (Cause × DWord)) (s : State)
  | held (s : State)

/-- The latch reads the A record of each held command. -/
def State.readLatch (s : State) (c : Nat) (hs : List Held) : LatchRead :=
  match hs with
  | [] => .done [] none s
  | h :: r =>
    let rest (img : List Byte) (broken : Option (Cause × DWord)) (s : State) : LatchRead :=
      match State.readLatch s c r with
      | .done l b s => .done (img :: l) (broken.or b) s
      | .held s => .held s
    let fails (h : Held) : Bool := match h.hold with | some x => x.res == some Resol.fail | none => false
    match h.hold, fails h with
    | some x, true => rest [] (some (x.cause, h.mem.pairA)) s
    | _, _ =>
      match s.readTile h.mem.team (s.team h.mem.team).recMark h.mem.pairA with
      | (.ok img, s) => rest img none s
      | (.fail cause res a, s) =>
        if res && s.canHold h.mem.team then
          .held (s.modCluster c (fun k => { k with latches := k.latches.map (fun x =>
            if x.mem.team == h.mem.team then { x with hold := some (.on cause a false) } else x) }))
        else rest [] (some (cause, h.mem.pairA)) s

/-- Whether the rendezvous of some held commands waits for a resolution. -/
def Held.waits (hs : List Held) : Bool :=
  hs.any (fun h => match h.hold with | some x => x.res.isNone | none => false)

/-- The commands of a complete crew meet: their records are read, and they are accepted as one job, or each faults CREW. -/
def State.meetCrew (s : State) (t c latch : Nat) (h : Held) (hs : List Held) : State :=
  match s.readLatch c hs with
  | .held s => s
  | .done recs broken s =>
    let rows := (hs.zip recs).filterMap (fun x => if x.2.isEmpty then none else some (scRow x.1.mem.sc, tRows x.2))
    let ok := hs.all h.agree && !rowsClash rows
    let s := s.modCluster c (fun k => { k with latches := k.latches.filter (·.latch != latch) })
    let s := hs.foldl (fun s x => s.modTeam x.mem.team (fun T => { T with wait := .crewDone ok })) s
    if !ok then s
    else
      let j : Job :=
        { kind := .mma, gang := h.gang, arrived := 0, prio := (s.descOf t).prio, word := h.word,
          members := (hs.zip recs).map (fun x => { x.1.mem with recA := x.2 }), pairB := h.pairB, recB := [],
          fmt := (s.team t).fmtNow, sparse := h.sparse, wide := h.wide, released := false, begun := false,
          done := 0, flags := 0, failed := false, hold := none, heldRec := 0, rbuf := [], wbuf := [] }
      match broken with
      | none => s.acceptJob c j
      | some (cause, va) => let r := s.enterJob c j; r.2.failJob c r.1 cause va

/-- The rendezvous of held commands whose crew is complete: one job, or CREW for each. It waits for a table entry (log
entry 108), for the PCIe budget, and for a record that a resolvable fault holds. -/
def State.rendezvous (s : State) (t latch : Nat) : State :=
  let c := clusterOfCore (s.team t).core
  let hs := (s.cluster c).latches.filter (·.latch == latch)
  match hs with
  | [] => s
  | h :: _ =>
    let ranks := hs.map (fun x => (s.team x.mem.team).rank)
    if !hs.any (fun x => (mcrRanks x.mcr).all ranks.contains) || Held.waits hs || !(s.cluster c).hasEntry h.gang ||
        s.crossHeld (s.partOf t) (fun s => s.meetCrew t c latch h hs) then s
    else s.meetCrew t c latch h hs

/-- The latch of a team's held command tries its rendezvous again. -/
def State.rejoin (s : State) (t : Nat) : State :=
  match (s.cluster (clusterOfCore (s.team t).core)).latches.find? (·.mem.team == t) with
  | some h => s.rendezvous t h.latch
  | none => s

/-- The latch that a crew command joins: one that holds a command of its crew, or a free one of the four. -/
def State.latchFor (s : State) (t : Nat) (mcr : Word) : Option Nat :=
  let T := s.team t
  let ls := (s.cluster (clusterOfCore T.core)).latches
  match ls.find? (fun h => h.gang == T.gang &&
      ((mcrRanks h.mcr).contains T.rank || (mcrRanks mcr).contains (s.team h.mem.team).rank)) with
  | some h => some h.latch
  | none => if (ls.map (·.latch)).eraseDups.length < 4 then some s.nextId else none

/-- `mma` (R326, R329, R330). A crew command is checked once it has a latch. -/
def execMma (a b c : BitVec 6) (tok : BitVec 3) (crew sparse orient : BitVec 1) (s : State) :
    Host.Outcome State Fault Refusal :=
  s.runS (both a ++ both b ++ [c]) (fun t T =>
    let sc := T.rd c
    let i : Instr := .mma a b c tok crew sparse orient
    let job := s.newJob t i .mma tok (T.rdp a) (T.rdp b) sc (sparse == 1) (orient == 1)
    let isCrew := crew == 1
    let check (f : Eff) : Eff :=
      s.jobChecks t (T.rdp a) (some (T.rdp b)) (scCheck sc 0x00F00000)
        (!isCrew || crewOk T.mcr (s.descOf t).gsize T.rank) tok f
    match T.wait with
    | .crew => .wait (s.rejoin t)
    | .crewDone true => .done s
    | .crewDone false => .trap s .crew 0
    | _ =>
      if !isCrew then check (.done (s.acceptJob (clusterOfCore T.core) job))
      else
        match s.latchFor t T.mcr with
        | none => .wait s
        | some l =>
          let h : Held :=
            { latch := l, gang := T.gang, mcr := T.mcr, word := wordOf i, wide := orient == 1,
              sparse := sparse == 1, mem := job.members.headD ⟨t, tok, 0, T.spc, T.rdp a, [], sc⟩,
              pairB := T.rdp b, hold := none }
          let s := { s with nextId := s.nextId + 1 }.modCluster (clusterOfCore T.core) (fun k =>
            { k with latches := k.latches ++ [h] })
          check (.wait ((s.modTeam t (fun T => { T with wait := .crew })).rendezvous t l)))

/-! ### Footprints of jobs (R322) -/

/-- The accumulator region that a member's command names, for a count of rows and columns. -/
def Job.region (sc : Word) (rows cols : Nat) (write : Bool) : Extent :=
  .acc (scAcc sc) (scRow sc) rows (scCol sc) cols write

def Job.footprint (j : Job) : List Extent :=
  j.members.flatMap (fun m =>
    let a := m.recA
    match j.kind with
    | .mma =>
      tExtents a false ++ tExtents j.recB false ++
        [Job.region m.sc (tRows a) (if j.wide then tCols j.recB else tRows j.recB) true]
    | .bput => tExtents a false ++ [.range 2 (m.sc.setWidth 64) (tImage a) true]
    | .accld => tExtents a false ++ [Job.region m.sc (tRows a) (tCols a) true]
    | .accst => tExtents a true ++ [Job.region m.sc (tRows a) (tCols a) (scBit m.sc)]
    | .mxreq => tExtents a false ++ tExtents j.recB true)

/-- The footprints of a gang's jobs that arrived before a number and have not ended; `none` when one is not known
(10/R277). -/
def State.footprintsBefore (s : State) (c g a : Nat) : List (Option (List Extent)) :=
  ((s.cluster c).jobs.filter (fun j => j.gang == g && j.arrived < a)).map (fun j =>
      if j.unread.isEmpty then some j.footprint else if j.failed then some [] else none) ++
    ((s.cluster c).channels.toList.flatMap (fun l => l.filter (fun k => k.gang == g && k.arrived < a))).map (fun k =>
      if k.whole then some k.footprint else none)

/-- Whether the dependency unit releases something of a gang that arrived under a number. -/
def State.depFree (s : State) (c g a : Nat) (fp : List Extent) : Bool :=
  (s.footprintsBefore c g a).all (fun f => match f with | some l => !clashes l fp | none => false)

/-- The kettle records of a cluster that are walked, with their channel and number. -/
def State.kettleRecs (s : State) (c : Nat) : List (Nat × Chain × Nat × KRec) :=
  (List.range 8).flatMap (fun ch =>
    match s.walking c ch with
    | some k => k.recs.zipIdx.map (fun x => (ch, k, x.2, x.1))
    | none => [])

/-- Whether the dependency unit has let a record go, or would let it go now. -/
def State.recFree (s : State) (c : Nat) (k : Chain) (x : KRec) : Bool :=
  x.clear || s.depFree c k.gang k.arrived (kFootprint x.image)

/-- JOB_RELEASE: a matrix job, or, numbered after them, a kettle record (10/R277, 11/R285). A record enters its
destination range into the scoreboard as it begins (10/R278). It begins once the dependency unit holds back no earlier record
of its chain either, so that a pre-emption finds behind it none that could not end (11/R309; log entry 106). -/
def execJobRelease (cluster job : Nat) (s : State) : Host.Outcome State Fault Refusal :=
  let js := (s.cluster cluster).jobs
  match js[job]? with
  | some j =>
    if j.unread.isEmpty && s.depFree cluster j.gang j.arrived j.footprint then
      .next (s.modJob cluster j.arrived (fun j => { j with released := true }))
    else .next s
  | none =>
    match (s.kettleRecs cluster)[job - js.length]? with
    | some (ch, k, r, x) =>
      if x.live && k.mayBegin r x && (k.recs.take (r + 1)).all (fun y => !y.live || y.released || s.recFree cluster k y) then
        .next ((s.modChain cluster ch k.arrived (fun k =>
          { k with recs := (k.recs.take r).map (fun y => { y with clear := true }) ++ k.recs.drop r })).modRec cluster ch k.arrived r
            (fun x => { x with released := true, clear := true, ranged := (kRange x.image).isSome }))
      else .next s
    | none => .next s

/-! ### HOLDER_GRANT (R312, R313) -/

/-- The gang that takes the free engine state: its oldest waiting job has the highest PRIO, and among those was
accepted first. -/
def State.nextHolder (s : State) (c : Nat) : Option Nat :=
  let js := ((s.cluster c).jobs.filter (fun j => (s.gang j.gang).phase == .resident))
  let oldest := js.filter (fun j => !js.any (fun k => k.gang == j.gang && k.arrived < j.arrived))
  (oldest.foldl (fun (best : Option Job) j =>
    match best with
    | none => some j
    | some b => if b.prio < j.prio || (b.prio == j.prio && j.arrived < b.arrived) then some j else some b) none).map (·.gang)

def execHolderGrant (cluster : Nat) (s : State) : Host.Outcome State Fault Refusal :=
  match (s.cluster cluster).holder, s.nextHolder cluster with
  | none, some g =>
    let (acc, bst) := (s.gang g).engine.getD ([], [])
    .next ((s.modCluster cluster (fun c => { c with holder := some g, acc := acc, bstore := bst })).modGang g
      (fun G => { G with engine := none }))
  | _, _ => .next s

/-! ### The checks of a job (R319, R323, R326, R331 to R335) -/

/-- The first check that holds. -/
def firstCheck (l : List (Bool × Cause × DWord)) : Option (Cause × DWord) := (l.find? (·.1)).map (·.2)

/-- A record in space 2 whose ranges run beyond the B-store. -/
def tOutside (b : List Byte) : Bool :=
  tSpace b == 2 && (tRanges b).any (fun r => bstoreSize < r.1.toNat + r.2)

def mmaChecks (j : Job) (m : JMember) : List (Bool × Cause × DWord) :=
  let a := m.recA
  let b := j.recB
  let n := if j.wide then tCols b else tRows b
  let pa := m.pairA
  let pb := j.pairB
  [(tBad a false, .record, pa), (tBad b false, .record, pb),
   (tSpace b == 2 && tOutside b, .record, pb),
   (tCols a != (if j.wide then tRows b else tCols b), .shape, pa), (tCols a % 32 != 0, .shape, pa),
   (256 < tRows a, .shape, pa), (256 < n, .shape, pb), (256 < scRow m.sc + tRows a, .shape, pa),
   (256 < scCol m.sc + n, .shape, pb), (tScaled (tType a) && tAxis a != 0, .shape, pa),
   (tScaled (tType b) && tAxis b != (if j.wide then 1 else 0), .shape, pb), (tSpace b != 2, .shape, pb),
   (tSpace a == 2, .shape, pa), (tKind b == 2, .shape, pb), (!j.sparse && tKind a == 1, .shape, pa),
   (!j.sparse && tKind b == 1, .shape, pb), (tType a == 9, .shape, pa), (tType b == 9, .shape, pb),
   (tFamily (tType a) != tFamily (tType b), .shape, pa)]

def regionChecks (m : JMember) (dest : Bool) : List (Bool × Cause × DWord) :=
  let a := m.recA
  [(tBad a dest, .record, m.pairA),
   (tKind a != 0 || tSpace a == 2 || 256 < scRow m.sc + tRows a || 256 < scCol m.sc + tCols a, .shape, m.pairA)]

def mxreqOwn (b : List Byte) : Bool := tSpace b != 1 || !tScaled (tType b) || tKind b != 0

/-- The checks of a job before its first pass, in the order in which they are met: RECORD before SHAPE, A before B, in the order of
the members (DESIGN CHOICE: R323 gives the checks of a job no order; log entry 127). -/
def Job.checks (j : Job) : List (Bool × Cause × DWord) :=
  j.members.flatMap (fun m =>
    let a := m.recA
    match j.kind with
    | .mma => mmaChecks j m
    | .bput =>
      [(tBad a false, .record, m.pairA), (bstoreSize < m.sc.toNat + tImage a, .record, m.pairA),
       (tSpace a == 2 || tKind a == 2 || tType a == 9, .shape, m.pairA)]
    | .accld => regionChecks m false
    | .accst => regionChecks m true
    | .mxreq =>
      [(tBad a false, .record, m.pairA), (tBad j.recB true, .record, j.pairB), (mxreqOwn a, .shape, m.pairA),
       (mxreqOwn j.recB, .shape, j.pairB), (tRows a != tRows j.recB || tCols a != tCols j.recB, .shape, m.pairA),
       (clashes (tExtents a false) (tExtents j.recB true), .record, m.pairA)])

/-- Passes of a job: K-blocks of an `mma`, groups of 32 rows of the others (R313). -/
def Job.passes (j : Job) : Nat :=
  match j.kind, j.members with
  | .mma, m :: _ => tCols m.recA / 32
  | _, m :: _ => (tRows m.recA + 31) / 32
  | _, [] => 0

/-! ### Passes of a job -/

/-- An operand of a job for a member. The schedule's choice says whether a pass performs its writes or only forms them. -/
def Job.operand (j : Job) (part c : Nat) (m : JMember) (r : DWord × List Byte) (choice : Nat) : TRec :=
  { part := part, gang := j.gang, clu := c, addr := r.1, b := r.2, team := m.team, job := j.arrived, ahead := j.rbuf,
    defer := choice / 2 % 2 == 1 }

/-- One pass of a job for every member, up to the first that fails. -/
def State.passOf (s : State) (c : Nat) (j : Job) (ms : List JMember) (q : Nat) : PassOut :=
  match ms with
  | [] => (.ok 0, s)
  | m :: r =>
    let p := s.partOf m.team
    let a : TRec := j.operand p c m (m.pairA, m.recA) s.choice
    let b : TRec := j.operand p c m (j.pairB, j.recB) s.choice
    let out : PassOut := match j.kind with
      | .mma => s.mmaPass a b j.wide m.sc q
      | .bput => s.bputPass a m.sc.toNat q
      | .accld => s.accldPass a m.sc q
      | .accst => s.accstPass a m.sc j.fmt q
      | .mxreq => s.mxreqPass a b j.fmt q
    match out with
    | (.error e, s) => (.error e, s)
    | (.ok f, s) =>
      match State.passOf s c j r q with
      | (.error e, s) => (.error e, s)
      | (.ok g, s) => (.ok (f ||| g), s)

/-- Running up to `n` passes of a job: each counts its cycles against the matrix budget (17/R445), whose number
the spec leaves to the engine. -/
def State.runPasses (s : State) (c : Nat) (j : Job) (n : Nat) : State :=
  match n with
  | 0 => s
  | n + 1 =>
    match j.members with
    | [] => s
    | m :: _ =>
      let p := s.partOf m.team
      if s.spent p 1 || j.passes ≤ j.done || s.crossHeld p (fun s => (s.passOf c j j.members j.done).2) then s
      else
        match s.passOf c j j.members j.done with
        | (.ok f, s) =>
          let step (j : Job) : Job := { j with done := j.done + 1, flags := j.flags ||| f }
          let s := (s.charge p 1 (Config.passCycles s.freeCtr).toNat).modJob c j.arrived step
          State.runPasses { s with freeCtr := s.freeCtr + 1 } c (step j) n
        | (.error e, s') =>
          -- a pass that is held has left nothing behind: it runs again as a whole
          if e.res && s.canHold m.team then
            s.modJob c j.arrived (fun j => { j with hold := some (.on e.cause e.va e.write), heldRec := e.record })
          else s'.failJob c j e.cause e.record

/-- Whether a released job may begin: none goes before it in order of PRIO and then of acceptance (R322). -/
def Cluster.turn (c : Cluster) (j : Job) : Bool :=
  j.begun || c.jobs.all (fun k => k.arrived == j.arrived || !k.released || k.begun || k.failed || c.foreign k.gang ||
    k.prio < j.prio || (k.prio == j.prio && j.arrived < k.arrived))

/-- Whether a job goes on: one of a halting gang stops at its pass boundary (R313). -/
def State.jobRuns (s : State) (j : Job) : Bool := (s.gang j.gang).phase == .resident

/-- A step of a job: a resolved hold takes effect, records that are still to be read are read, the checks come
before the first pass, then passes. -/
def State.jobStep (s : State) (kind : JKind) (c job n : Nat) : State :=
  let C := s.cluster c
  match C.jobs[job]? with
  | none => s
  | some j =>
    if j.kind != kind || j.failed || !s.jobRuns j then s
    else
      match j.hold with
      | some h =>
        match h.res with
        | none => s
        | some .retry =>
          let again (s : State) : State :=
            (s.modJob c j.arrived (fun j => { j with hold := none })).readJobRecs c j.arrived j.unread
          if s.crossHeld (s.partOf ((j.members.map (·.team)).headD 0)) again then s else again s
        | some _ => s.failJob c j h.cause j.heldRec
      | none =>
        if !j.released || C.foreign j.gang || !C.turn j then s
        else
          match (if j.begun then none else firstCheck j.checks) with
          | some (cause, r) => s.failJob c j cause r
          | none =>
            (s.modJob c j.arrived (fun j => { j with begun := true })).runPasses c { j with begun := true } n

/-- Reading bytes of an operand ahead of a pass, within a line of its ranges (10/R263, R276). What cannot be read now is met
when it is needed. -/
def State.jobAhead (s : State) (c job space : Nat) (va : DWord) (n : Nat) : State :=
  match (s.cluster c).jobs[job]? with
  | none => s
  | some j =>
    let inside (x : Extent) : Bool :=
      match x with
      | .range sp lo len w => sp == space && !w && (va - lo).toNat + n ≤ len
      | _ => false
    match j.members with
    | [] => s
    | m :: _ =>
      let t := j.operand (s.partOf m.team) c m (m.pairA, m.recA) 0
      if !j.begun || j.failed || j.hold.isSome || !s.jobRuns j || n = 0 || 64 < va.toNat % 64 + n ||
          !j.footprint.any inside || s.crossHeld t.part (fun s => (s.tFetch t space va n).2) then s
      else
        match s.tFetch t space va n with
        | (.ok bs, s) => s.modJob c j.arrived (fun j => { j with rbuf := (space, va, bs) :: j.rbuf })
        | (.fail .., _) => s

/-- A job of a gang that has been removed goes once the pass that it stopped in has performed its writes (15/R398). -/
def State.dropDone (s : State) (c a : Nat) : State :=
  s.modCluster c (fun k => { k with jobs := k.jobs.filter (fun j =>
    !(j.arrived == a && (s.gang j.gang).phase == .removed && (j.failed || j.hold.isSome || j.wbuf.isEmpty))) })

/-- Performing a write that a pass has formed (10/R263, R276). -/
def State.jobWriteOut (s : State) (c job n : Nat) : State :=
  match (s.cluster c).jobs[job]? with
  | none => s
  | some j =>
    match j.members, j.wbuf[n]? with
    | m :: _, some (addr, space, va, bs) =>
      let p := s.partOf m.team
      let put (s : State) : UOut Unit × State :=
        s.jobWrite p j.gang (dieOfCluster c) (2 * j.arrived) space va bs (some m.team)
      if j.failed || j.hold.isSome || s.crossHeld p (fun s => (put s).2) then s
      else
        match put s with
        | (.ok _, s) => (s.modJob c j.arrived (fun j => { j with wbuf := removeAt j.wbuf n })).dropDone c j.arrived
        | (.fail cause res a, s) =>
          if res && s.canHold m.team then
            (s.modJob c j.arrived (fun j => { j with hold := some (.on cause a true), heldRec := addr })).dropDone c j.arrived
          else (s.failJob c j cause addr).dropDone c j.arrived
    | _, _ => s

def execMmaJob (cluster job n : Nat) (s : State) : Host.Outcome State Fault Refusal :=
  .next (s.jobStep .mma cluster job n)

def execBputJob (cluster job n : Nat) (s : State) : Host.Outcome State Fault Refusal :=
  .next (s.jobStep .bput cluster job n)

def execAccldJob (cluster job n : Nat) (s : State) : Host.Outcome State Fault Refusal :=
  .next (s.jobStep .accld cluster job n)

def execAccstJob (cluster job n : Nat) (s : State) : Host.Outcome State Fault Refusal :=
  .next (s.jobStep .accst cluster job n)

def execMxreqJob (cluster job n : Nat) (s : State) : Host.Outcome State Fault Refusal :=
  .next (s.jobStep .mxreq cluster job n)

/-- JOB_END: the flags go to MSTAT of every team that issued the job, then OUT falls (R325). -/
def execJobEnd (cluster job : Nat) (s : State) : Host.Outcome State Fault Refusal :=
  let C := s.cluster cluster
  match C.jobs[job]? with
  | none => .next s
  | some j =>
    if !C.foreign j.gang && (j.failed || (j.begun && j.passes ≤ j.done && j.wbuf.isEmpty)) then
      let s := s.modCluster cluster (fun c => { c with jobs := c.jobs.filter (·.arrived != j.arrived) })
      .next (j.members.foldl (fun s m =>
        (s.modTeam m.team (fun T => { T with mstat := T.mstat ||| j.flags })).lowerTok m.team m.tok.toNat) s)
    else .next s

end Sys2Proof.Machine
end

