-- ==== Sys2Proof/Machine/Fetch.lean ====
section
/-!
DEFINITION. Fetching an instruction (05/R113 to R115): the S word at S-PC and the three words of an L
instruction, through translation with execute permission, and the faults of a fetch and of the decoder.
-/

namespace Sys2Proof.Machine

/-- The bytes at a virtual address that a fetch of a team reads, or how it fails. -/
def State.fetchBytes (s : State) (part core die t : Nat) (va : DWord) (n : Nat) : UOut (List Byte) × State :=
  match s.unitSplit part (some core) die va n { x := true } (some t) with
  | (.fail c res a, s) => (.fail c res a, s)
  | (.ok l, s) => s.readParts part va (some t) l

/-- Whether a fetch waits: its walk would overtake an earlier store of the team (16/R420), or its bytes are held at PCIe
(17/R445). -/
def State.fetchBlocked (s : State) (part core die t : Nat) (va : DWord) (n : Nat) : Bool :=
  s.walkStalls part (some core) die t die va n { x := true } || s.unitHeld part (some core) die va n { x := true }

/-- The cause of a decode fault (05/R115). -/
def decodeCause (e : DecodeFault) : Cause :=
  match e with
  | .illegal => .illegal
  | .reservedField => .reservedField

/-- The state in which a fetched instruction issues: for a release nothing has been walked ahead. -/
def State.issuing (s : State) (i : Instr) : State := if releases i then s.endWalks s.cur else s

/-- What a fetch comes to: an instruction, or the end of the step. -/
inductive Fetched where
  | instr (i : Instr) (s : State)
  | stop (s : State)

/-- The privileged instructions (05/R115): a user team's faults before it reads a register. -/
def isPriv (i : Instr) : Bool :=
  match i with
  | .sysr _ _ | .sysw _ _ | .eret | .tinval _ | .tsync | .ctxsave _ | .ctxload _ | .fqpop _ => true
  | _ => false

/-- The S fetch of a team (05/R113): a failure is a precise trap, or holds the S-stream (15/R395). A read of a
register with an uncorrectable error is a precise trap too (15/R399). -/
def State.fetchS (s : State) (t : Nat) : Fetched :=
  let T := s.team t
  if s.fetchBlocked (s.partOf t) T.core (dieOfCore T.core) t T.spc 4 then .stop s
  else
  match s.fetchBytes (s.partOf t) T.core (dieOfCore T.core) t T.spc 4 with
  | (.fail c res a, s') => .stop (s'.finishS t (s'.sFail t c res a false true))
  | (.ok bs, s') =>
    match decodeSBytes bs with
    | .ok (i, _) =>
      if s'.sBroken t i && !T.busy (sReads i) && ((s'.descOf t).sup || !isPriv i) then .stop (s'.finishS t (s'.sBreaks t))
      else .instr i (s'.issuing i)
    | .error e => .stop (s'.finishS t (.trap s' (decodeCause e) T.spc))

/-- Where a lane fetch that fails restarts: its instruction is not known, unless a visitor was continuing it. -/
def Blk.fetchRestart (b : Blk) : BitVec 26 := if b.part = 0 then b.lpc else b.restartAt

/-- Whether accesses of a visitor's instruction have not returned. -/
def Visitor.inFlight (V : Visitor) : Bool := match V.fly with | some k => k.flying != 0 | none => false

/-- The L fetch of a block or a visitor (05/R113): a failure is an L trap of the active mask, or holds the
L-stream; a word that fails decode traps for the lanes that its mask select leaves (02/R54). -/
def State.fetchL (s : State) (C : LCtx) : Fetched :=
  let a := s.lAddr C
  let trap (s : State) (c : Cause) (x : DWord) (lanes : Mask) : State :=
    match C.who with
    | .l t =>
      s.raiseL t { cause := c, taddr := x, tlpc := C.blk.lpc, lanes := lanes, slot := none,
                   redoFrom := some C.blk.lpc, sseq := none, visitor := none }
    | .v v => s.returnHome v 4 C.blk.fetchRestart C.blk.lpc (C.blk.restOf lanes) (some c) x
    | _ => s
  if s.fetchBlocked C.part C.core C.die C.t a 12 then .stop s
  else
  match s.fetchBytes C.part C.core C.die C.t a 12 with
  | (.fail c res x, s') =>
    if res && s'.canHold C.t then
      let h : Hold := { cause := c, addr := x, write := false, exec := true, seq := none, res := none }
      match C.who with
      | .l _ => .stop (s'.putL { C with blk := { C.blk with fetchHold := some h } })
      | .v v => .stop (s'.modVisitor v (fun V => { V with hold := some h }))
      | _ => .stop s'
    else .stop (trap s' c x C.eff)
  | (.ok bs, s') =>
    match decodeLBytes bs with
    | .ok (i, _) => .instr i (s'.issuing i)
    | .error e =>
      let lanes := C.effOf (BitVec.ofNat 3 (bitsOf (natAt bs 0 4) 15 13))
      .stop ((trap s' (decodeCause e) a lanes).charge C.part 0 (Mask.passes lanes))

/-! ### When a stream may issue -/

/-- Whether a team's streams stand on a core and are not halted (02/R53, 15/R403). -/
def State.onCore (s : State) (t : Nat) : Bool :=
  let T := s.team t
  t < s.teams.length && T.resident && T.phase != .ended && (s.gangOf t).phase == .resident

/-- The S-stream before it issues: a resolved hold takes effect, an L trap that waits is delivered when the
schedule takes this boundary (`choice` 0). `none` when it may issue. -/
def State.beforeS (s : State) (t choice : Nat) : Option State :=
  let T := s.team t
  if !s.onCore t || s.spent (s.partOf t) 0 then some s
  else if T.pendL.isSome && T.phase == .running && choice = 0 then some (s.deliverL t)
  else
    match T.shold with
    | none => none
    | some h =>
      match h.res with
      | none => some s
      | some .retry => none
      | some _ => some (s.finishS t (.trap s h.cause h.addr))

/-- After the S instruction that the S-stream finishes, an L trap detected before it is delivered (03/R54),
unless an S trap went first (R57). -/
def State.afterS (s : State) (t : Nat) : State :=
  let T := s.team t
  if T.pendL.isSome && T.phase == .running && s.onCore t then s.deliverL t else s

/-- An L trap waits to be delivered before anything of the team issues: one that is kept behind an S trap waits for the
handler to resume (03/R57). -/
def Team.trapDue (T : Team) : Bool := T.pendL.isSome && T.phase == .running

/-- The L-stream before it issues: `none` when it may issue. -/
def State.beforeL (s : State) (t : Nat) : Option State :=
  let T := s.team t
  if !s.onCore t || s.spent (s.partOf t) 0 || T.trapDue then some s
  else
    match T.blk with
    | none => some s
    | some b =>
      match b.fetchHold with
      | none => none
      | some h =>
        match h.res with
        | none => some s
        | some .retry => none
        | some _ =>
          some ((s.modTeam t (fun T => { T with blk := some { b with fetchHold := none } })).raiseL t
            { cause := h.cause, taddr := h.addr, tlpc := b.lpc, lanes := Mask.minus b.path T.away,
              slot := none, redoFrom := some b.lpc, sseq := none, visitor := none })

/-- A visitor before it issues: `none` when it may issue. It issues nothing while an instruction of it is
in flight. A held one whose resolution failed traps: for the lanes that its instruction has not completed
(14/R370, R377). -/
def State.beforeV (s : State) (v : Nat) : Option State :=
  match s.visitors[v]? with
  | none => some s
  | some V =>
    if !V.alive || V.halted || V.inFlight || s.spent V.cont.part 0 then some s
    else
      match V.hold with
      | none => none
      | some h =>
        match h.res with
        | none => some s
        | some .retry => none
        | some _ =>
          match V.fly with
          | some k => some (s.returnHome v 4 k.chainHead k.lpc (Mask.minus k.eff k.done) (some h.cause) h.addr)
          | none =>
            let b := V.cont.blk
            let lanes := b.path &&& V.cont.lanes
            -- a visitor that was pre-empted at an access stands before its restart again (14/R380, 15/R396)
            match h.exec, b.rest with
            | false, some r => some (s.returnHome v 4 b.lpc r.2 r.1 (some h.cause) h.addr)
            | _, _ => some (s.returnHome v 4 b.fetchRestart b.lpc (b.restOf lanes) (some h.cause) h.addr)

/-- A block whose next instruction no lane has completed has none that is left. -/
def Blk.goOn (b : Blk) : Blk := if b.part = 0 then { b with rest := none } else b

/-- A hold whose fault is to be tried again is over. -/
def State.clearHolds (s : State) : State :=
  match s.cur with
  | .s t => s.modTeam t (fun T => { T with shold := none })
  | .l t => s.modTeam t (fun T => { T with blk := T.blk.map (fun b => { b with fetchHold := none }) })
  | .v v => s.modVisitor v (fun V => { V with hold := none, fly := none, cont := { V.cont with blk := V.cont.blk.goOn } })
  | .none => s

end Sys2Proof.Machine
end

