-- ==== Sys2Proof/Machine/Gfl.lean ====
section
/-!
DEFINITION. The Glosia Fabric Link (16/R427 to R432): messages and flits, the sender and the receiver of a
port, requests and the responses to them, and training.
-/

namespace Sys2Proof.Machine

/-! ### CRC-64 of ECMA-182 (R427) -/

def crcStep (c : BitVec 64) : BitVec 64 :=
  if c.getLsbD 63 then (c <<< 1) ^^^ 0x42F0E1EBA9EA3693 else c <<< 1

def crcByte (c : BitVec 64) (b : Byte) : BitVec 64 :=
  (List.range 8).foldl (fun c _ => crcStep c) (c ^^^ (b.setWidth 64 <<< 56))

/-- Initial value all ones, result complemented. -/
def crc64 (bs : List Byte) : BitVec 64 := ~~~(bs.foldl crcByte (~~~(0 : BitVec 64)))

/-! ### Messages (R429) -/

/-- A slot from bytes: unused bytes are zero. -/
def slot16 (bs : List Byte) : List Byte := (bs ++ zeros 16).take 16

/-- Bytes cut into slots. -/
def slotsOf (n : Nat) (bs : List Byte) : List (List Byte) :=
  match n with
  | 0 => []
  | k + 1 => if bs.isEmpty then [] else slot16 bs :: slotsOf k (bs.drop 16)

def msgHeader (type nt arg snode dnode tag : Nat) : List Byte :=
  leBytes 16 (type + nt * 2 ^ 4 + arg * 2 ^ 8 + snode * 2 ^ 16 + dnode * 2 ^ 22 + tag * 2 ^ 32)

/-- The `atom` op code of a reduction (05/R122). -/
def reduceCode (op : AOp) (n : Nat) : Nat :=
  match op with
  | .add => if n = 8 then 12 else 0
  | .min => 1 | .minu => 2 | .max => 3 | .maxu => 4 | .and => 5 | .or => 6 | .xor => 7
  | .fadd => 10 | .bfadd => 11 | .xchg => 8 | .cas => 9

/-- Whether a message carries an access: of the reductions of 8 bytes, R429 has a code and room for add64 alone (log entry
37). -/
def Acc.carried (op : Acc) : Bool :=
  match op with
  | .atom o n _ _ => n != 8 || o == .add
  | _ => true

/-- The reduction that a received code names, with its bytes. -/
def reduceOf (code : Nat) : Option (AOp × Nat) :=
  match code with
  | 0 => some (.add, 4) | 1 => some (.min, 4) | 2 => some (.minu, 4) | 3 => some (.max, 4)
  | 4 => some (.maxu, 4) | 5 => some (.and, 4) | 6 => some (.or, 4) | 7 => some (.xor, 4)
  | 10 => some (.fadd, 4) | 11 => some (.bfadd, 4) | 12 => some (.add, 8) | _ => none

/-- The request that an access becomes, for some of its nodes (R430). -/
def requestOf (node : BitVec 6) (tag : BitVec 16) (op : Acc) (nodes : List (Nat × Nat)) : GMsg :=
  let targets := nodes.flatMap (fun n => leBytes 8 (n.1 * 2 ^ 58 + n.2 % 2 ^ 52))
  let (type, arg, data) : Nat × Nat × List Byte := match op with
    | .store bs => (1, bs.length - 1, bs)
    | .atom o n b _ => (2, reduceCode o n, leBytes n b.toNat)
    | _ => (1, 0, [])
  { slots := msgHeader type nodes.length arg node.toNat 0 tag.toNat :: (slotsOf 4 targets ++ slotsOf 4 data),
    response := false }

/-- DONE, or REFUSE with a reason. -/
def responseOf (node : BitVec 6) (dnode : Nat) (tag : BitVec 16) (reason : Option Nat) : GMsg :=
  { slots := [match reason with
      | none => msgHeader 3 0 0 node.toNat dnode tag.toNat
      | some r => msgHeader 4 0 r node.toNat dnode tag.toNat],
    response := true }

/-- An error record of KIND 4 and UNIT 8 at every partition (R428, R429, R431). -/
def State.fabricError (s : State) : State :=
  (List.range 8).foldl (fun s p =>
    if (s.part p).state == .absent then s else s.postError p 4 8 (s.part p).dieFirst 0 0 0 0xFFFFFFFF) s

/-! ### Requests of this module (R424, R430) -/

/-- A peer member drops a write: an error record names it (R424). -/
def State.peerRefused (s : State) (part : Nat) (lpa va : DWord) : State :=
  s.postError part 4 8 (s.part part).dieFirst lpa.toNat va.toNat 0 0xFFFFFFFF

/-- An entry is performed at its peers once no request of it waits. -/
def State.peerSettled (s : State) (port entry : Nat) : State :=
  if (s.port port).waiting.any (·.entry == entry) then s
  else { s with arr := s.arr.filter (·.id != entry) }

/-- Nodes of a request named at once: NT has at most 7. -/
def nodeGroups (n : Nat) (nodes : List (Nat × Nat)) : List (List (Nat × Nat)) :=
  match n with
  | 0 => []
  | k + 1 => if nodes.isEmpty then [] else nodes.take 7 :: nodeGroups k (nodes.drop 7)

/-- A tag that no waiting request of the port holds. -/
def Port.freeTag (p : Port) : Option (BitVec 16) :=
  ((List.range (p.waiting.length + 1)).find? (fun t => !p.waiting.any (fun w => w.tag.toNat == t))).bind
    (fun t => if t < 65536 then some (BitVec.ofNat 16 t) else none)

/-- Whether a port takes the requests of an access: it has tags for them, or is DOWN and refuses them. -/
def Port.takes (p : Port) (n : Nat) : Bool := !p.up || p.waiting.length + n ≤ 65536

/-- An entry reaches its port: its requests are queued, or refused at once when the port is DOWN (R428), or no message can
carry it. -/
def State.gflRequest (s : State) (e : Entry) (port : Nat) (nodes : List (Nat × Nat)) : State :=
  if (s.port port).up && e.op.carried then
    (nodeGroups 8 nodes).foldl (fun s g =>
      match (s.port port).freeTag with
      | some tag =>
        let w : GReq := { tag := tag, entry := e.id, part := e.part, va := e.va, lpa := BitVec.ofNat 64 e.addr,
                          nodes := g, sentAt := s.time }
        s.modPort port (fun P =>
          { P with outReq := P.outReq ++ [requestOf s.node tag e.op g], waiting := P.waiting ++ [w] })
      | none => s) s
  else
    (nodes.foldl (fun s _ => s.peerRefused e.part (BitVec.ofNat 64 e.addr) e.va) s).peerSettled port e.id

/-- A response for one target of a waiting request arrives: from a node, with a tag. A refusal because the target's NODE is
not the receiver's comes from none of the request's nodes: it answers the first target that is another's. -/
def State.answered (s : State) (port : Nat) (tag : BitVec 16) (node : Nat) (reason : Option Nat) : State :=
  let hit (x : Nat × Nat) : Bool := if reason == some 3 then x.1 != node else x.1 == node
  let refused := reason.isSome
  match (s.port port).waiting.find? (fun w => w.tag == tag && w.nodes.any hit) with
  | none => s
  | some w =>
    let rest := removeAt w.nodes ((w.nodes.findIdx? hit).getD 0)
    let put (x : GReq) : GReq := if x.tag == tag then { x with nodes := rest } else x
    let s := s.modPort port (fun P => { P with waiting := (P.waiting.map put).filter (fun x => !x.nodes.isEmpty) })
    let s := if refused then s.peerRefused w.part w.lpa w.va else s
    s.peerSettled port w.entry

/-- Every target of the requests that satisfy a test counts as refusing. -/
def State.refuseAll (s : State) (port : Nat) (p : GReq → Bool) : State :=
  let hit := (s.port port).waiting.filter p
  let s := s.modPort port (fun P => { P with waiting := P.waiting.filter (fun w => !p w) })
  hit.foldl (fun s w =>
    (w.nodes.foldl (fun s _ => s.peerRefused w.part w.lpa w.va) s).peerSettled port w.entry) s

/-! ### Sending (R428) -/

/-- The messages at the head of a queue that fit in some slots and credits: their slots, and what is left. -/
def takeMsgs (q : List GMsg) (room cred : Nat) : List (List Byte) × List GMsg × Nat :=
  match q with
  | [] => ([], [], 0)
  | m :: r =>
    let n := m.slots.length
    if n ≤ room && n ≤ cred then
      let t := takeMsgs r (room - n) (cred - n)
      (m.slots ++ t.1, t.2.1, n + t.2.2)
    else ([], m :: r, 0)

/-- A flit of the port as it stands now: 0 DATA with its number and slots, 1 IDLE. -/
def Port.flit (p : Port) (kind seq : Nat) (slots : List Byte) : BitVec 2048 :=
  let body := leBytes 2 (kind * 2 ^ 12 + seq) ++
    leBytes 2 ((if p.nak then 2 ^ 15 else 0) + (p.rxNext - 1).toNat) ++ leBytes 2 p.rqFreed ++
    leBytes 2 p.rsFreed ++ (slots ++ zeros 240).take 240
  BitVec.ofNat 2048 (leNat (body ++ w64le (crc64 body)))

/-- What a flit on the wire has carried: the NAK and the credits. -/
def Port.sent (p : Port) (f : BitVec 2048) : Port :=
  { p with wire := p.wire ++ [f], nak := false, rqFreed := 0, rsFreed := 0 }

/-- A port forms and sends its next flit: one to be sent again, else one with what fits of its messages, responses
first, else an IDLE flit. -/
def Port.send (p : Port) (now : DWord) : Port :=
  let idle : Port := p.sent (p.flit 1 0 [])
  if !p.up then p
  else if p.resend != 0 then
    match p.replay[p.replay.length - p.resend]? with
    | some r =>
      let k := p.replay.length - p.resend
      let p := { p with resend := p.resend - 1,
                        replay := modifyAt p.replay k (fun x => (x.1, x.2.1, x.2.2 + 1)) }
      p.sent (p.flit 0 r.1.toNat r.2.1)
    | none => { p with resend := 0 }
  else if 1024 ≤ p.replay.length then idle
  else
    let (a, rsp, n) := takeMsgs p.outRsp 15 p.rsCred
    let (b, req, k) := takeMsgs p.outReq (15 - n) p.rqCred
    if a.isEmpty && b.isEmpty then idle
    else
      let bs := ((a ++ b).flatMap id ++ zeros 240).take 240
      let p := { p with
        outRsp := rsp, outReq := req, rsCred := p.rsCred - n, rqCred := p.rqCred - k,
        lastAck := if p.replay.isEmpty then now else p.lastAck,
        replay := p.replay ++ [(p.txSeq, bs, 1)], txSeq := p.txSeq + 1 }
      p.sent (p.flit 0 (p.txSeq - 1).toNat bs)

/-! ### Receiving (R428, R429) -/

/-- The bytes of a flit. -/
def flitBytes (f : BitVec 2048) : List Byte := leBytes 256 f.toNat

def flitGood (bs : List Byte) : Bool := crc64 (bs.take 248) == dwordAt bs 248 && natAt bs 0 2 / 2 ^ 12 < 2

/-- What every flit carries: the partner's ACK and NAK, and the credits that it returns. -/
def Port.header (p : Port) (bs : List Byte) (now : DWord) : Port :=
  let w := natAt bs 2 2
  let ack := BitVec.ofNat 12 w
  let covered := p.replay.findIdx? (fun r => r.1 == ack)
  let p := match covered with
    | some k => { p with replay := p.replay.drop (k + 1), resend := min p.resend (p.replay.length - (k + 1)),
                         lastAck := now }
    | none => p
  let p := if 2 ^ 15 ≤ w then { p with resend := p.replay.length } else p
  { p with rqCred := p.rqCred + natAt bs 4 2, rsCred := p.rsCred + natAt bs 6 2, lastGood := now }

/-- The length in slots of the message that a header begins, and whether it keeps R429, given the slots left. A slot of TYPE 0 with
another bit set is malformed, as one with a reserved field that is not zero (DESIGN CHOICE: R429 calls a slot of TYPE 0 empty, and
does not say that its other bits are zero; log entry 133). -/
def msgCheck (slots : List (List Byte)) : Nat × Bool :=
  let h := leNat (slots.headD [])
  let type := bitsOf h 3 0
  let nt := bitsOf h 6 4
  let arg := bitsOf h 13 8
  let clean := bitsOf h 7 7 = 0 && bitsOf h 15 14 = 0 && bitsOf h 31 28 = 0 && bitsOf h 127 48 = 0
  if type = 1 || type = 2 then
    let nd := if type = 1 then (arg + 16) / 16 else 1
    let len := 1 + (nt + 1) / 2 + nd
    let n := if type = 1 then arg + 1 else match reduceOf arg with | some x => x.2 | none => 1
    let ts := ((slots.drop 1).take ((nt + 1) / 2)).flatMap id
    let targets := (List.range nt).map (fun k => natAt ts (8 * k) 8)
    let data := ((slots.drop (1 + (nt + 1) / 2)).take nd).flatMap id
    let okT := targets.all (fun t => bitsOf t 57 52 = 0 && t % 2 ^ 52 % 64 + n ≤ 64 && (type = 1 || t % 2 ^ 52 % n = 0))
    (len, clean && nt != 0 && bitsOf h 27 22 = 0 && len ≤ slots.length && okT && (type = 1 || (reduceOf arg).isSome) &&
      allZero (ts.drop (8 * nt)) && allZero (data.drop n))
  else if type = 3 then (1, clean && nt = 0 && arg = 0)
  else if type = 4 then (1, clean && nt = 0 && arg < 16)
  else (1, h = 0)

/-- The headers of the requests that a receiver can still identify among slots that count as absent: message by message, up
to a reserved TYPE (log entry 40). -/
def identified (n : Nat) (slots : List (List Byte)) : List Nat :=
  match n with
  | 0 => []
  | k + 1 =>
    if slots.isEmpty then []
    else
      let h := leNat (slots.headD [])
      let type := bitsOf h 3 0
      if 4 < type then []
      else (if type = 1 || type = 2 then [h] else []) ++ identified k (slots.drop (msgCheck slots).1)

/-- The messages of a DATA flit: requests, responses, and, from one that breaks R429 on, the headers of the requests that are
to be refused. -/
def parseSlots (n : Nat) (slots : List (List Byte)) : List (List (List Byte)) × List (List (List Byte)) × Option (List Nat) :=
  match n with
  | 0 => ([], [], none)
  | k + 1 =>
    if slots.isEmpty then ([], [], none)
    else
      let h := leNat (slots.headD [])
      let (len, ok) := msgCheck slots
      if !ok then ([], [], some (identified (k + 1) slots))
      else
        let r := parseSlots k (slots.drop len)
        if bitsOf h 3 0 = 0 then r
        else if bitsOf h 3 0 < 3 then (slots.take len :: r.1, r.2.1, r.2.2)
        else (r.1, slots.take len :: r.2.1, r.2.2)

/-- Queueing a response of the port. -/
def State.respond (s : State) (port dnode : Nat) (tag : BitVec 16) (reason : Option Nat) : State :=
  s.modPort port (fun P => { P with outRsp := P.outRsp ++ [responseOf s.node dnode tag reason] })

/-- A message breaks R429: each request that is identified is refused with REASON 2, once for each target it names. -/
def State.malformed (s : State) (port : Nat) (hs : List Nat) : State :=
  (hs.foldl (fun s h =>
    (List.range (max 1 (bitsOf h 6 4))).foldl (fun s _ =>
      s.respond port (bitsOf h 21 16) (BitVec.ofNat 16 (bitsOf h 47 32)) (some 2)) s) s).fabricError

/-- A flit arrives. A DATA flit is accepted in sequence and its messages are queued, or it is discarded; on the first
discard after an accepted flit the port asks for replay. -/
def State.receive (s : State) (port : Nat) (data : Bool) (f : BitVec 2048) : State :=
  let P := s.port port
  let bs := flitBytes f
  if !P.up then s
  else
    let discard (P : Port) : Port := if P.nakSent then P else { P with nak := true, nakSent := true }
    if !flitGood bs then (if data then s.modPort port discard else s)
    else
      let P := P.header bs s.time
      if natAt bs 0 2 / 2 ^ 12 = 1 then s.modPort port (fun _ => P)
      else if natAt bs 0 2 % 2 ^ 12 != P.rxNext.toNat then s.modPort port (fun _ => discard P)
      else
        let (req, rsp, bad) := parseSlots 15 (slotsOf 15 (bytesAt bs 8 240))
        let s := s.modPort port (fun _ =>
          { P with rxNext := P.rxNext + 1, nakSent := false, inReq := P.inReq ++ req, inRsp := P.inRsp ++ rsp })
        match bad with
        | some hs => s.malformed port hs
        | none => s

def execData (port : Nat) (flit : BitVec 2048) (s : State) : Host.Outcome State Fault Refusal :=
  .next (s.receive port true flit)

def execIdle (port : Nat) (flit : BitVec 2048) (s : State) : Host.Outcome State Fault Refusal :=
  .next (s.receive port false flit)

/-! ### Inbound requests (R431, 18/R456) -/

/-- Whether an access lies within a port's inbound window. -/
def Port.inWindow (p : Port) (pa n : Nat) : Bool := p.winBase.toNat ≤ pa && pa + n ≤ p.winBase.toNat + p.winSize.toNat

/-- One target of an inbound request: entered into the port's own forward queue, or refused. -/
def State.inTarget (s : State) (port snode : Nat) (tag : BitVec 16) (op : Acc) (t : Nat) : State :=
  let P := s.port port
  let pa := t % 2 ^ 52
  if t / 2 ^ 58 != s.node.toNat then s.respond port snode tag (some 3)
  else if !P.inWindow pa op.len then s.respond port snode tag (some 0)
  else if (s.part P.winPart).state != .ready then s.respond port snode tag (some 1)
  else
    s.enter (.port port) none P.winPart (homeOf pa) (.home (homeOf pa)) pa 0 op
      (.gfl port tag (BitVec.ofNat 6 snode)) none (some (pa / 2 ^ 30))

/-- The oldest inbound request of a port, of a type: each of its targets is acted on. -/
def State.inbound (s : State) (port type : Nat) : State :=
  match (s.port port).inReq with
  | [] => s
  | m :: r =>
    let h := leNat (m.headD [])
    if bitsOf h 3 0 != type then s
    else
      let nt := bitsOf h 6 4
      let arg := bitsOf h 13 8
      let ts := ((m.drop 1).take ((nt + 1) / 2)).flatMap id
      let data := (m.drop (1 + (nt + 1) / 2)).flatMap id
      let op : Acc := if type = 1 then .store (data.take (arg + 1))
        else match reduceOf arg with
          | some (o, n) => .atom o n (BitVec.ofNat 64 (natAt data 0 n)) 0
          | none => .store []
      let s := s.modPort port (fun P => { P with inReq := r, rqFreed := P.rqFreed + m.length })
      (List.range nt).foldl (fun s k =>
        s.inTarget port (bitsOf h 21 16) (BitVec.ofNat 16 (bitsOf h 47 32)) op (natAt ts (8 * k) 8)) s

def execWrite (port : Nat) (s : State) : Host.Outcome State Fault Refusal := .next (s.inbound port 1)
def execReduce (port : Nat) (s : State) : Host.Outcome State Fault Refusal := .next (s.inbound port 2)

/-- The oldest response of a port, of a type: a target of a waiting request is answered. -/
def State.inResponse (s : State) (port type : Nat) : State :=
  match (s.port port).inRsp with
  | [] => s
  | m :: r =>
    let h := leNat (m.headD [])
    if bitsOf h 3 0 != type then s
    else
      let s := s.modPort port (fun P => { P with inRsp := r, rsFreed := P.rsFreed + 1 })
      if bitsOf h 27 22 != s.node.toNat then s.fabricError
      else s.answered port (BitVec.ofNat 16 (bitsOf h 47 32)) (bitsOf h 21 16)
        (if type = 4 then some (bitsOf h 11 8) else none)

def execDone (port : Nat) (s : State) : Host.Outcome State Fault Refusal := .next (s.inResponse port 3)
def execRefuse (port : Nat) (s : State) : Host.Outcome State Fault Refusal := .next (s.inResponse port 4)

/-! ### Timeouts and training (R428, R429) -/

/-- Nanoseconds since a time. -/
def State.since (s : State) (t : DWord) : Nat := (s.time - t).toNat

/-- 5 µs without an ACK of the oldest flit: everything unacknowledged is sent again. -/
def execReplayTimeout (port : Nat) (s : State) : Host.Outcome State Fault Refusal :=
  let P := s.port port
  if P.up && !P.replay.isEmpty && P.resend = 0 && 5000 ≤ s.since P.lastAck then
    .next (s.modPort port (fun P => { P with resend := P.replay.length, lastAck := s.time }))
  else .next s

/-- A flit sent 16 times without acknowledgement, or 50 µs without a good flit: the port goes DOWN. -/
def execLinkFail (port : Nat) (s : State) : Host.Outcome State Fault Refusal :=
  let P := s.port port
  if P.up && (P.replay.any (fun r => 16 ≤ r.2.2) || 50000 ≤ s.since P.lastGood) then
    .next (s.modPort port (fun P => { P with up := false, trainFails := 0, lastGood := s.time }))
  else .next s

/-- A port whose training has succeeded: both ends grant their credits, and replay resumes. -/
def Port.trained (P : Port) (node : BitVec 6) (now : DWord) : Port :=
  { P with up := true, partner := node, rqCred := 256, rsCred := 256, rqFreed := 0, rsFreed := 0, nak := false,
           nakSent := false, resend := P.replay.length, replay := P.replay.map (fun r => (r.1, r.2.1, 0)),
           lastGood := now, lastAck := now, trainFails := 0 }

/-- Training ends: the port is UP, with the credits of both ends granted and replay to resume; or it has failed, and
after three failures in a row what it holds is given up. -/
def execPortTraining (port : Nat) (ok : Bool) (node : BitVec 6) (s : State) : Host.Outcome State Fault Refusal :=
  let P := s.port port
  if P.up || 3 ≤ P.trainFails || (s.stage != .booting && s.stage != .ready) then .next s
  else if ok then
    .next (s.modPort port (·.trained node s.time))
  else
    let s := s.modPort port (fun P => { P with trainFails := P.trainFails + 1, lastGood := s.time })
    if (s.port port).trainFails < 3 then .next s
    else
      let s := s.modPort port (fun P => { P with replay := [], resend := 0, outReq := [], outRsp := [] })
      .next ((s.refuseAll port (fun _ => true)).fabricError)

/-- A port that stays DOWN is tried again once a second. -/
def execTrainingRetry (port : Nat) (s : State) : Host.Outcome State Fault Refusal :=
  let P := s.port port
  if !P.up && 3 ≤ P.trainFails && 1000000000 ≤ s.since P.lastGood then
    .next (s.modPort port (fun P => { P with trainFails := 2, lastGood := s.time }))
  else .next s

/-- A target that has not answered within 1 ms counts as refusing. -/
def execResponseTimeout (port : Nat) (tag : BitVec 16) (s : State) : Host.Outcome State Fault Refusal :=
  .next (s.refuseAll port (fun w => w.tag == tag && 1000000 ≤ s.since w.sentAt))

end Sys2Proof.Machine
end

