-- ==== Sys2Proof/Machine/ScalarMem.lean ====
section
/-!
DEFINITION. The S-stream's loads, stores, atomics and fences (07/R159 to R165). An access is checked and
entered when it issues; a load or atomic writes its register when its entry is performed.
-/

namespace Sys2Proof.Machine

/-- Bytes of a size code: 1, 2, 4, 8 (05/R121). -/
def sizeOf (sz : BitVec 2) : Nat := 2 ^ sz.toNat

/-- pair q + SignExtend(imm13), modulo 2^64. -/
def Team.smAddr (T : Team) (q : BitVec 5) (imm : BitVec 13) : DWord :=
  T.rdp (pairReg q) + imm.signExtend 64

/-- The registers of an SM word: the data register or pair, and the address pair. -/
def smUses (d : BitVec 6) (q : BitVec 5) (sz : BitVec 2) : List (BitVec 6) :=
  (if sz = 3 then both d else [d]) ++ both (pairReg q)

/-- The bytes that a store of a size takes from its data register or pair. -/
def Team.storeBytes (T : Team) (d : BitVec 6) (sz : BitVec 2) : List Byte :=
  leBytes (sizeOf sz) (if sz = 3 then (T.rdp d).toNat else (T.rd d).toNat)

/-- A load at a place that has been performed ahead of the instructions before it (10/R268), where the schedule takes it: its
bytes go to the register, and what was performed ahead at its line before it is given up. -/
def State.takeEarly (s : State) (t : Nat) (p : Dest × Nat) (d : BitVec 6) (sz : BitVec 2) : Option State :=
  if s.choice < 2 then none
  else
    match (s.team t).earlyAt p.1 p.2 (sizeOf sz) with
    | none => none
    | some x =>
      some (s.modTeam t (fun T =>
        let v : DWord := BitVec.ofNat 64 (leNat x.bytes)
        { (if sz = 3 then T.wrp d v else T.wr d (v.setWidth 32)) with early := earlyAfter T.early x }))

/-- `ld` (R159). -/
def execLd (d : BitVec 6) (q : BitVec 5) (sz : BitVec 2) (imm : BitVec 13) (s : State) :
    Host.Outcome State Fault Refusal :=
  s.runS (smUses d q sz) (fun t T =>
    let a := T.smAddr q imm
    if !s.sMay t true false then .stall s
    else
      match s.sGlobal t a (sizeOf sz) { r := true } with
      | .no e => e
      | .ok tl s =>
        match s.takeEarly t ((s.part (s.partOf t)).at tl a (sizeOf sz)) d sz with
        | some s => .done s
        | none =>
          .done ((s.sEnter t tl a (.load (sizeOf sz)) (.sreg t d.toNat (sz == 3))).notePend t s.nextId d (sz == 3)))

def execSt (d : BitVec 6) (q : BitVec 5) (sz : BitVec 2) (imm : BitVec 13) (s : State) :
    Host.Outcome State Fault Refusal :=
  s.runS (smUses d q sz) (fun t T =>
    let a := T.smAddr q imm
    if !s.sMay t false true then .stall s
    else
      match s.sGlobal t a (sizeOf sz) { w := true } with
      | .no e => e
      | .ok tl s => .done (s.sEnter t tl a (.store (T.storeBytes d sz)) .none))

def execLds (d : BitVec 6) (q : BitVec 5) (sz : BitVec 2) (imm : BitVec 13) (s : State) :
    Host.Outcome State Fault Refusal :=
  s.runS (smUses d q sz) (fun t T =>
    let a := T.smAddr q imm
    if !s.sMay t true false then .stall s
    else
      match s.sSpad t a (sizeOf sz) true false with
      | .no e => e
      | .ok _ s =>
        match s.takeEarly t (.bank (s.team t).gang, a.toNat) d sz with
        | some s => .done s
        | none =>
          .done ((s.sEnterSpad t a (.load (sizeOf sz)) (.sreg t d.toNat (sz == 3))).notePend t s.nextId d (sz == 3)))

def execSts (d : BitVec 6) (q : BitVec 5) (sz : BitVec 2) (imm : BitVec 13) (s : State) :
    Host.Outcome State Fault Refusal :=
  s.runS (smUses d q sz) (fun t T =>
    let a := T.smAddr q imm
    if !s.sMay t false true then .stall s
    else
      match s.sSpad t a (sizeOf sz) false true with
      | .no e => e
      | .ok _ s => .done (s.sEnterSpad t a (.store (T.storeBytes d sz)) .none))

/-! ### Atomics (R161 to R163) -/

/-- The operation of an atomic's function code (05/R122), and its bytes. -/
def atomOp (op : BitVec 4) : AOp × Nat :=
  match op.toNat with
  | 0 => (.add, 4) | 1 => (.min, 4) | 2 => (.minu, 4) | 3 => (.max, 4) | 4 => (.maxu, 4)
  | 5 => (.and, 4) | 6 => (.or, 4) | 7 => (.xor, 4) | 8 => (.xchg, 4) | 9 => (.cas, 4)
  | 10 => (.fadd, 4) | 11 => (.bfadd, 4) | 12 => (.add, 8) | 13 => (.xchg, 8) | _ => (.cas, 8)

/-- The entry of an atomic: its operand from b, its comparand from d (R161). -/
def Team.atomAcc (T : Team) (d b : BitVec 6) (op : BitVec 4) : Acc :=
  let (o, n) := atomOp op
  if n = 8 then .atom o n (T.rdp b) (T.rdp d)
  else .atom o n ((T.rd b).setWidth 64) ((T.rd d).setWidth 64)

def atomUses (d a b : BitVec 6) (op : BitVec 4) : List (BitVec 6) :=
  both a ++ (if 12 ≤ op.toNat then both d ++ both b else [d, b])

/-- Whether R425 allows an atomic on a REPLICA page: a reduction whose value is not returned. -/
def atomReplica (d : BitVec 6) (op : BitVec 4) : Bool :=
  d = 0 && (op.toNat < 8 || op.toNat = 10 || op.toNat = 11 || op.toNat = 12)

/-- Where an atomic returns its old value: nowhere for `s0`, or on a REPLICA page (16/R425). -/
def atomRet (t : Nat) (d : BitVec 6) (n : Nat) (replica : Bool) : Ret :=
  if replica || (d = 0 && n = 4) then .none else .sreg t d.toNat (n == 8)

/-- Noting the register that an atomic's old value will be written to. -/
def State.noteRet (s : State) (t id : Nat) (r : Ret) (d : BitVec 6) (wide : Bool) : State :=
  match r with
  | .none => s
  | _ => s.notePend t id d wide

/-- The order that an atomic leaves at its issue point (R163): an acquire gates later accesses on its own
entry. -/
def State.acquire (s : State) (t : Nat) (order scope id : Nat) : State :=
  if order % 2 = 1 then s.addSOrd t (acquireOrd scope [id]) else s

def execAtom (d a b : BitVec 6) (order scope : BitVec 2) (op : BitVec 4) (s : State) :
    Host.Outcome State Fault Refusal :=
  s.runS (atomUses d a b op) (fun t T =>
    let va := T.rdp a
    let n := (atomOp op).2
    let sc := scope.toNat + 1
    if !s.sMay t false true then .stall s
    else if 2 ≤ order.toNat && !s.sReleased t sc then .stall s
    else
      match s.sGlobal t va n { r := true, w := true, atom := !atomReplica d op } with
      | .no e => e
      | .ok tl s' =>
        let r := atomRet t d n tl.replica
        let s' := s'.sEnter t tl va (T.atomAcc d b op) r
        .done ((s'.noteRet t s.nextId r d (n == 8)).acquire t order.toNat sc s.nextId))

def execAtoms (d a b : BitVec 6) (order scope : BitVec 2) (op : BitVec 4) (s : State) :
    Host.Outcome State Fault Refusal :=
  s.runS (atomUses d a b op) (fun t T =>
    let va := T.rdp a
    let n := (atomOp op).2
    if !s.sMay t false true then .stall s
    else if 2 ≤ order.toNat && !s.sReleased t (scope.toNat + 1) then .stall s
    else
      match s.sSpad t va n true true with
      | .no e => e
      | .ok _ s' =>
        let r := atomRet t d n false
        let s' := s'.sEnterSpad t va (T.atomAcc d b op) r
        .done ((s'.noteRet t s.nextId r d (n == 8)).acquire t order.toNat (scope.toNat + 1) s.nextId))

/-! ### Fences (R164, R165) -/

def execFence (order : BitVec 2) (scope : BitVec 3) (s : State) : Host.Outcome State Fault Refusal :=
  s.runS [] (fun t _ =>
    .done (s.addSOrd t (fenceOrd order.toNat scope.toNat (s.sEarlier t))))

/-- Whether a store is still to be performed at its home: at a replica's peers it is at none (R165, 10/R271). -/
def Entry.unhomed (e : Entry) : Bool := !e.op.isLoad && (match e.dest with | .peer _ _ => false | _ => true)

/-- `rfence` waits until the team's earlier stores have been performed at their homes, whatever the scope; then the team's
engine commands use no record-cache entry filled before (R165, 10/R279). -/
def execRfence (s : State) : Host.Outcome State Fault Refusal :=
  s.runS [] (fun t T =>
    if (s.sEarlier t).any Entry.unhomed then .stall s
    else .done (s.setTeam t { T with recMark := s.nextId }))

end Sys2Proof.Machine
end

