-- ==== Sys2Proof/Machine/LaneMem.lean ====
section
/-!
DEFINITION. Lane memory instructions (08/R203 to R209, 09/R258): the checks on each lane's access, the
entries that it enters, and the operand-log slot, or the held visitor, that a pending instruction leaves
(03/R79, R80, 14/R370). A load or an atomic is finished by the perform step that returns it.
-/

namespace Sys2Proof.Machine

/-! ### The accesses of an instruction -/

/-- Where a lane memory instruction goes. -/
inductive MSpace where
  | global
  | spad
  /-- the scratchpads of gangs of the launch (R208) -/
  | mcast
  deriving DecidableEq, Repr

/-- What a lane memory instruction does in each lane. -/
structure MemOp where
  i : Instr
  space : MSpace
  /-- bytes of a lane's access; an elastic load finds its own length (R258) -/
  n : Nat
  align : Nat
  need : Need
  /-- whether orders gate it as a load, or as a store or atomic (10/R272) -/
  load : Bool
  /-- a VISIT page may move its lanes (14/R360) -/
  moves : Bool
  /-- it returns a value to a destination -/
  returns : Bool
  elastic : Bool
  order : Nat
  scope : Nat
  deriving DecidableEq, Repr

/-- Bytes of a lane's element, and the alignment of its type (R204). -/
def LType.bytes (t : LType) : Nat := if t.isW64 then 8 else 4
def LType.align (t : LType) : Nat := LType.width t / 8

/-- Order and scope of a modifier (05/R129): the codes of R121. -/
def mdOrder (f : LF) : Nat := f.md.toNat / 4
def mdScope (f : LF) : Nat := f.md.toNat % 4 + 1

/-- Whether a destination takes a value. -/
def dstTakes (d : Dst) : Bool := match d with | .r .zero => false | _ => true

def ldOp (i : Instr) (f : LF) (sp : MSpace) : MemOp :=
  { i := i, space := sp, n := LType.bytes f.ty, align := LType.align f.ty, need := { r := true }, load := true,
    moves := sp == .global, returns := dstTakes f.d, elastic := false, order := mdOrder f, scope := mdScope f }

def stOp (i : Instr) (f : LF) (sp : MSpace) : MemOp :=
  { i := i, space := sp, n := LType.bytes f.ty, align := LType.align f.ty, need := { w := true }, load := false,
    moves := sp == .global, returns := false, elastic := false, order := mdOrder f, scope := mdScope f }

/-- An atomic: bf16 updates the whole lane (R206). On a REPLICA page only a reduction without a result is
allowed (16/R425). -/
def atOp (i : Instr) (f : LF) (sp : MSpace) : MemOp :=
  { i := i, space := sp, n := LType.bytes f.ty, align := LType.bytes f.ty,
    need := { r := true, w := true, atom := dstTakes f.d || 6 ≤ f.sub.toNat }, load := false,
    moves := sp == .global, returns := dstTakes f.d, elastic := false, order := mdOrder f, scope := mdScope f }

def eldOp (i : Instr) (_ : LF) : MemOp :=
  { i := i, space := .global, n := 0, align := 2, need := { r := true }, load := true, moves := true,
    returns := true, elastic := true, order := 0, scope := 1 }

def estOp (i : Instr) (_ : LF) : MemOp :=
  { i := i, space := .global, n := 0, align := 2, need := { w := true }, load := false, moves := true,
    returns := false, elastic := true, order := 0, scope := 1 }

def mcastOp (i : Instr) (_ : LF) : MemOp :=
  { i := i, space := .mcast, n := 4, align := 4, need := {}, load := false, moves := false, returns := false,
    elastic := false, order := 0, scope := 1 }

/-- The operation of an instruction, as a slot finds it again. -/
def memOpOf (i : Instr) : Option MemOp :=
  match i with
  | .vld f => some (ldOp i f .global)
  | .vlds f => some (ldOp i f .spad)
  | .vst f => some (stOp i f .global)
  | .vsts f => some (stOp i f .spad)
  | .vatom f => some (atOp i f .global)
  | .vatoms f => some (atOp i f .spad)
  | .eld f | .eldn f => some (eldOp i f)
  | .est f => some (estOp i f)
  | _ => none

/-! ### Operands -/

/-- A source as a slot logs it: a pair, or a value zero-extended (03/R79). -/
def LCtx.logged (C : LCtx) (wide : Bool) (x : Src) (lane : Nat) : DWord :=
  if wide then C.pair x lane else (C.src x lane).setWidth 64

/-- The operands of a lane as they are read at issue: the base, the value, the comparand. Beside them stand, in `data`, the
lane's PRC of an elastic load, and the halfwords of an elastic store's value. -/
def LCtx.operands (C : LCtx) (i : Instr) (lane : Nat) : LaneOp :=
  let (_, f) := lCode i
  let w := f.ty.isW64
  match i with
  | .eld _ | .eldn _ =>
    { lane := lane, a := C.pair f.a lane, b := 0, c := 0, data := [C.regs.prc.at lane] }
  | .est _ =>
    { lane := lane, a := C.pair f.a lane, b := BitVec.ofNat 64 (leNat ((C.eRaw f.b lane).flatMap (leBytes 2) ++ zeros 8 |>.take 8)),
      c := 0, data := (C.eRaw f.b lane).map (BitVec.ofNat 32) }
  | .vatom _ | .vatoms _ =>
    { lane := lane, a := C.pair f.a lane, b := C.logged w f.b lane,
      c := if f.sub = 7 then C.logged w f.c lane else 0, data := [] }
  | .vmcast _ =>
    { lane := lane, a := C.pair f.a lane, b := C.logged false f.b lane, c := C.logged false f.c lane, data := [] }
  | .vld _ | .vlds _ => { lane := lane, a := C.pair f.a lane, b := 0, c := 0, data := [] }
  | _ => { lane := lane, a := C.pair f.a lane, b := C.logged w f.b lane, c := 0, data := [] }

/-- PairA[n] + SignExtend(imm24) (R203). -/
def LaneOp.addr (o : LaneOp) (i : Instr) : DWord := o.a + (lCode i).2.imm.signExtend 64

/-- The bytes that an elastic store moves: the 2L bytes of the value as it is held (R258). -/
def LaneOp.eBytes (o : LaneOp) : List Byte :=
  let hs := o.data.map (·.toNat)
  let l := eLen hs
  ((hs.take l).flatMap (leBytes 2) ++ zeros (2 * l)).take (2 * l)

/-- The atomic of a sub-operation and a type (R206). -/
def vAtomOp (f : LF) : AOp :=
  let u := !LType.signed f.ty
  match f.sub.toNat with
  | 0 => if f.ty == .f32 then .fadd else if f.ty == .bf16 then .bfadd else .add
  | 1 => if u then .minu else .min
  | 2 => if u then .maxu else .max
  | 3 => .and
  | 4 => .or
  | 5 => .xor
  | 6 => .xchg
  | _ => .cas

/-- Bytes of a lane's access as its operands tell: a store's length, or the most that an elastic load's first
part may read. -/
def MemOp.len (m : MemOp) (o : LaneOp) : Nat :=
  if m.elastic then
    (if m.load then min 32 (64 - (o.addr m.i).toNat % 64) else o.eBytes.length)
  else m.n

/-- What the line part at an offset does where it is performed. -/
def MemOp.acc (m : MemOp) (o : LaneOp) (off n : Nat) : Acc :=
  match m.i with
  | .vst _ | .vsts _ => .store (bytesAt (leBytes m.n o.b.toNat) off n)
  | .est _ => .store (bytesAt o.eBytes off n)
  | .vatom f | .vatoms f => .atom (vAtomOp f) n o.b o.c
  | .vmcast _ => .mcast (bytesAt (leBytes 4 o.b.toNat) off n)
  | _ => .load n

/-! ### Checks (R203, R208, R258) -/

/-- What the checks on a lane's access come to. -/
inductive Want where
  /-- it may be entered: its line parts with their translations -/
  | go (parts : List (Nat × Nat × Tlb))
  | bad (c : Cause) (a : DWord)
  /-- a resolvable fault (16/R417) -/
  | held (c : Cause) (a : DWord)
  /-- its page moves it: the die and the REFUSE_MODE; its parts, for a lane that falls back -/
  | move (die mode : Nat) (parts : List (Nat × Nat × Tlb))
  /-- a walk would overtake an earlier store to the entries that it reads (16/R420) -/
  | stall

/-- A translation that serves no page: scratchpad parts carry it. -/
def Tlb.none : Tlb := ⟨0, 0, 0, 0, false, false, false, false, 0, [], false⟩

/-- The last-page register of a lane (16/R418), and filling it. -/
def lastOf (l : List (Nat × Tlb)) (lane : Nat) : Option Tlb := (l.find? (·.1 == lane)).map (·.2)
def setLast (l : List (Nat × Tlb)) (lane : Nat) (t : Option Tlb) : List (Nat × Tlb) :=
  (match t with | some t => [(lane, t)] | .none => []) ++ l.filter (·.1 != lane)

/-- The checks run on the state and on the last-page registers, which translation fills. `seen` are the pages that the
instruction has looked up, with what each came to. -/
structure Chk where
  s : State
  last : List (Nat × Tlb)
  seen : List (Nat × WEnd × List Nat) := []

/-- The translation of a lane's address: by its last-page register, or by its page's one lookup of the instruction
(16/R418). -/
def Chk.look (k : Chk) (C : LCtx) (lane : Nat) (va : DWord) (need : Need) : WEnd × List Nat × Chk :=
  let last := lastOf k.last lane
  let page := va.toNat / 65536
  let own : Bool := match last with | some t => t.covers C.part va && t.permits need | .none => false
  match if own then .none else k.seen.find? (·.1 == page) with
  | some x => (x.2.1, x.2.2, k)
  | .none =>
    let r := k.s.translate C.part (some C.core) C.die last va need (some C.t)
    (r.1, r.2.1, { k with s := r.2.2, seen := if own then k.seen else (page, r.1, r.2.1) :: k.seen })

/-- Translating the line parts of a lane's access, in order: the first part that fails is reported, be it that its page
denies the access where a later part's page is not valid (DESIGN CHOICE: R203 orders the checks of an access on one page;
log entry 125). -/
def Chk.parts (k : Chk) (C : LCtx) (own : List Entry) (lane : Nat) (va : DWord) (need : Need)
    (done : List (Nat × Nat × Tlb)) (ps : List (Nat × Nat)) : Want × Chk :=
  match ps with
  | [] => (.go done, k)
  | (off, n) :: r =>
    match k.look C lane (partVa va off) need with
    | (.fail c res, reads, z) =>
      if walkBlocked own reads then (.stall, { k with last := setLast k.last lane .none })
      else
        (if res then .held c (partVa va off) else .bad c (partVa va off), { z with last := setLast k.last lane .none })
    | (.ok t, reads, z) =>
      let k : Chk := { z with last := setLast k.last lane (some t) }
      if walkBlocked own reads then (.stall, k) else Chk.parts k C own lane va need (done ++ [(off, n, t)]) r

/-- The storage in which a read of a translated part meets an uncorrectable error, and the record of it (15/R399). -/
def State.badOf (s : State) (part : Nat) (t : Tlb) (va : DWord) (n : Nat) : Option Nat :=
  let d := (s.part part).at t va n
  s.badAt d.1 d.2 n

def State.recordBad (s : State) (C : LCtx) (u : Nat) (t : Tlb) (va : DWord) (n : Nat) : State :=
  let d := (s.part C.part).at t va n
  s.metBad C.part u (homeOf d.2) d.2 va.toNat (some C.t)

/-- Bytes of a part that are sure to be read: an elastic load finds its length in the first four (09/R258). -/
def MemOp.sure (m : MemOp) (off n : Nat) : Nat := if m.elastic then min n (4 - off) else n

/-- The first part of a lane's access that meets an uncorrectable error: unit, address, translation and length. -/
def State.brokenPart (s : State) (C : LCtx) (m : MemOp) (va : DWord) (ps : List (Nat × Nat × Tlb)) :
    Option (Nat × DWord × Tlb × Nat) :=
  if m.need.r then
    ps.findSome? (fun p =>
      let n := m.sure p.1 p.2.1
      (s.badOf C.part p.2.2 (partVa va p.1) n).map (fun u => (u, partVa va p.1, p.2.2, n)))
  else none

/-- The bytes of translated parts as they stand. -/
def State.peek (s : State) (part : Nat) (va : DWord) (ps : List (Nat × Nat × Tlb)) : List Byte :=
  ps.flatMap (fun p =>
    let d := (s.part part).at p.2.2 (partVa va p.1) p.2.1
    s.readAt part d.1 d.2 p.2.1)

/-- The line parts of `[lo, hi)` of an access. -/
def partsFrom (va : DWord) (lo hi : Nat) : List (Nat × Nat) := lineParts 3 (partVa va lo).toNat lo (hi - lo)

/-- The pages of an elastic load that would move its lane translate first, all of the 2L bytes that it touches, as word 0
stands (09/R258; log entry 103). -/
def Chk.elastic (k : Chk) (C : LCtx) (own : List Entry) (lane : Nat) (va : DWord) (need : Need)
    (ps : List (Nat × Nat × Tlb)) (n : Nat) : Want × Chk :=
  match k.parts C own lane va need ps (partsFrom va n 4) with
  | (.go qs, k) =>
    let bs := k.s.peek C.part va qs
    let l := eLen ((List.range 16).map (fun j => natAt bs (2 * j) 2))
    k.parts C own lane va need qs (partsFrom va (max n 4) (2 * l))
  | r => r

/-- The checks on a lane of a global access (R203): alignment, translation with permission, then whether its
page moves it. -/
def Chk.global (k : Chk) (C : LCtx) (own : List Entry) (m : MemOp) (migctl : Word) (o : LaneOp) : Want × Chk :=
  let va := o.addr m.i
  if va.toNat % m.align != 0 then (.bad .align va, k)
  else
    let n := m.len o
    match k.parts C own o.lane va m.need [] (lineParts (n / 64 + 2) va.toNat 0 n) with
    | (.go ps, k) =>
      match ps.head? with
      | some p =>
        let home := homeOf (p.2.2.pa va)
        if m.moves && p.2.2.visit && home != C.die && !migctl.getLsbD 5 then
          match if m.elastic && m.load then k.elastic C own o.lane va m.need ps n else (.go ps, k) with
          | (.go _, k) => (.move home p.2.2.refuse ps, k)
          | r => r
        else (.go ps, k)
      | .none => (.go ps, k)
    | r => r

/-- The checks on a lane of a scratchpad access (R203), or of a multicast (R208). -/
def Chk.spad (k : Chk) (C : LCtx) (m : MemOp) (o : LaneOp) : Want × Chk :=
  let g := (k.s.team C.t).gang
  let a := o.addr m.i
  let bit31 := m.space == .mcast && bitsOf o.c.toNat 31 21 != 0
  let writes := !m.load && m.space == .spad
  let reads := m.load || m.need.r
  if a.toNat % m.align != 0 then (.bad .align a, k)
  else if k.s.spadBytes g < a.toNat + m.n || bit31 then (.bad .scratchRange a, k)
  else if writes && (k.s.gang g).liveAt a.toNat m.n then (.bad .barrierStore a, k)
  else if reads && k.s.isBad 2 g a.toNat m.n then
    if mending (k.s.teamQueue C.t C.die) (.bank g) a.toNat then (.stall, k)
    else (.bad .deviceError a, { k with s := k.s.metBad C.part 2 C.die 0 a.toNat (some C.t) })
  else (.go ((lineParts 3 a.toNat 0 m.n).map (fun p => (p.1, p.2, Tlb.none))), k)

def Chk.lane (k : Chk) (C : LCtx) (own : List Entry) (m : MemOp) (migctl : Word) (o : LaneOp) : Want × Chk :=
  match m.space with
  | .global => k.global C own m migctl o
  | _ => k.spad C m o

/-- The checks on some lanes, ascending. -/
def Chk.lanes (k : Chk) (C : LCtx) (own : List Entry) (m : MemOp) (migctl : Word) (os : List LaneOp) :
    List (LaneOp × Want) × Chk :=
  match os with
  | [] => ([], k)
  | o :: r =>
    let (w, k) := k.lane C own m migctl o
    let (ws, k) := Chk.lanes k C own m migctl r
    ((o, w) :: ws, k)

/-! ### Entering (10/R264) -/

/-- Where the parts of a lane return their values. -/
def retOf (who : Issuer) (slot lane off : Nat) : Ret :=
  match who with
  | .l t => .slot t slot lane off
  | .v v => .visitor v lane off
  | _ => .none

/-- The gangs that a `vmcast` lane names (R208). -/
def mcastGangs (c : DWord) : List Nat :=
  (List.range (bitsOf c.toNat 20 16 + 1)).map (· + bitsOf c.toNat 15 0)

/-- Entering the line parts of a lane's access. -/
def State.enterLane (s : State) (C : LCtx) (m : MemOp) (slot : Nat) (o : LaneOp)
    (parts : List (Nat × Nat × Tlb)) : State :=
  let va := o.addr m.i
  parts.foldl (fun s p =>
    let op := m.acc o p.1 p.2.1
    let ret : Ret := if m.returns && !(p.2.2.replica && !op.isLoad) then retOf C.who slot o.lane p.1 else .none
    match m.space with
    | .global => s.enterGlobal C.who (some C.t) C.part C.die p.2.2 (partVa va p.1) op ret (some o.lane)
    | .spad =>
      s.enter C.who (some C.t) C.part C.die (.bank (s.team C.t).gang) (va.toNat + p.1) (partVa va p.1) op ret
        (some o.lane)
    | .mcast =>
      (mcastGangs o.c).foldl (fun s g =>
        -- a write to the issuing gang itself goes with its other scratchpad accesses
        let T := s.team C.t
        let dest : Dest := if (s.gang T.gang).num == g then .bank T.gang else .mcast T.launch g
        s.enter C.who (some C.t) C.part C.die dest (va.toNat + p.1) (partVa va p.1) op .none (some o.lane)) s) s

/-! ### Issue -/

/-- What issuing some lanes comes to: the state, the lanes whose values are awaited, those that finished (a store
once entered, a lane that left), those that left, the faults that trap, and the resolvable ones. -/
structure Issued where
  s : State
  fly : Mask
  fin : Mask
  gone : Mask
  bad : Bads
  held : Bads

/-- Where the accesses of an instruction are issued from: the context, the operation, the MIGCTL it runs under,
its index and where its lanes restart, and the operands of its lanes. -/
structure Issue where
  C : LCtx
  m : MemOp
  migctl : Word
  lpc : BitVec 26
  restart : BitVec 26
  ops : List LaneOp

/-- HOPS of what departs from an issue point: 0 when lanes leave home, one more at each hop (14/R366, R370). -/
def State.hopsOf (s : State) (who : Issuer) : Nat :=
  match who with
  | .v v => match s.visitors[v]? with | some V => V.cont.hops + 1 | none => 0
  | _ => 0

def State.lastPages (s : State) (who : Issuer) : List (Nat × Tlb) :=
  match who with
  | .l t => (s.team t).lastPage
  | .v v => match s.visitors[v]? with | some V => V.last | none => []
  | _ => []

def State.setLastPages (s : State) (who : Issuer) (l : List (Nat × Tlb)) : State :=
  match who with
  | .l t => s.modTeam t (fun T => { T with lastPage := l })
  | .v v => s.modVisitor v (fun V => { V with last := l })
  | _ => s

/-- Whether the orders of the issue point, and a release of the instruction itself, let it be entered
(10/R272). -/
def State.lMay (s : State) (C : LCtx) (m : MemOp) : Bool :=
  let os := match C.who with
    | .v v => match s.visitors[v]? with | some V => V.ord | none => []
    | _ => (s.team C.t).lOrd
  s.mayEnter C.t os m.load (!m.load) &&
    (m.order < 2 || s.settled C.t m.scope (s.earlierOf C))

/-- Some lanes of an instruction still pending in a slot would leave: their earlier accesses are not all entered
(10/R273). -/
def State.leavesPending (s : State) (C : LCtx) (except : Option Nat) (lanes : Mask) : Bool :=
  !C.visiting && (List.range 4).any (fun k =>
    except != some k &&
      (match vget (s.team C.t).oplog k with
       | some x => x.block == C.blk.lq.sMark && Mask.minus x.eff x.done &&& lanes != 0
       | none => false))

/-- Issuing some lanes: the checks, the departures, then the entries in ascending lane order. `none` when the
instruction waits; `slot` is the slot that values return to, whose own pending lanes do not hold it back. -/
def Issue.run (x : Issue) (s : State) (slot : Nat) : Option Issued :=
  let C := x.C
  let own := s.teamQueue C.t C.die
  let (ws, k) := ({ s := s, last := s.lastPages C.who } : Chk).lanes C own x.m x.migctl x.ops
  let stalls := ws.any (fun w => match w.2 with | .stall => true | _ => false)
  let moving : List Moving := ws.filterMap (fun w => match w.2 with
    | .move d md _ => some (w.1.lane, d, md, w.1.addr x.m.i)
    | _ => none)
  if stalls || !s.lMay C x.m ||
      (!moving.isEmpty && s.leavesPending C (some slot) (Mask.ofLanes (moving.map (·.1)))) then none
  else
    let s := k.s.setLastPages C.who k.last
    let L : Leaving := { C := C, hops := s.hopsOf C.who, migctl := x.migctl, lpc := x.lpc, restart := x.restart,
                         earlier := s.earlierOf C }
    let M := L.all s moving
    let stays (l : Nat) : Bool := M.back.any (·.1 == l)
    let here : List (LaneOp × List (Nat × Nat × Tlb)) := ws.filterMap (fun w => match w.2 with
      | .go ps => some (w.1, ps)
      | .move _ _ ps => if stays w.1.lane then some (w.1, ps) else none
      | _ => none)
    -- an uncorrectable error that a lane's read meets where the lane stands (15/R399)
    let broken := here.filterMap (fun e =>
      (M.s.brokenPart C x.m (e.1.addr x.m.i) e.2).map (fun b => (e.1.lane, b)))
    let enters := here.filter (fun e => !broken.any (·.1 == e.1.lane))
    let heals := broken.any (fun b =>
      let d := (M.s.part C.part).at b.2.2.2.1 b.2.2.1 b.2.2.2.2
      mending own d.1 d.2)
    let s := broken.foldl (fun s b => s.recordBad C b.2.1 b.2.2.2.1 b.2.2.1 b.2.2.2.2) M.s
    let s := enters.foldl (fun s e => s.enterLane C x.m slot e.1 e.2) s
    let went := Mask.ofLanes (enters.map (·.1.lane))
    -- a replicated reduction returns nothing (16/R425)
    if heals then none
    else
      some {
        s := s, fly := if x.m.returns then went else 0, fin := (if x.m.returns then 0 else went) ||| M.gone,
        gone := M.gone,
        bad := ws.filterMap (fun w => match w.2 with | .bad c a => some (w.1.lane, c, a) | _ => none) ++ M.bad ++
          broken.map (fun b => (b.1, .deviceError, b.2.2.1)),
        held := ws.filterMap (fun w => match w.2 with | .held c a => some (w.1.lane, c, a) | _ => none) }

/-- The hold of an instruction with resolvable faults: what R54 would report (15/R395). -/
def holdOf (bad : Bads) (write : Bool) : Hold :=
  let (c, a) := lowestBad bad
  { cause := c, addr := a, write := write, exec := false, seq := none, res := none }

def lanesOf (bad : Bads) : Mask := Mask.ofLanes (bad.map (·.1))

/-- The orders that an instruction leaves: after an acquire every later access waits until it has returned; its
entries are those entered since a number (R207). -/
def State.acquireL (s : State) (C : LCtx) (m : MemOp) (since : Nat) : State :=
  if m.order % 2 = 1 then
    s.addLOrd C (acquireOrd m.scope ((s.flight.filter (fun e => e.owner == C.who && since ≤ e.id)).map (·.id)))
  else s

/-! ### At home: the operand log -/

/-- A slot after some of its lanes have been issued. -/
def Slot.issued (k : Slot) (r : Issued) (holds : Bool) (write : Bool) : Slot :=
  { k with
    done := k.done ||| r.fin, flying := k.flying ||| r.fly, faulted := lanesOf r.held,
    traps := r.bad ++ (if holds then [] else r.held),
    hold := if holds && !r.held.isEmpty then some (holdOf r.held write) else none }

/-- Whether a slot is done with: every lane has finished and no trap of it waits. -/
def Slot.over (k : Slot) : Bool := Mask.minus k.eff k.done == 0 && k.traps.isEmpty

/-- Putting a slot back, or freeing it. -/
def State.putSlot (s : State) (t k : Nat) (x : Slot) : State :=
  s.modTeam t (fun T => { T with oplog := vmod T.oplog k (fun _ => if x.over then none else some x) })

/-- The lowest free slot. -/
def Team.freeSlot (T : Team) : Option Nat := (List.range 4).find? (fun k => (vget T.oplog k).isNone)

/-- A lane memory instruction at home: it takes a slot while values are awaited or a lane faults on a resolvable
fault, and the L-stream goes on (R79, R80). Faults without a slot trap at once (R54). -/
def State.issueHome (s : State) (C : LCtx) (m : MemOp) (t : Nat) : LEff :=
  let T := s.team t
  let k := T.freeSlot
  let x : Issue := { C := C, m := m, migctl := C.blk.lq.migctl, lpc := C.blk.lpc, restart := C.blk.restartAt,
                     ops := C.lanes.map (C.operands m.i) }
  match x.run s (k.getD 4) with
  | none => .stall s
  | some r =>
    let r := { r with s := r.s.acquireL C m s.nextId }
    if r.fly == (0 : Mask) && r.held.isEmpty then
      (if r.bad.isEmpty then .done r.s C else .trap r.s C r.bad)
    else
      match k with
      | none => .wait s
      | some k =>
        let slot : Slot :=
          { i := m.i, block := C.blk.lq.sMark, lpc := C.blk.lpc, chainHead := C.blk.restartAt, eff := C.eff,
            done := 0, flying := 0, faulted := 0, ops := x.ops, parts := [], traps := [], sseq := 0, hold := none,
            latch := (dstTouch m.i).latch != [], fmt := C.blk.fmt, rkey := C.blk.lq.rkey,
            migctl := C.blk.lq.migctl }
        -- the lanes of faults that trap without a slot of their own finish at the trap
        .done (r.s.putSlot t k (slot.issued r (s.canHold t) (!m.load))) C

/-! ### In a visitor (14/R370) -/

/-- A visitor's block with an instruction in flight or held, and the record of it: of lanes that it still carries. -/
def State.holdVisitor (s : State) (v : Nat) (k : Slot) (b : Blk) : State :=
  s.modVisitor v (fun V => { V with fly := some k, cont := { V.cont with blk := b.carry V.cont.lanes } })

/-- A visitor's instruction has completed: control goes on. -/
def Visitor.pass (V : Visitor) : Visitor :=
  { V with fly := none, hold := none,
           cont := { V.cont with blk := { V.cont.blk.pass with lpc := V.cont.blk.lpc + 1, part := 0, rest := none } } }

/-- The block of a held visitor: the lanes that have completed are recorded, and those that have not; where none has
completed, the chain stands as before the instruction. -/
def Blk.keepPart (b : Blk) (eff done : Mask) : Blk :=
  let b := { b with rest := some (Mask.minus eff done, b.lpc) }
  if done = 0 then { b with chainCount := if 1 < b.chainCount then b.chainCount - 1 else b.chainCount, part := 0 }
  else { b with part := done }

/-- What follows once no lane of a visitor's instruction is in flight: its trap, its hold (or its issue again for
lanes that are left), or its end. An instruction of which some lanes trap and others are held traps at once, and the held
ones are among those that have not completed it (DESIGN CHOICE: R370 and R377 do not say; log entry 122). -/
def State.settleVisitor (s : State) (v : Nat) : State :=
  match s.visitors[v]? with
  | some V =>
    match V.fly with
    | some k =>
      if k.flying != 0 then s
      else if !k.traps.isEmpty then
        let (c, a) := lowestBad k.traps
        s.returnHome v 4 k.chainHead k.lpc (Mask.minus k.eff k.done) (some c) a
      else if V.hold.isSome || Mask.minus k.eff k.done != 0 then
        s.modVisitor v (fun V => { V with cont := { V.cont with blk := V.cont.blk.keepPart k.eff k.done } })
      else s.modVisitor v Visitor.pass
    | none => s
  | none => s

/-- A lane memory instruction of a visitor: lanes recorded as completed are not performed again. -/
def State.issueVisitor (s : State) (C : LCtx) (m : MemOp) (v : Nat) : LEff :=
  let part := C.blk.part
  let C := { C with eff := Mask.minus C.eff part }
  let x : Issue := { C := C, m := m, migctl := C.blk.lq.migctl, lpc := C.blk.lpc, restart := C.blk.restartAt,
                     ops := C.lanes.map (C.operands m.i) }
  match x.run s 0 with
  | none => .stall s
  | some r =>
    let holds := s.canHold C.t
    let slot : Slot :=
      { i := m.i, block := C.blk.lq.sMark, lpc := C.blk.lpc, chainHead := C.blk.restartAt,
        eff := C.eff ||| part ||| C.skip, done := part, flying := 0, faulted := 0, ops := x.ops, parts := [], traps := [],
        sseq := 0, hold := none, latch := (dstTouch m.i).latch != [], fmt := C.blk.fmt, rkey := C.blk.lq.rkey,
        migctl := C.blk.lq.migctl }
    let slot := slot.issued r holds (!m.load)
    let s := (r.s.acquireL C m s.nextId).charge C.part 0 (Mask.passes C.eff)
    let s := s.modVisitor v (fun V => { V with hold := slot.hold })
    .over ((s.holdVisitor v { slot with hold := none } C.blk).settleVisitor v)

/-! ### The instructions -/

/-- A lane memory instruction. -/
def State.runMem (s : State) (m : MemOp) : Host.Outcome State Fault Refusal :=
  s.runL m.i (lCode m.i).2.ms false (fun C =>
    match C.who with
    | .l t => s.issueHome C m t
    | .v v => if m.space == .global then s.issueVisitor C m v else .fault s C .notCarried 0
    | _ => .wait s)

def execVld (f : LF) (s : State) : Host.Outcome State Fault Refusal := s.runMem (ldOp (.vld f) f .global)
def execVst (f : LF) (s : State) : Host.Outcome State Fault Refusal := s.runMem (stOp (.vst f) f .global)
def execVatom (f : LF) (s : State) : Host.Outcome State Fault Refusal := s.runMem (atOp (.vatom f) f .global)
def execVlds (f : LF) (s : State) : Host.Outcome State Fault Refusal := s.runMem (ldOp (.vlds f) f .spad)
def execVsts (f : LF) (s : State) : Host.Outcome State Fault Refusal := s.runMem (stOp (.vsts f) f .spad)
def execVatoms (f : LF) (s : State) : Host.Outcome State Fault Refusal := s.runMem (atOp (.vatoms f) f .spad)
def execEld (f : LF) (s : State) : Host.Outcome State Fault Refusal := s.runMem (eldOp (.eld f) f)
def execEldn (f : LF) (s : State) : Host.Outcome State Fault Refusal := s.runMem (eldOp (.eldn f) f)
def execEst (f : LF) (s : State) : Host.Outcome State Fault Refusal := s.runMem (estOp (.est f) f)
def execVmcast (f : LF) (s : State) : Host.Outcome State Fault Refusal := s.runMem (mcastOp (.vmcast f) f)

/-- `vprf` asks for a line to be brought near: it changes no value that a program can read (R209). -/
def execVprf (f : LF) (s : State) : Host.Outcome State Fault Refusal :=
  s.runL (.vprf f) f.ms false (fun C => .done s C)

end Sys2Proof.Machine
end

