-- ==== Sys2Proof/Machine/Steep.lean ====
section
/-!
DEFINITION. Steeps (13/R350 to R359): records and their arrival, the apply of a closed steep, and the
instructions `steep.close`, `steep.wait` and `steep.grad`.
-/

namespace Sys2Proof.Machine

/-! ### Arithmetic of the blend unit (R352, R358) -/

/-- Round(a × b + c, f32, RNE), fused, on f32 codes. -/
def fma32 (a b c : Nat) : Nat :=
  (fmtF32.round 0 false false (fmaFV 0 (fmtF32.decode a) (fmtF32.decode b) (fmtF32.decode c)).1).1

/-- The code with its sign changed. -/
def neg32 (a : Nat) : Nat := if a < 2 ^ 31 then a + 2 ^ 31 else a - 2 ^ 31

/-- Round(a - b, f32, RNE). -/
def sub32 (a b : Nat) : Nat :=
  (fmtF32.round 0 false false (addFV 0 (fmtF32.decode a) (fmtF32.decode (neg32 b))).1).1

/-! ### Caddies -/

/-- The caddy that a team names, with its set; `none` when k is not below CADDIES. -/
def State.caddyOf (s : State) (t k : Nat) : Option (Nat × Caddy) :=
  match (s.launchOf t).caddySet with
  | none => none
  | some set =>
    if k < (s.launchOf t).desc.caddies then
      match s.caddySets[set]? with
      | some S => match S.caddies[k]? with | some c => some (set, c) | none => none
      | none => none
    else none

/-- Address of slot i, element d (R340). -/
def Caddy.elem (c : Caddy) (i : Word) (d : Nat) : DWord := c.base + BitVec.ofNat 64 (4 * (c.d * i.toNat + d))

/-- Address of record j of a steep's segment (R353). -/
def Caddy.recAddr (c : Caddy) (steep : Word) (j : Nat) : DWord :=
  c.segAddr steep + BitVec.ofNat 64 (64 + j * c.recSize)

/-- A record as the tape holds it (R353): `pre` gives the pre-images of entry e, element d, in order. -/
def SRec.bytes (r : SRec) (c : Caddy) (pre : List Word) : List Byte :=
  let ent (e : Nat) : List Byte :=
    match r.ents[e]? with
    | some p => w32le p.1 ++ w32le p.2 ++
        (List.range c.d).flatMap (fun d => w32le ((pre[e * c.d + d]?).getD 0))
    | none => zeros (8 + 4 * c.d)
  let bs := w32le r.lseq ++ w32le r.tid ++ w32le r.sseq ++ leBytes 4 (r.ents.length * 2 ^ 16 + r.lane) ++
    (List.range c.d).flatMap (fun d => w32le ((r.x[d]?).getD 0)) ++ (List.range 8).flatMap ent
  bs ++ zeros (c.recSize - bs.length)

/-- The canonical order (R352). -/
def SRec.before (oldest : Word) (x y : SRec) : Bool :=
  let k (r : SRec) : List Nat := [(r.lseq - oldest).toNat, r.tid.toNat, r.sseq.toNat, r.lane]
  let rec le (a b : List Nat) : Bool :=
    match a, b with
    | p :: q, r :: t => if p = r then le q t else p < r
    | _, _ => true
  le (k x) (k y)

/-! ### Arrival of a record (R350, R353, R354) -/

/-- A record arrives at a caddy: `none` while the blend unit is held for it, and a state in which it is held in turn
when a tape access fails (the record then has not arrived). -/
def State.arriveRecord (s : State) (set k : Nat) (r : SRec) : Option State :=
  match s.caddySets[set]? with
  | none => some s
  | some S =>
    match S.caddies[k]? with
    | none => some s
    | some c =>
      if !c.made then some s
      else
        let add (c : Caddy) : Caddy :=
          { c with recs := c.recs ++ [r], count := c.count + 1, hold := if c.holdOpen then none else c.hold, holdOpen := false }
        if c.overflow || c.segMax ≤ c.count then
          some (s.modCaddy set k (fun c => { c with count := c.count + 1, overflow := true }))
        else if c.fault.isSome then some (s.modCaddy set k add)
        else
          match c.hold, c.holdOpen with
          | some { res := none, .. }, _ | some _, false => none
          | some { res := some .fail, cause := e, .. }, true | some { res := some .kill, cause := e, .. }, true =>
            some (s.modCaddy set k (fun c => { add c with fault := some e }))
          | _, _ =>
            match s.openHeader set k S.part c with
            | (true, s) =>
              match s.unitWrite S.part none c.home (caddySrc set k) (c.recAddr c.openSteep c.recs.length) (r.bytes c []) none with
              | (.ok _, s) => some (s.modCaddy set k add)
              | (.fail e x a, s) =>
                if s.blendHolds S.part x then some (s.openFails set k S.part e x a)
                else some (s.modCaddy set k (fun c => { add c with fault := some e }))
            | (false, s) =>
              some (if ((s.caddies set)[k]?.bind (·.fault)).isSome then s.modCaddy set k add else s)

/-- A team's close of the open steep (R350, R351). -/
def State.closeSteep (s : State) (set k launch tid : Nat) : State :=
  (s.modCaddy set k (fun c =>
    { c with closers := if c.closers.contains (launch, tid) then c.closers else c.closers ++ [(launch, tid)] })).tryClose
      set k

/-! ### The apply (R352 to R355) -/

/-- The record, entry and element of a position in the apply. -/
def applyAt (d : Nat) (recs : List SRec) (pos : Nat) : Option (SRec × Nat × Nat) :=
  match recs with
  | [] => none
  | r :: l =>
    let n := r.ents.length * d
    if pos < n then some (r, pos / d, pos % d) else applyAt d l (pos - n)

/-- The new value of a slot element (R352). -/
def blendElem (accum : Bool) (w x m : Nat) : Nat :=
  if accum then fma32 w x m else fma32 w (sub32 x m) m

/-- The apply of a steep ends: the number advances, and the next closed steep is to be applied (R351, R354). -/
def State.endApply (s : State) (set k : Nat) : State :=
  (s.modCaddy set k (fun c =>
    { c with steep := c.steep + 1, wrapped := c.wrapped || c.steep + 1 == 0, apply := c.later.head?,
             later := c.later.tail, hold := if c.holdOpen then c.hold else none })).endSets

/-- Writing the segment header of a steep whose apply has ended, with what it is marked with (R353). An access that fails
holds the blend unit; a header that cannot be written is not (R354). -/
def State.finishApply (s : State) (set k p : Nat) (c : Caddy) (a : Apply) (fault : Option Cause) : State :=
  let h := segHeader a.steep a.count true (fault.map causeCode) a.overflow
  match s.unitWrite p none c.home (caddySrc set k) (c.segAddr a.steep) h none with
  | (.ok _, s) => s.endApply set k
  | (.fail e res va, s) =>
    if s.blendHolds p res then
      s.modCaddy set k (fun c =>
        { c with apply := some { a with fault := fault, headerDue := true }, hold := some (blendHold e va true), holdOpen := false })
    else s.endApply set k

/-- The pre-images of each record, in canonical order. -/
def splitPre (d : Nat) (recs : List SRec) (pre : List Word) : List (SRec × List Word) :=
  match recs with
  | [] => []
  | r :: l =>
    let n := r.ents.length * d
    (r, pre.take n) :: splitPre d l (pre.drop n)

/-- Rewriting a steep's records in canonical order with their pre-images. -/
def State.rewriteTape (s : State) (p src : Nat) (c : Caddy) (steep : Word) (j : Nat)
    (l : List (SRec × List Word)) : UOut Unit × State :=
  match l with
  | [] => (.ok (), s)
  | x :: r =>
    match s.unitWrite p none c.home src (c.recAddr steep j) (x.1.bytes c x.2) none with
    | (.ok _, s) => State.rewriteTape s p src c steep (j + 1) r
    | (.fail e res a, s) => (.fail e res a, s)

/-- An access of the apply fails: it holds the blend unit, or marks the steep FAULT (R354). -/
def State.applyFails (s : State) (set k p : Nat) (c : Caddy) (a : Apply) (e : Cause) (res : Bool) (va : DWord)
    (w : Bool) : State :=
  if s.blendHolds p res then s.modCaddy set k (fun c => { c with hold := some (blendHold e va w), holdOpen := false })
  else s.finishApply set k p c a (some e)

/-- One element of an apply: its pre-image is kept, and the slot element is written. -/
def State.applyOne (s : State) (set k p : Nat) (c : Caddy) (a : Apply) (x : SRec × Nat × Nat) : State × Bool :=
  let (r, e, d) := x
  let (i, w) := (r.ents[e]?).getD (0, 0)
  let va := c.elem i d
  match s.unitRead p none c.home va 4 none with
  | (.fail z res y, s) => (s.applyFails set k p c a z res y false, false)
  | (.ok bs, s) =>
    let m := leNat bs
    let v := blendElem c.accum w.toNat ((r.x[d]?).getD 0).toNat m
    match s.unitWrite p none c.home (caddySrc set k) va (leBytes 4 v) none with
    | (.fail z res y, s) => (s.applyFails set k p c a z res y true, false)
    | (.ok _, s) =>
      (s.modCaddy set k (fun c => { c with apply := some { a with pre := a.pre ++ [BitVec.ofNat 32 m], pos := a.pos + 1 } }),
        true)

/-- Up to `n` elements of an apply, then, past the last, the tape and the header. -/
def State.applyRun (s : State) (set k p n : Nat) : State :=
  match n with
  | 0 => s
  | n + 1 =>
    match (s.caddies set)[k]? with
    | none => s
    | some c =>
      match c.apply with
      | none => s
      | some a =>
        match applyAt c.d a.recs a.pos with
        | some x =>
          match s.applyOne set k p c a x with
          | (s, true) => State.applyRun s set k p n
          | (s, false) => s
        | none =>
          match s.rewriteTape p (caddySrc set k) c a.steep 0 (splitPre c.d a.recs a.pre) with
          | (.ok _, s') => s'.finishApply set k p c a none
          | (.fail e res y, s') => s'.applyFails set k p c a e res y true

/-- Whether a walk excludes an apply of a caddy: a walk of its tape, or of a caddy whose twin it is (R355). -/
def walkedOver (cs : List Caddy) (k : Nat) : Bool :=
  cs.zipIdx.any (fun x => x.1.walker.isSome && (x.2 == k || (x.1.tv && x.1.twin == k)))

/-- Whether some lane's soft load of a caddy has read some of its elements and not all: an apply begins before the first
or after the last (10/R280). -/
def State.softPartly (s : State) (set k : Nat) : Bool :=
  s.flight.any (fun e =>
    match e.op, e.ret with
    | .softLd x y, .soft t j lane _ =>
      x == set && y == k && (match vget (s.team t).oplog j with | some z => z.parts.any (·.lane == lane) | none => false)
    | _, _ => false)

/-- A resolved hold of the open steep whose header is still to be written takes effect: it is tried again, or marks the steep
FAULT (R353, R354). -/
def State.reopen (s : State) (set k : Nat) (c : Caddy) : State :=
  match c.hold, c.holdOpen, c.opened with
  | some { res := some .retry, .. }, true, false =>
    (s.modCaddy set k (fun c => { c with hold := none, holdOpen := false })).openSegment set k
  | some { res := some _, cause := e, .. }, true, false =>
    s.modCaddy set k (fun c => { c with hold := none, holdOpen := false, fault := some e })
  | none, _, false => s.openSegment set k
  | _, _, _ => s

/-- STEEP_APPLY of a caddy, numbered 64 × its set + its index: the whole apply, or with a choice other than 0 that
many elements of it. The header of the open steep is written first, where it has not been. -/
def execSteepApply (caddy : Nat) (s : State) : Host.Outcome State Fault Refusal :=
  let set := caddy / 64
  let k := caddy % 64
  match s.caddySets[set]? with
  | none => .next s
  | some S =>
    match S.caddies[k]? with
    | none => .next s
    | some c =>
      match c.apply with
      | none => .next (s.reopen set k c)
      | some a =>
        if c.holdOpen && !c.opened then .next (s.reopen set k c)
        else if !a.begun && (walkedOver S.caddies k || s.softPartly set k) then .next s
        else
          let a := if a.begun then a else { a with begun := true, recs := sortBy (SRec.before a.oldest) a.recs }
          let s := s.modCaddy set k (fun c => { c with apply := some a })
          let n := if s.choice = 0 then (a.recs.map (fun r => r.ents.length * c.d)).sum + 1 else s.choice
          let run (s : State) : State :=
            if a.headerDue || a.overflow || a.fault.isSome then s.finishApply set k S.part c a a.fault else s.applyRun set k S.part n
          let go (s : State) : State :=
            match c.hold with
            | none => run s
            | some h =>
              match h.res with
              | none => s
              | some .retry => run (s.modCaddy set k (fun c => { c with hold := none }))
              | some _ => if a.headerDue then s.endApply set k else s.finishApply set k S.part c a (some h.cause)
          if (c.holdOpen && c.hold.isSome) || s.lineHeld go then .next s else .next (s.uncounted S.part (go s))

/-! ### steep.close, steep.wait (R356, R357) -/

def execSteepClose (k : BitVec 6) (s : State) : Host.Outcome State Fault Refusal :=
  s.runS [] (fun t T =>
    match s.caddyOf t k.toNat with
    | none => .trap s .steep 0
    | some (set, c) =>
      match s.circle t true c.circle with
      | some z =>
        if !z.members.contains T.tid then .trap s .membership 0
        else
          .done (s.enter (.s t) (some t) (s.partOf t) (dieOfCore T.core) (.home c.home) 0 0
            (.close set k.toNat T.launch T.tid) .none none)
      | none => .trap s .membership 0)

def execSteepWait (a : BitVec 6) (k : BitVec 6) (s : State) : Host.Outcome State Fault Refusal :=
  s.runS [a] (fun t T =>
    match s.caddyOf t k.toNat with
    | none => .trap s .steep 0
    | some (_, c) =>
      let x := T.rd a
      let p := s.partOf t
      let seg := c.segAddr (x - 1)
      if 2 ^ 31 ≤ (c.steep - x).toNat then .wait s
      else if !c.wrapped && (x = 0 || c.steep.toNat < x.toNat) then .done s
      else if s.walkStalls p none c.home t (dieOfCore T.core) seg 64 { r := true } || s.unitHeld p none c.home seg 64 { r := true } then
        .stall s
      else
        match s.unitRead p none c.home seg 64 (some t) with
        | (.fail e res y, s) => s.sFail t e res y false false
        | (.ok h, s) =>
          if wordAt h 0 == x - 1 && bitsOf (natAt h 8 4) 1 0 != 0 then .trap s .steep seg else .done s)

/-! ### steep.grad (R358, R359) -/

/-- The slots of the twin and the sums that a walk carries through a record. -/
structure Walk where
  s : State
  /-- the team that walks -/
  t : Nat
  dx : List Nat
  dw : List Nat

/-- A failed access of a walk: its cause, whether it is resolvable, its address, whether it writes, and the bytes that it was
to access. -/
structure WFail where
  cause : Cause
  res : Bool
  addr : DWord
  write : Bool
  va : DWord
  n : Nat

/-- One step of a walk's record: entry e, element d. -/
def Walk.step (z : Walk) (p : Nat) (c g : Caddy) (rec_ : List Byte) (e d : Nat) : Except WFail Walk :=
  let ent := 0x10 + 4 * c.d + e * (8 + 4 * c.d)
  let i := wordAt rec_ ent
  let w := natAt rec_ (ent + 4) 4
  let pre := natAt rec_ (ent + 8 + 4 * d) 4
  let x := natAt rec_ (0x10 + 4 * d) 4
  let va := g.elem i d
  match z.s.unitRead p none c.home va 4 (some z.t) with
  | (.fail a r y, _) => .error ⟨a, r, y, false, va, 4⟩
  | (.ok bs, s) =>
    let v := leNat bs
    let dx := modifyAt z.dx d (fun o => fma32 w v o)
    if c.accum then .ok { z with s := s, dx := dx, dw := modifyAt z.dw e (fun o => fma32 v x o) }
    else
      let dw := modifyAt z.dw e (fun o => fma32 v (sub32 x pre) o)
      match s.unitWrite p none c.home (walkSrc z.t) va (leBytes 4 (fma32 (neg32 w) v v)) (some z.t) with
      | (.fail a r y, _) => .error ⟨a, r, y, true, va, 4⟩
      | (.ok _, s) => .ok { z with s := s, dx := dx, dw := dw }

/-- The steps of a record, entries from the last to the first. -/
def Walk.run (z : Walk) (p : Nat) (c g : Caddy) (rec_ : List Byte) (l : List (Nat × Nat)) :
    Except WFail Walk :=
  match l with
  | [] => .ok z
  | x :: r =>
    match z.step p c g rec_ x.1 x.2 with
    | .ok z => Walk.run z p c g rec_ r
    | .error e => .error e

/-- A failed access of a walk: the team's S-stream is held or traps; the record is not walked. The access itself leaves its
translation, and the record of an uncorrectable error (15/R400, R401). -/
def State.walkFails (s : State) (t set k p : Nat) (c : Caddy) (e : WFail) : Eff :=
  let s := if e.write then (s.unitSplit p none c.home e.va e.n { w := true } (some t)).2
           else (s.unitRead p none c.home e.va e.n (some t)).2
  let s := s.modCaddy set k (fun c => { c with walker := none })
  s.sFail t e.cause e.res e.addr e.write false

/-- Walking one record of a tape: ordinal COUNT - 1 - DONE (R358). -/
def State.walkRecord (s : State) (t set k : Nat) (c g : Caddy) (steep : Word) (out : DWord) (done count : Nat) : Eff :=
  let p := s.partOf t
  let at_ := c.recAddr steep (count - 1 - done)
  match s.unitRead p none c.home at_ c.recSize (some t) with
  | (.fail e r y, _) => s.walkFails t set k p c ⟨e, r, y, false, at_, c.recSize⟩
  | (.ok rec_, s') =>
    let n := bitsOf (natAt rec_ 0x0C 4) 19 16
    let l := (List.range n).reverse.flatMap (fun e => (List.range c.d).map (fun d => (e, d)))
    match Walk.run { s := s', t := t, dx := List.replicate c.d 0, dw := List.replicate 8 0 } p c g rec_ l with
    | .error e => s.walkFails t set k p c e
    | .ok z =>
      let ro := roundUp (4 * c.d + 32) 64
      let bs := (z.dx ++ z.dw).flatMap (leBytes 4)
      let oa := out + BitVec.ofNat 64 (64 + (count - 1 - done) * ro)
      match z.s.unitWrite p none c.home (walkSrc t) oa (bs ++ zeros (ro - bs.length)) (some t) with
      | (.fail e r y, _) => s.walkFails t set k p c ⟨e, r, y, true, oa, ro⟩
      | (.ok _, s'') =>
        match s''.unitWrite p none c.home (walkSrc t) (out + 8) (leBytes 4 (done + 1)) (some t) with
        | (.fail e r y, _) => s.walkFails t set k p c ⟨e, r, y, true, out + 8, 4⟩
        | (.ok _, s'') => .wait s''

/-- `steep.grad`: the checks, then one record of the walk each time it issues (R355, R358, R359; how much of a walk one issue makes is
a DESIGN CHOICE, log entry 134). A steep outside the tape's reach faults before its segment is read (log entry 101). An issue that
would cross PCIe while the budget is spent waits (17/R445). -/
def execSteepGrad (d a : BitVec 6) (k : BitVec 6) (s : State) : Host.Outcome State Fault Refusal :=
  s.runS (d :: both a) (fun t T =>
    let held (e : Eff) : Eff := if s.heldTo (s.partOf t) e.state then .stall s else e
    held (
    let out := T.rdp a
    let steep := T.rd d
    let p := s.partOf t
    match s.caddyOf t k.toNat with
    | none => .trap s .steep 0
    | some (set, c) =>
      if !c.tv then .trap s .steep 0
      else if out.toNat % 64 != 0 then .trap s .align out
      else if !s.sReleased t 3 then .stall s
      else
        let kk := k.toNat
        let g := ((s.caddies set)[c.twin]?).getD c
        if (c.walker != some t) && (c.walker.isSome || c.apply.isSome || g.apply.isSome || walkedOver (s.caddies set) c.twin) then
          .wait s
        else
          let seg := c.segAddr steep
          let age := (c.steep - steep).toNat
          let free (s : State) : State := s.modCaddy set kk (fun c => { c with walker := none })
          if !(1 ≤ age && age < c.tdepth) then .trap (free s) .steep seg
          else
          match s.unitRead p none c.home seg 64 (some t) with
          | (.fail e r y, _) => s.walkFails t set kk p c ⟨e, r, y, false, seg, 64⟩
          | (.ok h, s) =>
            let fl := natAt h 8 4
            if wordAt h 0 != steep || bitsOf fl 31 31 = 0 || bitsOf fl 1 0 != 0 then
              .trap (free s) .steep seg
            else
              match s.unitRead p none c.home out 64 (some t) with
              | (.fail e r y, _) => s.walkFails t set kk p c ⟨e, r, y, false, out, 64⟩
              | (.ok o, s) =>
                let st := natAt o 0 4
                let same := wordAt o 4 == steep
                if st = 2 && same then .done (free s)
                else if (st = 1 && !same) || 2 < st then .trap (free s) .steep out
                else
                  let begin_ (s : State) : UOut Unit × State :=
                    if st = 0 then
                      s.unitWrite p none c.home (walkSrc t) out
                        (leBytes 4 1 ++ w32le steep ++ leBytes 4 0 ++ leBytes 4 (natAt h 4 4) ++ zeros 48) (some t)
                    else (.ok (), s)
                  let done := if st = 0 then 0 else natAt o 8 4
                  let count := if st = 0 then natAt h 4 4 else natAt o 12 4
                  match begin_ s with
                  | (.fail e r y, _) => s.walkFails t set kk p c ⟨e, r, y, true, out, 64⟩
                  | (.ok _, s) =>
                    let s := s.modCaddy set kk (fun c => { c with walker := some t })
                    if done < count then s.walkRecord t set kk c g steep out done count
                    else
                      match s.unitWrite p none c.home (walkSrc t) out (leBytes 4 2) (some t) with
                      | (.fail e r y, _) => s.walkFails t set kk p c ⟨e, r, y, true, out, 4⟩
                      | (.ok _, s) => .done (free s)))

end Sys2Proof.Machine
end

