-- ==== Sys2Proof/Machine/SoftLane.lean ====
section
/-!
DEFINITION. The soft instructions (13/R342 to R349): soft loads and their adjoint, soft stores, and
`soft.harden`. A soft load's value is formed where its entry is performed.
-/

namespace Sys2Proof.Machine

/-! ### Operands (R342, R343) -/

/-- K, and the caddy that imm24 names. -/
def softK (f : LF) : Nat := f.sub.toNat % 8 + 1
def softCaddy (f : LF) : Nat := f.imm.toNat % 64

/-- The words of a group at a lane. -/
def LCtx.group (C : LCtx) (x : Src) (n lane : Nat) : List Word := (List.range n).map (fun j => C.src (srcPlus x j) lane)

/-- The operands of a lane: the K indices, the K weights, and the D values of B (none for a soft load). -/
def LCtx.softOperands (C : LCtx) (i : Instr) (d lane : Nat) : LaneOp :=
  let (_, f) := lCode i
  let xs := match i with | .softLd _ => [] | _ => C.group f.b d lane
  { lane := lane, a := C.logged false f.a lane, b := if xs.isEmpty then 0 else C.logged false f.b lane, c := 0,
    data := C.group f.a (2 * softK f) lane ++ xs }

/-- The entries and the values of logged operands. -/
def LaneOp.softEnts (o : LaneOp) (k : Nat) : List (Word × Word) := (o.data.take k).zip ((o.data.drop k).take k)
def LaneOp.softX (o : LaneOp) (k : Nat) : List Word := o.data.drop (2 * k)

/-! ### Checks (R344) -/

/-- The checks on the instruction as a whole. -/
def State.softPre (s : State) (f : LF) (needTwin : Bool) (C : LCtx) : Option (Cause × DWord) :=
  if C.visiting then some (.notCarried, 0)
  else
    match s.caddyOf C.t (softCaddy f) with
    | none => some (.steep, 0)
    | some (_, c) => if needTwin && !c.tv then some (.steep, 0) else none

/-- The lowest entry whose index is not below SLOTS, as SOFT_INDEX. -/
def softIndexBad (c : Caddy) (ents : List (Word × Word)) : Option (Cause × DWord) :=
  (ents.find? (fun e => c.slots ≤ e.1.toNat)).map (fun e => (.softIndex, c.elem e.1 0))

/-- What the checks on a lane's reads come to: the address and the translation of each element, entry by entry. -/
inductive SWant where
  | go (els : List (DWord × Tlb))
  | no (w : Want)

/-- Translating the elements that a lane reads, in order. -/
def Chk.elems (k : Chk) (C : LCtx) (own : List Entry) (lane : Nat) (vas : List DWord) (acc : List (DWord × Tlb)) :
    SWant × Chk :=
  match vas with
  | [] => (.go acc, k)
  | va :: r =>
    match k.parts C own lane va { r := true } [] [(0, 4)] with
    | (.go ps, k) => Chk.elems k C own lane r (acc ++ ps.map (fun p => (va, p.2.2)))
    | (w, k) => (.no w, k)

/-- The elements of the entries of a lane: by entry, then by element (R346). -/
def softElems (c : Caddy) (es : List (Word × Word)) : List DWord :=
  es.flatMap (fun e => (List.range c.d).map (c.elem e.1))

/-- The checks on a lane of a soft load, then of its reads. -/
def Chk.soft (k : Chk) (C : LCtx) (own : List Entry) (c : Caddy) (kk : Nat) (o : LaneOp) : SWant × Chk :=
  match softIndexBad c (o.softEnts kk) with
  | some (e, a) => (.no (.bad e a), k)
  | none =>
    match k.elems C own o.lane (softElems c (o.softEnts kk)) [] with
    | (.go els, k) =>
      match els.findSome? (fun x => (k.s.badOf C.part x.2 x.1 4).map (fun u => (u, x))) with
      | some (u, x) =>
        let d := (k.s.part C.part).at x.2 x.1 4
        if mending own d.1 d.2 then (.no .stall, k)
        else (.no (.bad .deviceError x.1), { k with s := k.s.recordBad C u x.2 x.1 4 })
      | none => (.go els, k)
    | r => r

def Chk.softs (k : Chk) (C : LCtx) (own : List Entry) (c : Caddy) (kk : Nat) (os : List LaneOp) :
    List (LaneOp × SWant) × Chk :=
  match os with
  | [] => ([], k)
  | o :: r =>
    let (w, k) := k.soft C own c kk o
    let (ws, k) := Chk.softs k C own c kk r
    ((o, w) :: ws, k)

/-! ### Records (R345, R347, R349) -/

/-- Every execution of `soft.st` and `soft.ldg` takes the counter's value as SSEQ, or reuses that of the trapped
execution. -/
def State.takeSseq (s : State) (C : LCtx) : State × LCtx :=
  match C.blk.redoSseq with
  | some _ => (s, C)
  | none =>
      let n := (s.team C.t).softSeq
      (s.modTeam C.t (fun T => { T with softSeq := T.softSeq + 1 }), { C with blk := { C.blk with redoSseq := some n } })

/-- Sending a lane's record to the steep buffer of a caddy. -/
def State.sendRecord (s : State) (C : LCtx) (set k home : Nat) (sseq : Word) (o : LaneOp) (ents : List (Word × Word))
    (x : List Word) : State :=
  let r : SRec := { lseq := (s.launchOf C.t).lseq, tid := BitVec.ofNat 32 (s.team C.t).tid, sseq := sseq, lane := o.lane,
                    ents := ents, x := x }
  s.enter C.who (some C.t) C.part C.die (.home home) 0 0 (.record set k r) .none (some o.lane)

/-! ### soft.ld and soft.ldg (R346, R349) -/

/-- Entering the reads of a lane's elements: relaxed loads of 4 bytes, each at the home of its own page (R340, R346). -/
def State.enterElems (s : State) (C : LCtx) (set k slot lane : Nat) (els : List (DWord × Tlb)) : State :=
  els.zipIdx.foldl (fun s x =>
    s.enterGlobal C.who (some C.t) C.part C.die x.1.2 x.1.1 (.softLd set k) (.soft C.t slot lane x.2) (some lane)) s

/-- Issuing some lanes of a soft load: `none` when it waits. For `soft.ldg` each lane that passes sends its record to
the twin. -/
def State.runSoft (s : State) (C : LCtx) (i : Instr) (set : Nat) (c : Caddy) (slot : Nat) (sseq : Word)
    (os : List LaneOp) : Option Issued :=
  let (_, f) := lCode i
  let kk := softK f
  let adjoint := match i with | .softLdg _ => true | _ => false
  let own := s.teamQueue C.t C.die
  let (ws, k) := ({ s := s, last := s.lastPages C.who } : Chk).softs C own c kk os
  let stalls := ws.any (fun w => match w.2 with | .no .stall => true | _ => false)
  if stalls || !s.mayEnter C.t (s.team C.t).lOrd true adjoint then none
  else
    let s := k.s.setLastPages C.who k.last
    let enters : List (LaneOp × List (DWord × Tlb)) := ws.filterMap (fun w => match w.2 with
      | .go es => some (w.1, es)
      | _ => none)
    let s := enters.foldl (fun s e =>
      let x := e.1.softX kk
      let s := s.enterElems C set (softCaddy f) slot e.1.lane e.2
      if adjoint then s.sendRecord C set c.twin (((s.caddies set)[c.twin]?).getD c).home sseq e.1 (e.1.softEnts kk) x
      else s) s
    some { s := s, fly := Mask.ofLanes (enters.map (·.1.lane)), fin := 0, gone := 0,
           bad := ws.filterMap (fun w => match w.2 with | .no (.bad c a) => some (w.1.lane, c, a) | _ => none),
           held := ws.filterMap (fun w => match w.2 with | .no (.held c a) => some (w.1.lane, c, a) | _ => none) }

/-- `soft.ld` and `soft.ldg`. -/
def State.softLoad (s : State) (i : Instr) (C : LCtx) : LEff :=
  let (_, f) := lCode i
  match s.caddyOf C.t (softCaddy f) with
  | none => .fault s C .steep 0
  | some (set, c) =>
    let k := (s.team C.t).freeSlot
    let ops := C.lanes.map (C.softOperands i c.d)
    let sseq := C.blk.redoSseq.getD 0
    match s.runSoft C i set c (k.getD 4) sseq ops with
    | none => .stall s
    | some r =>
      if r.fly == (0 : Mask) && r.held.isEmpty then
        (if r.bad.isEmpty then .done r.s C else .trap r.s C r.bad)
      else
        match k with
        | none => .wait s
        | some k =>
          let slot : Slot :=
            { i := i, block := C.blk.lq.sMark, lpc := C.blk.lpc, chainHead := C.blk.restartAt, eff := C.eff, done := 0,
              flying := 0, faulted := 0, ops := ops, parts := [], traps := [], sseq := sseq, hold := none,
              latch := false, fmt := C.blk.fmt, rkey := C.blk.lq.rkey, migctl := C.blk.lq.migctl }
          .done (r.s.putSlot C.t k (slot.issued r (s.canHold C.t) false)) C

def execSoftLd (f : LF) (s : State) : Host.Outcome State Fault Refusal :=
  s.runLPre (.softLd f) f.ms true (s.softPre f false) (fun C => s.softLoad (.softLd f) C)

def execSoftLdg (f : LF) (s : State) : Host.Outcome State Fault Refusal :=
  s.runLAdj (.softLdg f) f.ms true State.takeSseq (s.softPre f true) (fun s C => s.softLoad (.softLdg f) C)

/-! ### soft.st (R347) -/

def execSoftSt (f : LF) (s : State) : Host.Outcome State Fault Refusal :=
  s.runLAdj (.softSt f) f.ms true State.takeSseq (s.softPre f false) (fun s C =>
    match s.caddyOf C.t (softCaddy f) with
    | none => .fault s C .steep 0
    | some (set, c) =>
      let kk := softK f
      let ops := C.lanes.map (C.softOperands (.softSt f) c.d)
      if !s.mayEnter C.t (s.team C.t).lOrd false true then .stall s
      else
        let bad : Bads := ops.filterMap (fun o => (softIndexBad c (o.softEnts kk)).map (fun b => (o.lane, b.1, b.2)))
        let s := ops.foldl (fun s o =>
          if (softIndexBad c (o.softEnts kk)).isSome then s
          else s.sendRecord C set (softCaddy f) c.home (C.blk.redoSseq.getD 0) o (o.softEnts kk) (o.softX kk)) s
        if bad.isEmpty then .done s C else .trap s C bad)

/-! ### soft.harden (R348) -/

/-- The ARGMAX choice: the entries with the greatest weight, NaNs apart; of those the lowest slot index, and then the
lowest entry. -/
def argmaxOf (es : List (Word × Word)) : Nat :=
  let key (e : Nat × Word × Word) : FV := fmtF32.decode e.2.2.toNat
  let nums := (es.zipIdx.map (fun x => (x.2, x.1))).filter (fun e => !(key e).isNan)
  match nums with
  | [] => 0
  | e :: r =>
    let better (x y : Nat × Word × Word) : Bool :=
      match cmpNum (key x) (key y) with
      | .gt => true
      | .lt => false
      | .eq => x.2.1.toNat < y.2.1.toNat
    (r.foldl (fun b x => if better x b then x else b) e).1

/-- v_e of SAMPLE, in units of 2^-149: exact. -/
def sampleWeight (w : Word) : Nat :=
  match fmtF32.decode w.toNat with
  | .fin false m e => m * 2 ^ (e + 149).toNat
  | _ => 0

/-- The lowest entry with a positive weight at which the running sum reaches a bound. -/
def sampleFrom (vs : List Nat) (bound acc j : Nat) : Nat :=
  match vs with
  | [] => 0
  | v :: r => if v != 0 && bound ≤ (acc + v) * 2 ^ 24 then j else sampleFrom r bound (acc + v) (j + 1)

/-- The SAMPLE choice. -/
def sampleOf (rkey : DWord) (caddy : Nat) (coord : DWord) (es : List (Word × Word)) : Nat :=
  let vs := es.map (fun e => sampleWeight e.2)
  match es.findIdx? (fun e => fmtF32.decode e.2.toNat == .inf false) with
  | some j => j
  | none =>
    if vs.sum = 0 then argmaxOf es
    else
      let u := bitsOf (gen rkey (genCtr (BitVec.ofNat 16 (0xC000 + caddy)) coord)).toNat 63 40
      sampleFrom vs (u * vs.sum) 0 0

/-- What `soft.harden` gives a lane: the chosen slot, and the one-hot pointer. -/
def LCtx.harden (C : LCtx) (f : LF) (lane : Nat) : Word × List Word :=
  let kk := softK f
  let ws := C.group f.a (2 * kk) lane
  let es := (ws.take kk).zip (ws.drop kk)
  let e := if 8 ≤ f.sub.toNat then sampleOf C.blk.lq.rkey (softCaddy f) (C.pair f.c lane) es else argmaxOf es
  ((ws[e]?).getD 0,
    ws.take kk ++ (List.range kk).map (fun j => if j = e then (0x3F800000 : Word) else 0))

def execSoftHarden (f : LF) (s : State) : Host.Outcome State Fault Refusal :=
  s.runLPre (.softHarden f) f.ms true (s.softPre f false) (fun C =>
    match s.caddyOf C.t (softCaddy f) with
    | none => .fault s C .steep 0
    | some (_, c) =>
      let kk := softK f
      let bads : Bads := C.lanes.filterMap (fun l =>
        let ws := C.group f.a (2 * kk) l
        (softIndexBad c ((ws.take kk).zip (ws.drop kk))).map (fun b => (l, b.1, b.2)))
      let good := C.lanes.filter (fun l => !bads.any (·.1 == l))
      let rs := good.map (fun l => (l, C.harden f l))
      let full := C.full && bads.isEmpty
      let D := C.writeDst f.d 1 full .g (rs.map (fun r => (r.1, { xs := [r.2.1] })))
      let D := match f.b with
        | .reg (.v n) => D.writeV n.toNat (2 * kk) full .g (rs.map (fun r => (r.1, { xs := r.2.2 })))
        | _ => D
      if bads.isEmpty then .done s D else .trap s D bads)

end Sys2Proof.Machine
end

