-- ==== Sys2Proof/Machine/Perform.lean ====
section
/-!
DEFINITION. The ordering machine's deliver and perform steps (10/R263 to R267, R278, R280), what a performed
access returns and to whom, and the replay of operand-log slots (03/R81, 08/R205).
-/

namespace Sys2Proof.Machine

/-! ### Deliver (R265) -/

/-- The entry at a place of the forward queues, when it is the head of its queue. -/
def State.headOf (s : State) (n : Nat) : Option Entry :=
  match s.fwd[n]? with
  | some e => if (s.fwd.take n).any (·.sameQueue e) then none else some e
  | none => none

/-- The entry leaves its forward queue. -/
def State.unqueue (s : State) (e : Entry) : State := { s with fwd := s.fwd.filter (·.id != e.id) }

/-- The entry leaves its forward queue for the queue at its destination. -/
def State.arrive (s : State) (e : Entry) (dest : Dest) : State :=
  let s := s.unqueue e
  { s with arr := s.arr ++ [{ e with dest := dest }] }

/-- The gang of a launch that a multicast names, when it is resident on the die of the team that wrote (08/R208). -/
def State.mcastTarget (s : State) (e : Entry) (l g : Nat) : Option Nat :=
  let home : Option Nat := e.team.map (fun t => dieOfCore (s.team t).core)
  (List.range s.gangs.length).find? (fun k =>
    let G := s.gang k
    G.launch == l && G.num == g && (G.phase == .resident || G.phase == .halting) &&
      home == some (dieOfCluster G.cluster))

/-- A record whose arrival holds the blend unit has not arrived. -/
def State.recordHeld (s : State) (set k : Nat) : Bool :=
  match (s.caddies set)[k]? with
  | some c => c.holdOpen && (match c.hold with | some h => h.res.isNone | none => false)
  | none => false

/-- DELIVER: the head entry at a place of the forward queues goes to its destination. Records and closes take effect
at the steep buffer as they arrive (R280). -/
def execDeliver (n : Nat) (s : State) : Host.Outcome State Fault Refusal :=
  match s.headOf n with
  | none => .next s
  | some e =>
    match e.dest, e.op with
    | .home _, .record set k r =>
      let p := ((s.caddySets[set]?).map (·.part)).getD e.part
      if s.crossHeld p (fun s => (s.arriveRecord set k r).getD s) then .next s
      else
      match s.arriveRecord set k r with
      | none => .next s
      | some s' => .next (if s'.recordHeld set k then s' else s'.unqueue e)
    | .home _, .close set k l tid => .next ((s.unqueue e).closeSteep set k l tid)
    | .mcast l g, _ =>
      match s.mcastTarget e l g with
      | some k => .next (s.arrive e (.bank k))
      | none => .next (s.unqueue e)
    | .peer port nodes, _ =>
      if (s.port port).takes ((nodes.length + 6) / 7) then
        .next ((s.arrive e e.dest).gflRequest e port nodes)
      else .next s
    | d, _ => .next (s.arrive e d)

/-! ### The operations of atomics (07/R161, R162, 08/R206) -/

/-- Round(a + b, RNE) of a format's codes. -/
def addCode (f : Fmt) (a b : Nat) : Nat := (f.round 0 false false (addFV 0 (f.decode a) (f.decode b)).1).1

/-- The new value of an atomic of `n` bytes. -/
def AOp.new (op : AOp) (n old b c : Nat) : Nat :=
  let w := 8 * n
  let m := 2 ^ w
  let b := b % m
  match op with
  | .add => (old + b) % m
  | .min => if signedOf w old ≤ signedOf w b then old else b
  | .max => if signedOf w old ≤ signedOf w b then b else old
  | .minu => Nat.min old b
  | .maxu => Nat.max old b
  | .and => Nat.land old b
  | .or => Nat.lor old b
  | .xor => Nat.xor old b
  | .xchg => b
  | .cas => if old = c % m then b else old
  | .fadd => addCode fmtF32 old b
  | .bfadd => addCode fmtBf16 (old % 65536) (b % 65536) + 65536 * addCode fmtBf16 (old / 65536) (b / 65536)

/-! ### What returns -/

/-- The block of a team with a number. -/
def Team.blockOf (T : Team) (mark : Nat) : Option Blk :=
  match T.blk, T.held with
  | some b, h => if b.lq.sMark = mark then some b else match h with
    | some h => if h.lq.sMark = mark then some h else none
    | none => none
  | none, some h => if h.lq.sMark = mark then some h else none
  | none, none => none

/-- The lane state that a pending instruction's results go to. -/
def State.retCtx (s : State) (who : Issuer) (k : Slot) : Option LCtx :=
  match who with
  | .l t =>
    let T := s.team t
    let q : LQ := { index := 0, params := Vector.replicate 16 0, rkey := 0, migctl := 0, n := T.n, sMark := k.block, low := 0 }
    let b := (T.blockOf k.block).getD (Blk.start q T.w k.fmt)
    some { who := .l t, t := t, visiting := false, part := s.partOf t, die := dieOfCore T.core, core := T.core,
           tid := T.tid, w := T.w, n := b.lq.n, regs := T.regs, wcodes := T.wcodes, blk := b, away := T.away,
           eff := k.eff, flags := 0, nfcAdd := 0, slots := T.slots }
  | .v v => ({ s with cur := .v v }).lctx
  | _ => none

/-- Whether the latch write of a pending instruction still belongs to the open chain (03/R72). -/
def Slot.latchOpen (k : Slot) (b : Blk) : Bool :=
  k.latch && b.lq.sMark == k.block && b.chainHead == k.chainHead && b.chainCount != 0 && !b.restart

/-- Putting back registers and flags, and the latch while its chain is open. -/
def State.putRet (s : State) (C : LCtx) (k : Slot) : State :=
  match C.who with
  | .l t => s.modTeam t (fun T =>
      { T with
        regs := C.regs, fpstat := T.fpstat ||| C.flags,
        blk := T.blk.map (fun b => if k.latchOpen b then { b with latch := C.blk.latch } else b) })
  | .v v => s.modVisitor v (fun V =>
      { V with cont := { V.cont with regs := C.regs, flags := V.cont.flags ||| C.flags,
                                     blk := { V.cont.blk with latch := C.blk.latch } } })
  | _ => s

/-- The slot, or the visitor's record, that awaits a return. -/
def State.pendingOf (s : State) (who : Issuer) (k : Nat) : Option Slot :=
  match who with
  | .l t => vget (s.team t).oplog k
  | .v v => (s.visitors[v]?).bind (·.fly)
  | _ => none

/-- Putting it back: a slot frees once it is over; a visitor goes on once nothing is in flight. -/
def State.putPending (s : State) (who : Issuer) (k : Nat) (x : Slot) : State :=
  match who with
  | .l t => s.putSlot t k x
  | .v v => (s.modVisitor v (fun V => { V with fly := some x })).settleVisitor v
  | _ => s

/-- A lane of a pending instruction finishes with its results, or faults (03/R54). -/
def State.finishLane (s : State) (who : Issuer) (k lane : Nat) (cnt : Nat) (out : LOut) (cursor : Option DWord) : State :=
  match s.pendingOf who k with
  | none => s
  | some x =>
    match s.retCtx who x with
    | none => s
    | some C =>
      let (_, f) := lCode x.i
      let one := Mask.one lane
      let badPrc := dstReg f.d == some .prc && !prcOk ((out.xs[0]?).getD 0)
      let bad : Option (Cause × DWord) :=
        if out.bad.isSome then out.bad
        else if badPrc then some (.reservedField, (s.descOf C.t).lbase + BitVec.ofNat 64 (12 * x.lpc.toNat)) else none
      let x := { x with flying := Mask.minus x.flying one, parts := x.parts.filter (·.lane != lane) }
      match bad with
      | some b => s.putPending who k { x with traps := x.traps ++ [(lane, b.1, b.2)] }
      | none =>
        let C := C.writeDst f.d cnt false .g [(lane, out)]
        let C := match cursor, f.a with
          | some a, .reg (.v n) =>
            C.writeV n.toNat 2 false .g [(lane, { xs := [a.extractLsb' 0 32, a.extractLsb' 32 32] })]
          | _, _ => C
        let C := { C with flags := C.flags ||| out.fl }
        ((s.putRet C x).healL C x.i one).putPending who k { x with done := x.done ||| one }

/-- The bytes of a lane's parts, in order of offset. -/
def partsOf (ps : List LanePart) (lane : Nat) : List Byte :=
  (sortBy (fun (a b : LanePart) => a.off ≤ b.off) (ps.filter (·.lane == lane))).flatMap (·.bytes)

/-- The words of a returned value. -/
def wordsOfBytes (n : Nat) (bs : List Byte) : List Word := (List.range n).map (fun k => wordAt bs (4 * k))

/-- A lane whose later part cannot be entered: it traps, is held, or is to be issued again (09/R258). -/
def State.laneFails (s : State) (who : Issuer) (k lane t : Nat) (w : Want) : State :=
  match s.pendingOf who k with
  | none => s
  | some x =>
    let x := { x with flying := Mask.minus x.flying (Mask.one lane), parts := x.parts.filter (·.lane != lane) }
    match w with
    | .held c a =>
      let x := { x with faulted := x.faulted ||| Mask.one lane }
      if s.canHold t then
        match who with
        | .v v =>
          (s.modVisitor v (fun V => { V with hold := V.hold.or (some (holdOf [(lane, c, a)] false)) })).putPending who k x
        | _ => s.putPending who k { x with hold := x.hold.or (some (holdOf [(lane, c, a)] false)) }
      else s.putPending who k { x with traps := x.traps ++ [(lane, c, a)] }
    | .bad c a => s.putPending who k { x with traps := x.traps ++ [(lane, c, a)] }
    | _ => s.putPending who k x

/-- The parts of an elastic load translated as they stand. -/
def State.eldParts (s : State) (C : LCtx) (who : Issuer) (x : Slot) (o : LaneOp) (ps : List (Nat × Nat)) : Want × Chk :=
  ({ s := s, last := s.lastPages who } : Chk).parts C (s.teamQueue C.t C.die) o.lane (o.addr x.i) { r := true } [] ps

/-- An elastic load one of whose bytes meets an uncorrectable error: the unit, and its address, translation and length. -/
def State.eldBad (s : State) (who : Issuer) (x : Slot) (o : LaneOp) (n : Nat) : Option (LCtx × Nat × DWord × Tlb × Nat) :=
  match s.retCtx who x with
  | none => none
  | some C =>
    match s.eldParts C who x o (partsFrom (o.addr x.i) 0 n) with
    | (.go ps, _) =>
      ps.findSome? (fun p =>
        (s.badOf C.part p.2.2 (partVa (o.addr x.i) p.1) p.2.1).map (fun u => (C, u, partVa (o.addr x.i) p.1, p.2.2, p.2.1)))
    | _ => none

def State.eldBroken (s : State) (who : Issuer) (x : Slot) (o : LaneOp) (n : Nat) : Bool := (s.eldBad who x o n).isSome

/-- The lane of an elastic load that meets an uncorrectable error faults (15/R399). -/
def State.eldFails (s : State) (who : Issuer) (k : Nat) (x : Slot) (o : LaneOp) (n : Nat) : State :=
  match s.eldBad who x o n with
  | some (C, u, a, t, m) => (s.recordBad C u t a m).laneFails who k o.lane C.t (.bad .deviceError a)
  | none => s

/-- Entering a later part of an elastic load, once the parts before it have told its length. -/
def State.eldPart (s : State) (who : Issuer) (k : Nat) (x : Slot) (o : LaneOp) (off n : Nat) : State :=
  match s.retCtx who x with
  | none => s
  | some C =>
    let len := min n (64 - (partVa (o.addr x.i) off).toNat % 64)
    match s.eldParts C who x o [(off, len)] with
    | (.go ps, c) =>
      let s := c.s.setLastPages who c.last
      s.enterLane { C with who := who } (eldOp x.i (lCode x.i).2) k o ps
    | (w, c) => (c.s.setLastPages who c.last).laneFails who k o.lane C.t w

/-- An elastic load after a part has returned: more parts, ELASTIC_FORMAT, or its result. The pages of all 2L bytes
translate first, of a malformed LEN too (09/R258). -/
def State.eldStep (s : State) (who : Issuer) (k : Nat) (x : Slot) (o : LaneOp) (bs : List Byte) : State :=
  let va := o.addr x.i
  if bs.length < 4 then s.eldPart who k x o bs.length (32 - bs.length)
  else
    let hs := (List.range 16).map (fun j => natAt bs (2 * j) 2)
    let l := eLen hs
    if s.eldBroken who x o (min bs.length (2 * l)) then s.eldFails who k x o (min bs.length (2 * l))
    else if bs.length < 2 * l then s.eldPart who k x o bs.length (2 * l - bs.length)
    else if l = 17 then s.finishLane who k o.lane 0 { bad := some (.elasticFormat, va) } none
    else
      match s.retCtx who x with
      | none => s
      | some C =>
        let (_, f) := lCode x.i
        let (r, fl) := eNarrow (prcMode (o.data.headD 0).toNat) (C.dstCap f.d) (hs.take l)
        let cur := match x.i with | .eldn _ => some (o.a + BitVec.ofNat 64 (2 * l)) | _ => none
        s.finishLane who k o.lane 0 { xs := C.eMerge f.d o.lane r, fl := fl } cur

/-- A part of a lane's access returns its bytes. -/
def State.partBack (s : State) (who : Issuer) (k lane off : Nat) (bs : List Byte) : State :=
  match s.pendingOf who k with
  | none => s
  | some x =>
    match x.ops.find? (·.lane == lane), memOpOf x.i with
    | some o, some m =>
      let x := { x with parts := x.parts ++ [{ lane := lane, off := off, bytes := bs }] }
      let all := partsOf x.parts lane
      let s := match who with
        | .l t => s.putSlot t k x
        | .v v => s.modVisitor v (fun V => { V with fly := some x })
        | _ => s
      if m.elastic then s.eldStep who k x o all
      else if all.length < m.n then s
      else s.finishLane who k lane (m.n / 4) { xs := wordsOfBytes (m.n / 4) all } none
    | _, _ => s

/-! ### Soft loads (13/R346, R349) -/

/-- Round(a × b + c, f32, RNE), fused, with its flags. -/
def fma32F (a b c : Nat) : Nat × Flags :=
  let (v, f) := fmaFV 0 (fmtF32.decode a) (fmtF32.decode b) (fmtF32.decode c)
  let (r, g) := fmtF32.round 0 false false v
  (r, f ||| g)

/-- An FMA chain over operands from +0. -/
def chain32 (l : List (Nat × Nat)) : Nat × Flags :=
  l.foldl (fun a x =>
    let r := fma32F x.1 x.2 a.1
    (r.1, a.2 ||| r.2)) (0, 0)

/-- What a lane's soft load gives from the weights of its entries and the elements it read, entry by entry: an element
each, or for its adjoint a weight each. -/
def softValue (d : Nat) (ws : List Word) (els : List Word) (dy : Option (List Word)) : List Word × Flags :=
  let m (e j : Nat) : Nat := ((els[e * d + j]?).getD 0).toNat
  let rs : List (Nat × Flags) := match dy with
    | none => (List.range d).map (fun j => chain32 (ws.zipIdx.map (fun x => (x.1.toNat, m x.2 j))))
    | some ys => (List.range ws.length).map (fun e =>
        chain32 ((List.range d).map (fun j => (m e j, ((ys[j]?).getD 0).toNat))))
  (rs.map (fun r => BitVec.ofNat 32 r.1), rs.foldl (fun f r => f ||| r.2) 0)

/-- An element of a lane's soft load returns; the lane finishes with the last of them. -/
def State.softBack (s : State) (t k lane j : Nat) (bs : List Byte) : State :=
  match s.pendingOf (.l t) k with
  | none => s
  | some x =>
    match x.ops.find? (·.lane == lane), s.caddyOf t (softCaddy (lCode x.i).2) with
    | some o, some (_, c) =>
      let x := { x with parts := x.parts ++ [{ lane := lane, off := 4 * j, bytes := bs }] }
      let s := s.putSlot t k x
      let n := softK (lCode x.i).2
      let all := partsOf x.parts lane
      if all.length < 4 * n * c.d then s
      else
        let (xs, fl) := softValue c.d ((o.softEnts n).map (·.2)) (wordsOfBytes (n * c.d) all)
          (match x.i with | .softLdg _ => some (o.softX n) | _ => none)
        s.finishLane (.l t) k lane xs.length { xs := xs, fl := fl } none
    | _, _ => s

/-- An access returns its value (R264). -/
def State.returns (s : State) (e : Entry) (bs : List Byte) : State :=
  match e.ret with
  | .none => s
  | .sreg t d wide =>
    let T := s.team t
    if T.pend.any (·.1 == e.id) then
      let r := BitVec.ofNat 6 d
      let x := BitVec.ofNat 64 (leNat bs)
      let T := if wide then T.wrp r x else T.wr r (x.setWidth 32)
      s.setTeam t { T with pend := T.pend.filter (·.1 != e.id) }
    else s
  | .slot t k lane off => s.partBack (.l t) k lane off bs
  | .soft t k lane j => s.softBack t k lane j bs
  | .visitor v lane off => s.partBack (.v v) 0 lane off bs
  | .gfl port tag node => s.respond port node.toNat tag none

/-! ### Perform (R267) -/

/-- The bytes that an entry moves: a part of an elastic load those of the value whose length word 0 gives, once it has
returned (09/R258). -/
def State.moves (s : State) (e : Entry) : Nat :=
  let n := e.op.len
  let part (who : Issuer) (k lane off : Nat) : Nat :=
    match s.pendingOf who k with
    | some x =>
      (match memOpOf x.i with
       | some m =>
         let bs := partsOf x.parts lane ++ s.readAt e.part e.dest e.addr n
         if m.elastic && 4 ≤ bs.length then min n (2 * eLen ((List.range 2).map (fun j => natAt bs (2 * j) 2)) - off) else n
       | none => n)
    | none => n
  match e.ret with
  | .slot t k lane off => part (.l t) k lane off
  | .visitor v lane off => part (.v v) 0 lane off
  | _ => n

/-- Carrying out an entry at its place. -/
def State.perform (s : State) (e : Entry) : State :=
  let n := e.op.len
  let s := s.pcie e.part e.dest (s.moves e)
  match e.op with
  | .load _ | .softLd _ _ => s.returns e (s.readAt e.part e.dest e.addr n)
  | .store bs | .mcast bs => (s.writeAt e.dest e.addr bs).returns e []
  | .atom op _ b c =>
    let old := s.readAt e.part e.dest e.addr n
    let new := op.new n (leNat old) b.toNat c.toNat
    (s.writeAt e.dest e.addr (leBytes n new)).returns e old
  | _ => s

/-- PERFORM: the entry at a place of the arrived entries is carried out, once what must come before it has been. A
request to peers is performed by their answers. -/
def execPerform (n : Nat) (s : State) : Host.Outcome State Fault Refusal :=
  match s.arr[n]? with
  | none => .next s
  | some e =>
    let waits := match e.dest with | .peer _ nodes => !nodes.isEmpty | _ => false
    if waits || !s.mayPerform n e || s.hostSpent e || !s.linkTurn e then .next s
    else .next (({ s with arr := s.arr.filter (·.id != e.id) }).perform e)

/-! ### OPERAND_LOG_REPLAY (03/R81, 15/R395) -/

/-- The lanes of a slot that have not finished and are not in flight. -/
def Slot.todo (k : Slot) : Mask := Mask.minus (Mask.minus k.eff k.done) k.flying

/-- The trap of a slot names it: the slot keeps its lanes that have not finished, and `tresume` replays them from it (03/R54,
R79, R81). -/
def State.trapSlot (s : State) (t j : Nat) (k : Slot) (bad : Bads) : State :=
  let (c, a) := lowestBad bad
  (s.putSlot t j { k with traps := [], hold := none, faulted := k.todo }).raiseL t
    { cause := c, taddr := a, tlpc := k.lpc, lanes := Mask.minus k.eff k.done, slot := some (BitVec.ofNat 3 j),
      redoFrom := none, sseq := none, visitor := none }

/-- Issuing again the lanes of a slot that have not finished, from its logged operands. -/
def State.replay (s : State) (t j : Nat) (k : Slot) : State :=
  match s.retCtx (.l t) k with
  | none => s
  | some C =>
    let lanes := k.todo
    let C := { C with eff := lanes }
    let ops := k.ops.filter (fun o => lanes.getLsbD o.lane)
    let k := { k with faulted := 0, hold := none }
    let holds := s.canHold t
    match memOpOf k.i with
    | some m =>
      let x : Issue := { C := C, m := m, migctl := k.migctl, lpc := k.lpc, restart := k.chainHead, ops := ops }
      match x.run s j with
      | none => s
      | some r => (r.s.acquireL C m s.nextId).putSlot t j (k.issued r holds (!m.load))
    | none =>
      match s.caddyOf t (softCaddy (lCode k.i).2) with
      | none => s
      | some (set, c) =>
        match s.runSoft C k.i set c j k.sseq ops with
        | none => s
        | some r => r.s.putSlot t j (k.issued r holds false)

/-- Whether the block of a slot, running or held, still stands, so that lanes of the slot may leave it. -/
def Team.mayLeave (T : Team) (k : Slot) : Bool := (T.blockOf k.block).isSome

def execOperandLogReplay (team slot : Nat) (s : State) : Host.Outcome State Fault Refusal :=
  let T := s.team team
  match if slot < 4 then vget T.oplog slot else none with
  | none => .next s
  | some k =>
    let bad : Bads := match k.hold with
      | some h => (match h.res with | some .fail | some .kill => [(0, h.cause, h.addr)] | _ => [])
      | none => []
    if !s.onCore team || k.flying != 0 || T.trapDue then .next s
    else if !k.traps.isEmpty then .next (s.trapSlot team slot k k.traps)
    else if !bad.isEmpty then .next (s.trapSlot team slot k bad)
    else
      let again := match k.hold with
        | some h => h.res == some .retry
        | none => k.faulted == 0
      let moving := match k.i with | .vld _ | .vst _ | .vatom _ | .eld _ | .eldn _ | .est _ => true | _ => false
      if again && (!moving || k.migctl.getLsbD 5 || T.mayLeave k) then .next (s.replay team slot k) else .next s

end Sys2Proof.Machine
end

