-- ==== Sys2Proof/Machine/Migrate.lean ====
section
/-!
DEFINITION. Starting blocks (02/R32 to R34), and the way of continuations: delivery to an inbox, the start of a
visitor, and the merging of a return into its home team (10/R281, 14/R367, R371, R372).
-/

namespace Sys2Proof.Machine

/-! ### BLOCK_START -/

/-- The team with a block about to start on its registers: those added since the `lrun` before it read as 0; the ones of
their numbers that a held block uses are put by (02/R50). -/
def Team.freshRegs (T : Team) (q : LQ) : Team :=
  { T with
    regs := { T.regs with v := T.regs.v.take q.low ++ List.replicate (T.regs.v.length - q.low) (.u 0) },
    held := T.held.map (fun b =>
      if b.stash.isEmpty && q.low < b.lq.n then { b with stash := (T.regs.v.take b.lq.n).drop q.low } else b) }

/-- The next queued block starts once the previous one has ended: every lane but those away is active, the stack and
the staged set are empty, and FMT is what the team last left. -/
def execBlockStart (team : Nat) (s : State) : Host.Outcome State Fault Refusal :=
  let T := s.team team
  match T.blk, T.laneQ with
  | none, q :: r =>
    if s.onCore team && !T.trapDue then
      .next (s.setTeam team { T.freshRegs q with blk := some (Blk.start q T.w T.fmt), laneQ := r })
    else .next s
  | _, _ => .next s

/-! ### Channels and inboxes -/

/-- The head of a channel at a place of the channels (10/R281). -/
def State.channelHead (s : State) (n : Nat) : Option Cont :=
  match s.channel[n]? with
  | some c => if (s.channel.take n).any (fun x => x.src == c.src && x.dst == c.dst) then none else some c
  | none => none

/-- Whether what a departure or return releases has been performed at die scope (10/R273). -/
def State.contReady (s : State) (c : Cont) : Bool :=
  s.settled c.team 2 (s.flight.filter (fun e => c.waits.contains e.id))

/-- Whether a continuation at the head of its channel may move now: an outbound one into its reserved entry of the inbox, or a free
one (14/R378, R380), and a return once its release has taken place. -/
def State.mayMove (s : State) (c : Cont) : Bool :=
  if c.kind = 0 then c.reserved || decide ((s.die c.dst).inbox.length + (s.die c.dst).reserved < 64) else s.contReady c

/-- Whether the arbiter of the channels serves a continuation now, among those of several partitions that may move: by floors first,
then by age (17/R447; log entry 118). -/
def State.channelTurn (s : State) (n : Nat) (c : Cont) : Bool :=
  let first (m : Nat) (x : Cont) : Bool :=
    if s.belowFloor x.part 3 == s.belowFloor c.part 3 then decide (m < n) else s.belowFloor x.part 3
  (List.range s.channel.length).all (fun m =>
    match s.channelHead m with
    | some x => x.part == c.part || !s.mayMove x || !first m x
    | none => true)

/-- CONTINUATION_DELIVER: an outbound continuation at the head of its channel reaches the inbox. One that holds no
reserved entry waits for a free one (14/R378, R380). -/
def execContinuationDeliver (n : Nat) (s : State) : Host.Outcome State Fault Refusal :=
  match s.channelHead n with
  | none => .next s
  | some c =>
    if c.kind != 0 || !s.mayMove c || !s.channelTurn n c then .next s
    else
      .next ({ s with channel := removeAt s.channel n }.modDie c.dst (fun D =>
        { D with inbox := D.inbox ++ [c], reserved := if c.reserved then D.reserved - 1 else D.reserved }))

/-! ### VISITOR_START (14/R367) -/

/-- Register rows that a visitor needs: one for each carried register, for `prc` and for each window cell. -/
def Cont.rows (c : Cont) : Nat :=
  (stagedList c.blk.staged).length + 1 + (if c.blk.ew then windowCells c.wcodes else 0)

/-- Whether a visitor has not yet entered the accesses of its triggering instruction (10/R281). -/
def Visitor.untriggered (V : Visitor) : Bool :=
  !V.cont.blk.redo.isEmpty && (V.fly.isNone || V.hold.isSome)

/-- Whether a continuation of an inbox may start: it is its team's oldest there, the team's visitors on the die have
entered their triggering accesses, and the departure's release has taken place. -/
def State.mayStart (s : State) (die : Nat) (before : List Cont) (c : Cont) : Bool :=
  !before.any (·.team == c.team) && s.contReady c &&
    !s.visitors.any (fun v => v.alive && v.cont.team == c.team && dieOfCore v.core == die && v.untriggered)

/-- VISITOR_START: a continuation of a die's inbox (the schedule chooses which of those that may) starts on a core of
the die with a free slot and rows. -/
def execVisitorStart (die core : Nat) (s : State) : Host.Outcome State Fault Refusal :=
  let inbox := (s.die die).inbox
  match inbox[s.choice]? with
  | none => .next s
  | some c =>
    if dieOfCore core = die && s.works core && s.mayStart die (inbox.take s.choice) c && 0 < s.freeSlots core &&
        c.rows ≤ s.freeRows core && (s.gangOf c.team).phase == .resident && (s.part c.part).state == .ready then
      let v : Visitor := { cont := { c with held := none }, alive := true, halted := false, core := core, rows := c.rows,
                           ord := [], hold := c.held, last := [], fly := none }
      .next ({ s with visitors := s.visitors ++ [v] }.modDie die (fun D => { D with inbox := removeAt D.inbox s.choice }))
    else .next s

/-! ### RETURN_MERGE (14/R372) -/

/-- Writing carried registers into a team's, each as by an instruction whose effective mask is the carried lanes
(03/R67). -/
def mergeRegs (w : Nat) (lanes : Mask) (from_ : List VReg) (ns : List Nat) (v : List VReg) : List VReg :=
  let full := lanes == Mask.full w
  ns.foldl (fun v n =>
    match from_[n]? with
    | some x =>
      let vals := (Mask.lanes lanes w).map (fun l => (l, x.at l))
      modifyAt v n (fun old => old.write w full x.shape vals)
    | none => v) v

/-- The registers of a team with those that a continuation carries. -/
def Team.merged (T : Team) (c : Cont) : Regs :=
  let cells := windowCells c.wcodes
  let n := c.regs.v.length
  let ns := stagedList c.blk.staged ++ (if c.blk.ew then (List.range cells).map (· + (n - cells)) else [])
  let vals := (Mask.lanes c.lanes T.w).map (fun l => (l, c.regs.prc.at l))
  { v := mergeRegs T.w c.lanes c.regs.v ns T.regs.v,
    prc := T.regs.prc.write T.w (c.lanes == Mask.full T.w) c.regs.prc.shape vals,
    m := Vector.ofFn (fun k : Fin 8 => Mask.minus T.regs.m[k] c.lanes ||| (c.regs.m[k] &&& c.lanes)) }

/-- The mask registers in which the carried bits differ from the home's (08/R222). -/
def Team.disagrees (T : Team) (c : Cont) : List Nat :=
  (List.range 8).filter (fun k => ((vget T.regs.m k) ^^^ (vget c.regs.m k)) &&& c.lanes != 0)

/-- A team with a returned continuation merged. Its lanes stay away until they rejoin. -/
def Team.takeBack (T : Team) (c : Cont) : Team :=
  { T with
    regs := T.merged c, fpstat := T.fpstat ||| c.flags, nfc := satAdd T.nfc c.nfcAdd.toNat,
    returned := T.returned ++
      [{ block := c.blk.lq.sMark, kind := c.kind, lpc := c.blk.lpc, tidx := c.tidx, lanes := c.lanes, redo := c.redo,
         cause := c.cause, taddr := c.taddr, die := c.src, hops := c.hops,
         disagree := if c.kind = 3 then T.disagrees c else [], staged := c.blk.staged, ew := c.blk.ew }] }

/-- RETURN_MERGE: a returning continuation at the head of its channel is merged into its home team. -/
def execReturnMerge (n : Nat) (s : State) : Host.Outcome State Fault Refusal :=
  match s.channelHead n with
  | none => .next s
  | some c =>
    if c.kind = 0 || !s.mayMove c || !s.channelTurn n c then .next s
    else .next ({ s with channel := removeAt s.channel n }.modTeam c.team (·.takeBack c))

end Sys2Proof.Machine
end

