-- ==== Sys2Proof/Machine/Preempt.lean ====
section
/-!
DEFINITION. The completion of sweeps (15/R390, 16/R421), the writing of a context image (15/R405, R407), and the
release of a quarantined allocation (11/R308).
-/

namespace Sys2Proof.Machine

/-! ### SWEEP_COMPLETE -/

/-- Whether a sweep covers a cached translation. -/
def Sweep.covers (w : Sweep) (p : Nat) (t : Tlb) : Bool :=
  t.part == p && (w.va == 0 || (t.vbase ≤ w.va.toNat && w.va.toNat < t.vbase + t.size))

/-- Whether an access in flight may have used a translation that a sweep covers: a page lies within the 1 GiB of its
address, the largest size. A soft load reads at many addresses. -/
def Sweep.reaches (w : Sweep) (p : Nat) (e : Entry) : Bool :=
  e.part == p &&
    (match e.dest with | .home _ | .host | .peer _ _ => true | _ => false) &&
    (w.va == 0 || e.va.toNat / 2 ^ 30 == w.va.toNat / 2 ^ 30 || (match e.op with | .softLd .. => true | _ => false))

/-- Removing what a sweep covers from every cache of a partition; what has been walked or loaded ahead in the partition is
given up. -/
def State.removeSwept (s : State) (p : Nat) (w : Sweep) : State :=
  let keep (t : Tlb) : Bool := !w.covers p t
  { s with
    cores := s.cores.map (fun (c : CoreSt) => { c with l1 := c.l1.filter keep }),
    dies := s.dies.map (fun (d : Die) => { d with l2 := d.l2.filter keep }),
    teams := s.teams.zipIdx.map (fun (x : Team × Nat) =>
      { x.1 with lastPage := x.1.lastPage.filter (fun y => keep y.2),
                 early := if s.partOf x.2 == p then [] else x.1.early }),
    visitors := s.visitors.map (fun (v : Visitor) => { v with last := v.last.filter (fun x => keep x.2) }),
    walks := s.walks.filter (·.part != p) }

/-- SWEEP_COMPLETE: once the stores that its team entered before it have been performed, so that no walk behind it meets an entry
that they change, the translations that the sweep covers go; and the sweep completes once every access entered with one of them
has been performed (R421). -/
def execSweepComplete (part n : Nat) (s : State) : Host.Outcome State Fault Refusal :=
  match (s.part part).sweeps[n]? with
  | none => .next s
  | some w =>
    if !w.removed then
      if w.waits.any s.isOut then .next s
      else
      let s := s.removeSwept part w
      let ids := (s.flight.filter (w.reaches part)).map (·.id)
      .next (s.modPart part (fun P =>
        { P with sweeps := modifyAt P.sweeps n (fun w => { w with removed := true, waits := ids }) }))
    else if w.waits.any s.isOut then .next s
    else .next (s.modPart part (fun P => { P with sweeps := removeAt P.sweeps n }))

/-! ### CONTEXT_IMAGE_WRITE -/

/-- Writing bytes to a virtual area of a partition, line by line; a line whose page does not translate is not
written. -/
def State.writeLines (s : State) (p : Nat) (die : Nat) (va : DWord) (n : Nat) (bs : List Byte) : State :=
  match n with
  | 0 => s
  | k + 1 =>
    if bs.isEmpty then s
    else State.writeLines (s.unitWrite p none die 0 va (bs.take 64) none).2 p die (va + 64) k (bs.drop 64)

/-- A record of a gang's chains that a resolvable fault holds while the gang halts: channel, chain, record. -/
def State.heldRec (s : State) (g : Nat) : Option (Nat × Chain × Nat × KRec) :=
  ((s.chainsOf g).flatMap (fun k =>
    k.2.recs.zipIdx.filterMap (fun x => if x.1.live && x.1.hold.isSome then some (k.1, k.2, x.2, x.1) else none))).head?

/-- Records that have failed are given up with a control doubleword that a fault holds. -/
def State.giveFates (s : State) (g : Nat) : State :=
  let give (x : KRec) : KRec := if x.fate.isSome && x.hold.isSome then { x with fate := none, hold := none } else x
  s.modCluster (s.gang g).cluster (fun c =>
    { c with channels := c.channels.map (fun (l : List Chain) => l.map (fun (k : Chain) =>
        if k.gang == g then { k with recs := k.recs.map give } else k)) })

/-- A job of the gang with a formed write that a fault holds. -/
def State.heldJob (s : State) (g : Nat) : Option Job :=
  (s.cluster (s.gang g).cluster).jobs.find? (fun j => j.gang == g && j.hold.isSome && !j.wbuf.isEmpty)

/-- A job of a halting gang that ends at once: it has failed, or all its passes are done and performed. -/
def State.jobEnds (s : State) (g : Nat) (j : Job) : Bool :=
  j.gang == g && (s.cluster (s.gang g).cluster).holder == some g && (j.failed || (j.begun && j.passes ≤ j.done && j.wbuf.isEmpty))

/-- Whether the streams of a halting gang have come to rest: every access entered by the gang, or delivered to its banks, has been
performed at device scope, and its returns are merged. -/
def State.streamsRest (s : State) (g : Nat) : Bool :=
  s.flight.all (fun e =>
    !((match e.team with | some t => s.inGang g t && e.counts 3 | none => false) || e.dest == .bank g)) &&
    s.channel.all (fun c => !(s.inGang g c.team && c.kind != 0))

/-- Whether everything that an image waits for has happened: the streams rest, no record of the gang is in flight, and its jobs have
performed what their passes have formed. -/
def State.imageReady (s : State) (g : Nat) : Bool :=
  s.streamsRest g && (s.chainsOf g).all (fun k => k.2.recs.all (fun r => !r.going)) &&
    (s.cluster (s.gang g).cluster).jobs.all (fun j => j.gang != g || (j.wbuf.isEmpty && !s.jobEnds g j))

/-- The size that a halting gang's image will have: chains that end, and jobs that end or fail, are no part of it. -/
def State.lastSize (s : State) (g : Nat) : Nat :=
  let holds := (s.cluster (s.gang g).cluster).holder == some g
  let jobOver (j : Job) : Bool := s.jobEnds g j ||
    (holds && j.gang == g && !j.wbuf.isEmpty && (j.hold.isSome || (j.begun && j.passes ≤ j.done)))
  let chainOver (k : Chain) : Bool := k.gang == g && (k.fetched || k.failed || k.recs.any (·.hold.isSome))
  (s.modCluster (s.gang g).cluster (fun c =>
    { c with jobs := c.jobs.filter (fun j => !jobOver j),
             channels := c.channels.map (fun (l : List Chain) => l.filter (fun k => !chainOver k)) })).imageSize g

/-- The gang as its image leaves it: chains and jobs stand with it until it is resumed, and its continuations. -/
def State.savedGang (s : State) (g : Nat) (G : Gang) : Gang :=
  let c := s.cluster G.cluster
  let held := c.holder == some g
  { G with
    phase := .saved,
    chains := (s.chainsOf g).map (fun x => (x.1, { x.2 with started := false, stopped := false, recs := [] })),
    jobs := c.jobs.filter (·.gang == g), engine := if held then some (c.acc, c.bstore) else G.engine,
    roam := G.teams.flatMap s.roamOf }

/-- Freeing what a saved gang held: slots and rows, the engine state, inbox entries, and its allocation, which enters
quarantine. -/
def State.freeGang (s : State) (g : Nat) : State :=
  let G := s.gang g
  let saved := s.savedGang g G
  let s := (s.dropRoaming g).quarantine g
  let s := s.modCluster G.cluster (fun c =>
    let held := c.holder == some g
    { c with
      jobs := c.jobs.filter (·.gang != g), holder := if held then none else c.holder,
      acc := if held then [] else c.acc, bstore := if held then [] else c.bstore,
      channels := c.channels.map (fun (l : List Chain) => l.filter (·.gang != g)) })
  let s := { s with teams := s.teams.map (fun (T : Team) => if T.gang == g then { T with resident := false } else T) }
  s.modGang g (fun _ => saved)

/-- The team that waits for an image goes on (15/R391). -/
def Team.imageDone (T : Team) (g : Nat) : Team :=
  if T.wait == Wait.ctx g then { T with wait := .ctxDone }
  else if T.savedWait == Wait.ctx g then { T with savedWait := .ctxDone } else T

/-- STATUS and NEED go to the request block of `ctxsave`, whose team goes on, or of the host's SAVE (18/R452). The write is one of a
context save, and counts against no budget (17/R446). -/
def State.answerSave (s : State) (g : Nat) (loc : ImageLoc) (status need : Nat) : State :=
  s.uncounted (s.gang g).part <|
  match loc.waiter with
  | none =>
    if !loc.software then s
    else
      let p := (s.gang g).part
      (s.unitWrite p none (s.part p).dieFirst 0 (loc.request + 0x14) (leBytes 4 status ++ leBytes 4 need) none).2
  | some w =>
    let T := s.team w
    (s.unitWrite (s.partOf w) (some T.core) (dieOfCore T.core) (walkSrc w) (loc.request + 0x14)
      (leBytes 4 status ++ leBytes 4 need) (some w)).2.modTeam w (·.imageDone g)

/-- A halted gang whose image does not fit its place runs on (15/R391, R402): its streams and visitors issue again, and its
chains fetch again. A KILL that came meanwhile takes effect (15/R396). -/
def State.unhalt (s : State) (g : Nat) : State :=
  let s := { s with
    visitors := s.visitors.map (fun (v : Visitor) => if s.inGang g v.cont.team then { v with halted := false } else v) }
  let s := s.modCluster (s.gang g).cluster (fun c =>
    { c with channels := c.channels.map (fun (l : List Chain) => l.map (fun (k : Chain) =>
        if k.gang == g then { k with stopped := false } else k)) })
  let s := s.modGang g (fun G => { G with phase := .resident, image := none })
  if (s.gang g).killed then s.removeGang g else s

/-- The image of a gang is written, what the gang held is freed, and who waits for the image goes on. A gang that the
distributor halted is to be resumed. -/
def State.writeImage (s : State) (g : Nat) (loc : ImageLoc) (bs : List Byte) : State :=
  let G := s.gang g
  let parts := s.parts
  let s := { s.writeLines G.part (dieOfCluster G.cluster) loc.addr (bs.length / 64 + 1) bs with parts := parts }
  let s := (s.freeGang g).answerSave g loc 0 bs.length
  let s := s.modGang g (fun G => { G with image := some { loc with waiter := none } })
  if loc.reason = 0 && !loc.software then s.requeue g else s

/-- CONTEXT_IMAGE_WRITE: once the streams rest it is found whether the image fits its place. One that does not leaves the gang to
run on, or, after a trap without a handler, removes it (15/R391, R397, R402; log entry 109). Of one that fits, what a fault holds
of the gang's records and jobs fails, and once the image may be written it is. -/
def execContextImageWrite (gang : Nat) (s : State) : Host.Outcome State Fault Refusal :=
  let G := s.gang gang
  match G.phase, G.image with
  | .halting, some loc =>
    if !s.streamsRest gang then .next s
    else if loc.room < s.lastSize gang then
      (if loc.reason = 2 then .next (s.removeGang gang)
       else .next ((s.unhalt gang).answerSave gang loc 2 (s.lastSize gang)))
    else
      let s := s.giveFates gang
      match s.heldRec gang, s.heldJob gang with
      | some (ch, k, r, x), _ =>
        let cause := match x.hold with | some h => h.cause | none => .page
        .next (s.failRec G.cluster ch k r x cause)
      | none, some j => .next (s.failJob G.cluster j ((j.hold.map (·.cause)).getD .page) j.heldRec)
      | none, none =>
        let write (s : State) : State :=
          s.writeImage gang loc (s.imageBytes gang (if loc.software then 1 else 0) loc.reason)
        if !s.imageReady gang || s.lineHeld write then .next s else .next (write s)
  | _, _ => .next s

/-! ### QUARANTINE_RELEASE -/

/-- QUARANTINE_RELEASE: once every chain of the gang has ended, and every access already accepted for it has been
performed, the last pass of a removed gang's job among them, the allocation is cleared and may be granted. -/
def execQuarantineRelease (cluster n : Nat) (s : State) : Host.Outcome State Fault Refusal :=
  match (s.cluster cluster).quarantine[n]? with
  | none => .next s
  | some (g, _) =>
    if (s.cluster cluster).channels.toList.any (fun l => l.any (·.gang == g)) ||
        ((s.gang g).phase == .removed && (s.cluster cluster).jobs.any (·.gang == g)) || s.arr.any (fun e => e.dest == .bank g) then .next s
    else
      let s := s.modCluster cluster (fun c => { c with quarantine := removeAt c.quarantine n })
      let G := s.gang g
      .next (if G.phase == .retired || G.phase == .removed then s.modGang g (fun G => { G with spad := [] }) else s)

end Sys2Proof.Machine
end

