-- ==== Sys2Proof/Machine/Deal.lean ====
section
/-!
DEFINITION. The distributor's deal (17/R433, R441 to R443): reports of the dies, the choice of a launch, the placing of
new gangs and of resumed ones (15/R406), and pre-emption for a launch of higher priority.
-/

namespace Sys2Proof.Machine

/-! ### DIE_REPORT -/

/-- What a die reports: free slots and rows of its cores, free units of its clusters. -/
def State.report (s : State) (die : Nat) : State :=
  { s with
    cores := Vector.ofFn (fun c : Fin 288 =>
      let k := s.cores[c]
      if dieOfCore c.val = die then { k with freeSlots := s.freeSlots c.val, freeRows := s.freeRows c.val } else k),
    clusters := Vector.ofFn (fun c : Fin 72 =>
      let k := s.clusters[c]
      if dieOfCluster c.val = die then { k with freeUnits := s.freeUnits c.val } else k) }

/-- DIE_REPORT. -/
def execDieReport (die : Nat) (s : State) : Host.Outcome State Fault Refusal := .next (s.report die)

/-! ### What is free at a placement -/

/-- Free slots, rows and units as the distributor may use them: what the reports have freed, and no more than is
free, since no placement names a resource that is not (R433). -/
def State.slotsAt (s : State) (c : Nat) : Nat := min (s.core c).freeSlots (s.freeSlots c)
def State.rowsAt (s : State) (c : Nat) : Nat := min (s.core c).freeRows (s.freeRows c)
def State.unitsAt (s : State) (c : Nat) : Nat := min (s.cluster c).freeUnits (s.freeUnits c)

/-- Teams on the busiest core of a gang: t of R442. -/
def Desc.perCore (d : Desc) : Nat := (d.gsize + d.span - 1) / d.span

/-- Whether a core has room for the teams of a gang with a count N. -/
def State.coreFits (s : State) (d : Desc) (n c : Nat) : Bool :=
  d.perCore ≤ s.slotsAt c && d.perCore * rowsFor n d.w ≤ s.rowsAt c

/-- The list A of R442. -/
def State.coresFor (s : State) (d : Desc) (n clu : Nat) : List Nat :=
  (coresOfCluster clu).filter (fun c => s.works c && s.coreFits d n c)

/-! ### The launch's next gang -/

/-- Whether a launch has gangs to place, resumed or never placed. -/
def Launch.hasWork (L : Launch) : Bool :=
  (L.phase == .ready || L.phase == .dealt) && (!L.resumed.isEmpty || L.nextGang < L.desc.gangs)

/-- The image of a saved gang as it stands in memory, when it is read whole and keeps the limits of R392. -/
def State.imageOf (s : State) (g : Nat) : Option (List Byte) :=
  let G := s.gang g
  let L := s.launch G.launch
  let die := (s.part G.part).dieFirst
  match G.image with
  | none => none
  | some loc =>
    match (s.unitRead G.part none die loc.addr 256 none).1 with
    | .fail .. => none
    | .ok hdr =>
      if !headerOk hdr || wordAt hdr 0x10 != L.lseq || natAt hdr 0x14 4 != G.num then none
      else
        match (s.unitRead G.part none die loc.addr (natAt hdr 8 4) none).1 with
        | .fail .. => none
        | .ok img => if bytesAt img 0x80 128 == L.desc.raw && imageOk L.desc img then some img else none

/-- The largest saved N of a gang's teams (R442). -/
def State.savedN (s : State) (g : Nat) : Nat :=
  let G := s.gang g
  let ns := match s.imageOf g with
    | some img => (imageParts (s.launch G.launch).desc img).teams.map (fun r => natAt r 8 4)
    | none => G.teams.map (fun t => (s.team t).imageRegs.length)
  ns.foldl max 0

/-- N of the launch's next gang. -/
def State.nextN (s : State) (l : Nat) : Nat :=
  match (s.launch l).resumed with
  | g :: _ => s.savedN g
  | [] => (s.launch l).desc.n0

/-! ### Placing -/

/-- The core of a rank (R40). -/
def coreOfRank (cores : List Nat) (r : Nat) : Nat := (cores[r % cores.length]?).getD 0

/-- The distributor reserves what a gang takes (R433). -/
def State.reserve (s : State) (clu : Nat) (cores : List Nat) (d : Desc) (n : Nat) : State :=
  let s := (List.range d.gsize).foldl (fun s r =>
    s.modCore (coreOfRank cores r) (fun c =>
      { c with freeSlots := c.freeSlots - 1, freeRows := c.freeRows - rowsFor n d.w })) s
  s.modCluster clu (fun c => { c with freeUnits := c.freeUnits - d.spad })

/-- The home die of a caddy's slot array, as its BASE translates; the partition's first die when it does not. -/
def State.caddyHome (s : State) (p : Nat) (base : DWord) : Nat :=
  match (s.walk p base).1 with
  | .ok t => if populated (t.pa base) then homeOf (t.pa base) else (s.part p).dieFirst
  | .fail .. => (s.part p).dieFirst

/-- The steep state of a launch's caddies is created when the first gang of a launch that names the table is placed
(13/R341). -/
def State.createSet (s : State) (l : Nat) : State :=
  match (s.launch l).caddySet with
  | none => s
  | some k =>
    let own := (s.launch l).desc.caddies
    let fresh := (List.range own).filter (fun j =>
      match (s.caddies k)[j]? with | some c => !c.made | none => false)
    let make (S : CaddySet) (c : Caddy) : Caddy :=
      { c with made := true, home := s.caddyHome S.part c.base, steep := 0, wrapped := false, closers := [], recs := [], count := 0,
               overflow := false, fault := none, oldest := s.oldestLseq S, opened := false, apply := none, later := [],
               walker := none, hold := none, holdOpen := false }
    let s := s.modSet k (fun S =>
      { S with created := true, caddies := S.caddies.zipIdx.map (fun c => if fresh.contains c.2 then make S c.1 else c.1) })
    fresh.foldl (fun s j => s.openSegment k j) s

/-- Placing the next gang that was never placed: its teams start (02/R40, R44, R49). -/
def State.placeNew (s : State) (l clu : Nat) (cores : List Nat) : State :=
  let L := s.launch l
  let d := L.desc
  let g := s.gangs.length
  let num := L.nextGang
  let ranks := List.range d.gsize
  let all : Circle := { members := ranks, arrived := [], phase := 0 }
  let G : Gang :=
    { Gang.blank with
      part := L.part, launch := l, num := num, phase := .resident, cluster := clu, cores := cores,
      teams := ranks.map (s.teams.length + ·), circles := all :: List.replicate 15 .empty }
  let ts := ranks.map (fun r => Team.start l g (num * d.gsize + r) r (coreOfRank cores r) d)
  let s := s.createSet l
  ({ s with gangs := s.gangs ++ [G], teams := s.teams ++ ts }.modLaunch l (fun L =>
    { L with nextGang := L.nextGang + 1 })).reserve clu cores d d.n0

/-- A saved team on its new core. -/
def Team.replaced (T : Team) (cores : List Nat) : Team :=
  { T with resident := true, core := coreOfRank cores T.rank, lastPage := [],
           rows := if T.phase == .ended then 0 else rowsFor T.regs.v.length T.w }

/-- A gang that was saved after a trap without a handler goes on as its entry's RETRY says (15/R397). -/
def State.afterRetry (s : State) (g : Nat) : State :=
  match (s.gang g).unhandled with
  | some (t, h) =>
    if h.res == some Resol.retry then
      let v := (s.team t).vtrap
      let s := s.modTeam t (fun T => { T.retried with vtrap := none })
      match v with
      | some r => s.resend t r
      | none => s
    else s
  | none => s

/-- The jobs that a gang brings back, with the records that only their commands name. -/
def State.rejoinJobs (s : State) (clu : Nat) (js : List Job) : State :=
  js.foldl (fun s j => s.readJobRecs clu j.arrived j.unread) (s.modCluster clu (fun c => { c with jobs := c.jobs ++ js }))

/-- Restoring what a saved gang held on a cluster: chains, jobs, and its continuations, each sent again to the die on
which it stood (15/R406, 11/R309, 12/R313, 14/R380), which counts against no budget (17/R446). The jobs and chains return
whatever the reservation table and the channels hold (log entry 110). -/
def State.restore (s : State) (g clu : Nat) : State :=
  let G := s.gang g
  let s := G.chains.foldl (fun s x => s.modChan clu x.1 (fun l => l ++ [x.2])) s
  let s := s.uncounted G.part (s.rejoinJobs clu G.jobs)
  s.uncounted G.part (G.roam.foldl (fun s c =>
    s.sendCont { c with src := dieOfCore (s.team c.team).core, reserved := false }) s)

/-- Placing a gang that is to be resumed. An image that cannot be loaded leaves the values as they were saved. A KILL that
was kept for the gang takes effect now (15/R396). -/
def State.placeSaved (s : State) (l g clu : Nat) (cores : List Nat) : State :=
  let n := s.savedN g
  let s := match s.imageOf g with
    | some img => s.loadImage g img
    | none => s
  let s := { s with teams := s.teams.map (fun (T : Team) => if T.gang == g then T.replaced cores else T) }
  let s := (s.restore g clu).afterRetry g
  let s := match (s.gang g).image with
    | some loc =>
      if loc.software then { (s.unitWrite (s.gang g).part none (dieOfCluster clu) 0 (loc.addr + 7) [1] none).2 with parts := s.parts }
      else s
    | none => s
  let s := s.modGang g (fun G =>
    { G with phase := .resident, cluster := clu, cores := cores, image := none, unhandled := none, chains := [],
             jobs := [], roam := [] })
  let s := (s.modLaunch l (fun L => { L with resumed := L.resumed.drop 1 })).reserve clu cores (s.launch l).desc n
  if (s.gang g).killed then s.removeGang g else s

/-- Placing the launch's next gang. -/
def State.placeNext (s : State) (l clu : Nat) (cores : List Nat) : State :=
  match (s.launch l).resumed with
  | g :: _ => s.placeSaved l g clu cores
  | [] => s.placeNew l clu cores

/-! ### A round (R442) -/

/-- Up to `k` gangs on the cores of a list: the state, and how many were placed. A gang whose own N finds no room on its
cores ends the cluster's visit. -/
def State.dealIn (s : State) (l clu : Nat) (avail : List Nat) (k : Nat) : State × Nat :=
  match k with
  | 0 => (s, 0)
  | j + 1 =>
    let L := s.launch l
    let d := L.desc
    let cores := avail.take d.span
    if L.hasWork && cores.length == d.span && cores.all (s.coreFits d (s.nextN l)) then
      let r := State.dealIn (s.placeNext l clu cores) l clu (avail.drop d.span) j
      (r.1, r.2 + 1)
    else (s, 0)

/-- How many gangs of a launch a cluster takes at its visit: k of R442. -/
def State.roomFor (s : State) (l clu : Nat) : Nat :=
  let d := (s.launch l).desc
  let k := (s.coresFor d (s.nextN l) clu).length / d.span
  if d.spad = 0 then k else min k (s.unitsAt clu / d.spad)

/-- The visits of a round, in ascending order of the clusters. -/
def State.dealOver (s : State) (l : Nat) (clus : List Nat) : State × Nat :=
  clus.foldl (fun a clu =>
    let s := a.1
    let r := s.dealIn l clu (s.coresFor (s.launch l).desc (s.nextN l) clu) (s.roomFor l clu)
    (r.1, a.2 + r.2)) (s, 0)

/-- The launch that the distributor deals: of the highest PRIO, and there the first accepted (R437). -/
def State.chosen (s : State) (p : Nat) : Option Nat :=
  (List.range s.launches.length).foldl (fun best l =>
    let L := s.launch l
    if L.part == p && L.hasWork then
      match best with
      | some b => if (s.launch b).desc.prio < L.desc.prio then some l else best
      | none => some l
    else best) none

/-! ### Pre-emption for a launch (R443) -/

/-- Whether the launch's next gang would fit on a cluster without some gangs. What stands in quarantine is not free (R433). -/
def State.fitsWithout (s : State) (l clu : Nat) (out : List Nat) : Bool :=
  let d := (s.launch l).desc
  let gone (t : Nat) : Bool := out.contains (s.team t).gang
  let stays (c : Nat) : Nat × Nat :=
    let ts := (s.coreTeams c).filter (fun T => !out.contains T.gang)
    let vs := (s.coreVisitors c).filter (fun v => !gone v.cont.team)
    (ts.length + vs.length, (ts.map (·.rows)).sum + (vs.map (·.rows)).sum)
  let fit := (coresOfCluster clu).filter (fun c =>
    s.works c && (stays c).1 + d.perCore ≤ 16 && (stays c).2 + d.perCore * rowsFor (s.nextN l) d.w ≤ 8192)
  let held := ((List.range s.gangs.length).filter (fun g =>
    !out.contains g && (s.gang g).cluster == clu &&
      ((s.gang g).phase == .resident || (s.gang g).phase == .halting))).map (fun g => (s.launch (s.gang g).launch).desc.spad)
  d.span ≤ fit.length && held.sum + ((s.cluster clu).quarantine.map (·.2)).sum + d.spad ≤ 1024

/-- The gangs of a cluster that may be pre-empted for a launch, in the order of R443. -/
def State.victims (s : State) (l clu : Nat) : List Nat :=
  let prio (g : Nat) : Nat := (s.launch (s.gang g).launch).desc.prio
  let le (a b : Nat) : Bool :=
    let A := s.gang a
    let B := s.gang b
    prio a < prio b || (prio a == prio b && (B.launch < A.launch || (B.launch == A.launch && B.num ≤ A.num)))
  sortBy le ((List.range s.gangs.length).filter (fun g =>
    let G := s.gang g
    G.cluster == clu && G.phase == .resident && prio g < (s.launch l).desc.prio &&
      s.imageSize g ≤ (s.part G.part).slotSize))

/-- The gangs to pre-empt on a cluster so that the launch's next gang fits: the fewest in order. What gangs that halt
already will free counts as free. -/
def State.toPreempt (s : State) (l clu : Nat) : Option (List Nat) :=
  let p := (s.launch l).part
  let going := (List.range s.gangs.length).filter (fun g => (s.gang g).cluster == clu && (s.gang g).phase == .halting)
  let vs := s.victims l clu
  let free := if (s.freeSaveSlot p).isNone then 0
    else bitsOf (s.part p).saveCtl.toNat 31 20 - (s.usedSlots p).length
  ((List.range (min vs.length free + 1)).find? (fun j => s.fitsWithout l clu (going ++ vs.take j))).map vs.take

/-- Pre-empting gangs one at a time into free slots of the save pool. -/
def State.preemptAll (s : State) (gs : List Nat) : State :=
  gs.foldl (fun s g =>
    match s.freeSaveSlot (s.gang g).part with
    | some (k, a) => s.halt g { addr := a, software := false, reason := 0, waiter := none, slot := some k,
                                room := (s.part (s.gang g).part).slotSize, request := 0 }
    | none => s) s

/-- The lowest-numbered cluster on which pre-emption makes room, if any. -/
def State.preemptFor (s : State) (l : Nat) : State :=
  match (s.clustersOf (s.launch l).part).findSome? (s.toPreempt l) with
  | some gs => s.preemptAll gs
  | none => s

/-- DEAL_ROUND: a round of the chosen launch, and pre-emption when it places no gang. -/
def execDealRound (part : Nat) (s : State) : Host.Outcome State Fault Refusal :=
  if (s.part part).state != .ready then .next s
  else
    match s.chosen part with
    | none => .next s
    | some l =>
      let r := s.dealOver l (s.clustersOf part)
      if r.2 = 0 then .next (r.1.preemptFor l)
      else
        .next (r.1.modLaunch l (fun L =>
          if L.phase == .ready && L.resumed.isEmpty && L.nextGang == L.desc.gangs then { L with phase := .dealt } else L))

end Sys2Proof.Machine
end

