-- ==== Sys2Proof/Machine/Distrib.lean ====
section
/-!
DEFINITION. The distributor's queues and events: host submissions (17/R434, 18/R458), dependence events (17/R438),
completion records (18/R458), and the budget period (17/R445).
-/

namespace Sys2Proof.Machine

/-! ### Rings in host memory (18/R457) -/

/-- Whether a submission ring holds an entry that may be read: it is enabled, not empty, and its tail is valid (R458). -/
def Ring.published (r : Ring) : Bool :=
  r.on && r.tail != r.head && (r.tail - r.head).toNat ≤ 2 ^ r.log

/-- The next queue in rotation with an entry (R434). -/
def Part.nextQueue (P : Part) : Option Nat :=
  ((List.range 64).map (fun k => (P.rotation + k) % 64)).find? (fun q => (vget P.rings q).published)

/-! ### LAUNCH_ACCEPT -/

/-- A submission entry whose descriptor is malformed completes with status MALFORMED (R434). -/
def State.rejectEntry (s : State) (p q : Nat) (bs : List Byte) : State :=
  s.modPart p (fun P =>
    { P with compWait := P.compWait ++
        [{ lseq := 0xFFFFFFFF, tag := (Desc.ofBytes bs).tag, status := 1, queue := q, done := none, launch := none,
           time := s.time }] })

/-- Taking a descriptor that a host queue holds. -/
def State.submit (s : State) (p q : Nat) (bs : List Byte) : State :=
  let d := Desc.ofBytes bs
  if descMalformed bs then s.rejectEntry p q bs
  else
    match s.readCaddies p d none with
    | (none, s) => s.rejectEntry p q bs
    | (some cs, s) => s.accept p d cs q false

/-- Whether the reads of an entry's caddy table and tapes wait, at the link or for a line (17/R445). -/
def State.tablesHeld (s : State) (p : Nat) (bs : List Byte) : Bool :=
  !descMalformed bs && s.crossHeld p (fun s => (s.readCaddies p (Desc.ofBytes bs) none).2)

/-- An entry that has been read is submitted, once its tables may be read. -/
def State.submitRead (s : State) (p q : Nat) (bs : List Byte) : State :=
  if s.tablesHeld p bs then s.modPart p (fun P => { P with taking := some (q, bs) })
  else (s.modPart p (fun P => { P with taking := none })).submit p q bs

/-- The distributor takes the oldest entry of a queue: it crosses PCIe, and so may the caddy table and the tapes. -/
def State.takeEntry (s : State) (p q : Nat) : State :=
  let r := vget (s.part p).rings q
  let bs := s.hostMem.readN (r.slot 128 r.head) 128
  let s := (s.charge p 4 128).modPart p (fun P =>
    { P with rotation := (q + 1) % 64, rings := vmod P.rings q (fun r => { r with head := r.head + 1 }) })
  s.submitRead p q bs

/-- P, at 0x08 of most module commands (18/R452). -/
def argPart (b : List Byte) : Nat := natAt b 8 4

/-- Whether a PDESTROY of the partition has begun (18/R454): it accepts nothing more. -/
def State.destroying (s : State) (p : Nat) : Bool :=
  match s.cmd with
  | some (_, b) => s.cmdBegun && natAt b 0 4 == 2 && argPart b == p
  | none => false

/-- LAUNCH_ACCEPT: the next queue in rotation gives its oldest entry, once EVBASE has been written. An entry that has been read, and
whose tables waited, comes first. -/
def execLaunchAccept (part : Nat) (s : State) : Host.Outcome State Fault Refusal :=
  let P := s.part part
  if P.state != .ready || P.evbase.isNone || s.destroying part then .next s
  else
    match P.taking, P.nextQueue with
    | some (q, bs), _ => .next (s.submitRead part q bs)
    | none, some q => if s.linkShut part then .next s else .next (s.takeEntry part q)
    | none, none => .next s

/-! ### Dependence events (R437, R438) -/

/-- The byte of the event bitmap that holds an event, as the distributor keeps it. -/
def eventByte (events : List Nat) (n : Nat) : Byte :=
  BitVec.ofNat 8 (((List.range 8).filter (fun k => events.contains (n / 8 * 8 + k))).map (2 ^ ·)).sum

/-- Writing the byte of the bitmap that holds an event. -/
def State.writeEvent (s : State) (p n : Nat) : State :=
  let P := s.part p
  match P.evbase with
  | none => s
  | some b =>
    let a := b.toNat + n / 8
    s.writeAt (.home (homeOf a)) a [eventByte P.events n]

/-- Waiting launches whose dependences are met become ready, and leave the device launch queue (R436, R437). -/
def State.wake (s : State) (p : Nat) : State :=
  let P := s.part p
  { s with launches := s.launches.map (fun (L : Launch) =>
      if L.part == p && L.phase == .waiting && P.depsMet L.desc then { L with phase := .ready, entry := false } else L) }

/-- Signalling an event. Before EVBASE is written there are no events. -/
def State.signal (s : State) (p n : Nat) : State :=
  let P := s.part p
  if P.evbase.isNone || P.events.contains n then s
  else
    let s := s.modPart p (fun P => { P with events := insertBy (fun a b => a ≤ b) n P.events })
    (s.writeEvent p n).wake p

/-- Clearing an event. -/
def State.clearEvent (s : State) (p n : Nat) : State :=
  if !(s.part p).events.contains n then s
  else (s.modPart p (fun P => { P with events := P.events.filter (· != n) })).writeEvent p n

/-! ### COMPLETION_RECORD -/

/-- The 32 bytes of a completion record at a count of records written (R458). -/
def Completion.bytes (c : Completion) (r : Ring) : List Byte :=
  let ph := if r.tail.toNat / 2 ^ r.log % 2 = 0 then 1 else 0
  w32le c.lseq ++ w32le c.tag ++ leBytes 4 (ph * 2 ^ 31 + c.status * 2 ^ 16 + c.queue * 2 ^ 8) ++ zeros 4 ++
    w64le c.time ++ zeros 8

/-- Whether every write of a launch has been performed at system scope, which its completion record releases (R439,
10/R273, R282): its teams' accesses, its gangs' chains and jobs, and the applies of steeps that hold records of it. -/
def State.writesDone (s : State) (l : Nat) : Bool :=
  let mine (t : Nat) : Bool := (s.team t).launch == l
  let lseq := (s.launch l).lseq
  -- an entry of a team, of a job of a team, or of a caddy that the launch shares
  let owns (e : Entry) : Bool :=
    match e.owner, e.team with
    | _, some t => mine t
    | .unit _ (some t), _ => mine t
    | .unit src none, _ => (match (s.launch l).caddySet with | some k => src % 2 = 1 && src / 2 / 64 = k | none => false)
    | _, _ => false
  s.flight.all (fun e => !(owns e && e.counts 4)) &&
    s.clusters.toList.all (fun c => c.channels.toList.all (fun ch => ch.all (fun k => !mine k.team)) &&
      c.jobs.all (fun j => j.members.all (fun m => !mine m.team))) &&
    (match (s.launch l).caddySet with
     | some k => (s.caddies k).all (fun c =>
        (c.apply.toList ++ c.later).all (fun a => !a.recs.any (·.lseq == lseq)))
     | none => true)

/-- Writing the oldest completion that waits: the record, the tail, vector 4p, then DONE. -/
def State.record (s : State) (p : Nat) (c : Completion) : State :=
  let r := (s.part p).comp
  let s := { s with hostMem := s.hostMem.writeN (r.slot 32 r.tail) (c.bytes r) }
  let s := (s.modPart p (fun P =>
    { P with comp := { P.comp with tail := P.comp.tail + 1 }, compWait := P.compWait.drop 1 })).irq (4 * p)
  match c.done with
  | some n => s.signal p n.toNat
  | none => s

/-- COMPLETION_RECORD: the oldest completion is written when the ring has room. -/
def execCompletionRecord (part : Nat) (s : State) : Host.Outcome State Fault Refusal :=
  let P := s.part part
  match P.compWait with
  | [] => .next s
  | c :: _ =>
    if P.state == .absent || !P.comp.on || P.comp.full || s.linkShut part ||
        (match c.launch with | some l => !s.writesDone l | none => false) then .next s
    else .next ((s.charge part 4 32).record part c)

/-! ### Budget periods -/

/-- A budget at the start of a period: the counter is 0, and floor and ceiling take what was written (R445, R447). -/
def Budget.renew (b : Budget) : Budget := { b with used := 0, floor := b.nextFloor, ceil := b.nextCeil }

/-- A partition at the start of a period. A budget whose effective ceiling is 0 is spent at once. -/
def Part.renew (P : Part) : Part :=
  if P.state == .absent then P
  else
    let bs := P.budgets.map Budget.renew
    { P with budgets := bs,
             ever := P.ever ||| BitVec.ofNat 6 (((List.range 6).filter (fun k => (vget bs k).spent)).map (2 ^ ·)).sum }

end Sys2Proof.Machine
end

