-- ==== Sys2Proof/Machine/Privileged.lean ====
section
/-!
DEFINITION. Privileged registers (15/R385 to R387), and the instructions `sysr`, `sysw`, `eret`, `tinval`,
`tsync`, `ctxsave`, `ctxload`, `fqpop` and `svc` (15/R385 to R393).
-/

namespace Sys2Proof.Machine

/-! ### Privileged registers -/

/-- The value of a privileged register; `none` for an unlisted number. -/
def Part.readPriv (P : Part) (n : Nat) : Option DWord :=
  match n with
  | 0x010 => some P.fq.base
  | 0x011 => some (P.fq.ctl.setWidth 64)
  | 0x012 => some (P.fq.tail.setWidth 64)
  | 0x013 => some (P.fq.head.setWidth 64)
  | 0x018 => some P.el.base
  | 0x019 => some (P.el.ctl.setWidth 64)
  | 0x01A => some (P.el.tail.setWidth 64)
  | 0x01B => some (P.el.head.setWidth 64)
  | 0x020 => some P.saveBase
  | 0x021 => some (P.saveCtl.setWidth 64)
  | 0x028 => some P.ptroot
  | _ => none

/-- A ring lies wholly in HBM4E of the partition, or wholly within one grant (R387). -/
def Part.ringPlaced (P : Part) (base n : Nat) (hostOnly : Bool) : Bool :=
  (!hostOnly && P.inHbm base n) || (hostBase ≤ base && base + n ≤ hostEnd && (P.grantOf (base - hostBase) n).isSome)

/-- Writing the base of a ring (R385): ILLEGAL while it is enabled; the alignment goes by its LOG2N. -/
def Ring.writeBase (r : Ring) (x : DWord) : Except Cause Ring :=
  if r.on then .error .illegal
  else if x.toNat % (64 * 2 ^ r.log) != 0 then .error .reservedField
  else .ok { r with base := x }

/-- Writing the control register of a ring (R385 to R387). Bits that are reserved: `rsv`. A ring that is
enabled starts with TAIL and HEAD at 0. -/
def Part.writeRingCtl (P : Part) (r : Ring) (x : Word) (rsv : Nat) (hostOnly : Bool) : Except Cause Ring :=
  let n := bitsOf x.toNat 4 0
  let en := x.getLsbD 31
  if r.on && ((rsv / 2 ^ 30 % 2 = 0 && x.getLsbD 30 != r.ctl.getLsbD 30) || n != r.log) then .error .illegal
  else if x.toNat &&& rsv != 0 then .error .reservedField
  else if en && (n < 4 || 16 < n || r.base.toNat % (64 * 2 ^ n) != 0 ||
      !P.ringPlaced r.base.toNat (64 * 2 ^ n) hostOnly) then .error .reservedField
  else if en && !r.on then .ok { r with ctl := x, tail := 0, head := 0 }
  else .ok { r with ctl := x }

/-- Writing a privileged register: the fault of R385, or the partition's registers as the write leaves
them. -/
def Part.writePriv (P : Part) (n : Nat) (x : DWord) : Except Cause Part :=
  let w : Word := x.setWidth 32
  match n with
  | 0x010 => (P.fq.writeBase x).map (fun r => { P with fq := r })
  | 0x011 => (P.writeRingCtl P.fq w 0x3FFFFFE0 (!w.getLsbD 30)).map (fun r =>
    { P with fq := r, fqGen := if r.on && !P.fq.on then P.fqGen + 1 else P.fqGen })
  | 0x013 => .ok { P with fq := { P.fq with head := w } }
  | 0x018 => (P.el.writeBase x).map (fun r => { P with el := r })
  | 0x019 => (P.writeRingCtl P.el w 0x7FFFFFE0 false).map (fun r => { P with el := r })
  | 0x01B => .ok { P with el := { P.el with head := w } }
  | 0x020 => if x.toNat % 65536 != 0 then .error .reservedField else .ok { P with saveBase := x }
  | 0x021 => if bitsOf w.toNat 19 12 != 0 then .error .reservedField else .ok { P with saveCtl := w }
  | 0x028 =>
    if bitsOf x.toNat 63 52 != 0 || bitsOf x.toNat 15 1 != 0 then .error .reservedField
    else .ok { P with ptroot := x }
  | _ => .error .illegal

/-- `sysr`. -/
def execSysr (d : BitVec 6) (r : BitVec 12) (s : State) : Host.Outcome State Fault Refusal :=
  s.runPriv (if privWide r then both d else [d]) (fun t T =>
    match (s.part (s.partOf t)).readPriv r.toNat with
    | none => .trap s .illegal T.spc
    | some x =>
      if privWide r && !evenReg d then .trap s .illegal T.spc
      else .done (s.setTeam t (if privWide r then T.wrp d x else T.wr d (x.setWidth 32))))

/-- `sysw`: performed after every earlier S access of the team has been performed at system scope. -/
def execSysw (a : BitVec 6) (r : BitVec 12) (s : State) : Host.Outcome State Fault Refusal :=
  s.runPriv (if privWide r then both a else [a]) (fun t T =>
    let p := s.partOf t
    if privWide r && !evenReg a then .trap s .illegal T.spc
    else
      match (s.part p).writePriv r.toNat (if privWide r then T.rdp a else (T.rd a).setWidth 64) with
      | .error c => .trap s c T.spc
      | .ok P => if !s.sReleased t 4 then .stall s else .done (s.modPart p (fun _ => P)))

/-! ### Fault-queue entries -/

/-- `fqpop` (R388). -/
def execFqpop (d : BitVec 6) (s : State) : Host.Outcome State Fault Refusal :=
  s.runPriv (both d) (fun t T =>
    let p := s.partOf t
    let P := s.part p
    if T.fqHeld.isSome then .trap s .illegal T.spc
    else if P.fq.on && P.fq.ctl.getLsbD 30 && P.fq.tail != P.fq.head then
      let a : DWord := BitVec.ofNat 64 (P.fq.slot 64 P.fq.head)
      let s := s.setTeam t { T.wrp d a with fqHeld := some (a, P.fq.head), fqGen := P.fqGen }
      .done (s.modPart p (fun P => { P with fq := { P.fq with head := P.fq.head + 1 } }))
    else .done (s.setTeam t (T.wrp d 0)))

/-- `eret` (R389): it reads RESOL of the entry that the team holds, applies the resolution and releases the
entry. -/
def execEret (s : State) : Host.Outcome State Fault Refusal :=
  s.runPriv [] (fun t T =>
    match T.fqHeld with
    | none => .trap s .illegal T.spc
    | some (a, seq) =>
      let p := s.partOf t
      let o := (s.part p).openOf seq (some T.fqGen)
      if !s.sReleased t 4 then .stall s
      else if s.crossHeld p (fun s => s.resolveAt p a.toNat o) then .stall s
      else .done ((s.setTeam t { T with fqHeld := none }).resolveAt p a.toNat o))

/-! ### Sweeps (R390) -/

/-- `tinval` starts a sweep, which comes behind the stores that the team has entered before it (log entry 30). -/
def execTinval (a : BitVec 6) (s : State) : Host.Outcome State Fault Refusal :=
  s.runPriv (both a) (fun t T =>
    let before := (s.sEarlier t).filter (fun e => !e.op.isLoad)
    .done (s.modPart (s.partOf t) (fun P =>
      { P with sweeps := P.sweeps ++ [{ team := some t, va := T.rdp a, removed := false, waits := before.map (·.id) }] })))

/-- `tsync` blocks until every sweep that the team started before it has completed. -/
def execTsync (s : State) : Host.Outcome State Fault Refusal :=
  s.runPriv [] (fun t _ =>
    if (s.part (s.partOf t)).sweeps.any (fun w => w.team == some t) then .wait s else .done s)

/-! ### ctxsave and ctxload (R391, R392) -/

/-- Whether a store of the team to bytes that an instruction itself reads is in flight: that read comes after
it (10/R266). -/
def State.sPending (s : State) (t : Nat) (va : DWord) (n : Nat) : Bool :=
  (s.sEarlier t).any (fun e => !e.op.isLoad &&
    overlaps (e.va.toNat / 64 * 64) 64 (va.toNat / 64 * 64) (roundUp (va.toNat % 64 + n) 64))

/-- The live launch of a partition with an LSEQ. -/
def State.launchBySeq (s : State) (p : Nat) (lseq : Word) : Option Nat :=
  (List.range s.launches.length).find? (fun l =>
    (s.launch l).part == p && (s.launch l).lseq == lseq && (s.launch l).phase != .complete)

/-- A gang of a launch by its number, in a phase that a test accepts. -/
def State.gangBy (s : State) (l num : Nat) (ok : GPhase → Bool) : Option Nat :=
  (List.range s.gangs.length).find? (fun g =>
    (s.gang g).launch == l && (s.gang g).num == num && ok (s.gang g).phase)

/-- A request block (R391): the gang that it names when it is resident, the area, its size, and whether its
reserved fields are zero and AREA is aligned. -/
structure SaveReq where
  gang : Option Nat
  area : DWord
  size : Nat
  ok : Bool

def State.saveReq (s : State) (p : Nat) (bs : List Byte) : SaveReq :=
  { gang := (s.launchBySeq p (wordAt bs 0)).bind (fun l => s.gangBy l (natAt bs 4 4) (· == .resident)),
    area := dwordAt bs 8, size := natAt bs 16 4,
    ok := allZero (bytesAt bs 0x1C 0x24) && natAt bs 8 8 % 64 = 0 }

/-- STATUS of a request that is answered at once: no such gang is resident, or it is the issuing team's own. NEED is 0 when
no such gang is resident (log entry 109). -/
def State.saveStatus (s : State) (q : SaveReq) (own : Option Nat) : Option (Nat × Nat) :=
  match q.gang with
  | none => some (1, 0)
  | some g => if own == some g then some (3, s.imageSize g) else none

/-- `ctxsave`. The gang halts; NEED is the size that its image then has, and STATUS says whether the area holds it (log
entry 109). -/
def execCtxsave (a : BitVec 6) (s : State) : Host.Outcome State Fault Refusal :=
  s.runPriv (both a) (fun t T =>
    let va := T.rdp a
    let p := s.partOf t
    let die := dieOfCore T.core
    let put (s : State) (st need : Nat) : UOut Unit × State :=
      s.unitWrite p (some T.core) die (walkSrc t) (va + 0x14) (leBytes 4 st ++ leBytes 4 need) (some t)
    match T.wait with
    | .ctxDone => .done s
    | .ctx _ => .wait s
    | _ =>
      if va.toNat % 64 != 0 then .trap s .align va
      else if s.sPending t va 64 || s.walkStalls p (some T.core) die t die va 64 { r := true } ||
          s.unitHeld p (some T.core) die va 64 { r := true } then .wait s
      else
        match s.unitRead p (some T.core) die va 64 (some t) with
        | (.fail c _ _, s') => .trap s' c va
        | (.ok bs, s') =>
          let q := s'.saveReq p bs
          if !q.ok then .trap s' .reservedField T.spc
          else
            match put s' 0 0, s'.saveStatus q (some T.gang), q.gang with
            | (.fail c _ _, s''), _, _ => .trap s'' c va
            | (.ok _, _), some (st, need), _ => .done (put s' st need).2
            | (.ok _, _), none, some g =>
              .wait ((s'.halt g { addr := q.area, software := true, reason := 1, waiter := some t, slot := none,
                                  room := q.size, request := va }).modTeam t (fun T => { T with wait := .ctx g }))
            | (.ok _, _), none, none => .done s')

/-- What the checks of `ctxload` come to: the gang, or the cause and TADDR of the fault. The limits of the header and of the
registers come first, RESERVED_FIELD having the lower code (05/R466); the image's own copy of the descriptor lays out one
whose launch is not live. A gang that has retired or been removed may be loaded; one that was never placed is no gang yet, and
faults QUEUE (DESIGN CHOICE: R392 does not speak of it; log entry 128). -/
def State.loadCheck (s : State) (p : Nat) (va : DWord) (img : List Byte) : Except (Cause × DWord) Nat :=
  let live := s.launchBySeq p (wordAt img 0x10)
  let d := match live with | some l => (s.launch l).desc | none => Desc.ofBytes (bytesAt img 0x80 128)
  if !headerOk img || (live.isSome && bytesAt img 0x80 128 != d.raw) || !imageOk d img then .error (.reservedField, va)
  else
    match live with
    | none => .error (.queue, 0)
    | some l =>
      let num := natAt img 0x14 4
      match s.gangBy l num (fun h => h == .resident || h == .halting || h == .saved) with
      | some g =>
        if (s.gang g).phase != .saved || (s.launch l).resumed.contains g ||
            (match (s.gang g).image with | some i => !i.software | none => true) then .error (.queue, 0)
        else .ok g
      | none =>
        match s.gangBy l num (fun h => h == .retired || h == .removed) with
        | some g => .ok g
        | none => .error (.queue, 0)

/-- The gang that an image resumes: the saved one, or, where it has retired or been removed, one made anew. -/
def State.toLoad (s : State) (g : Nat) (img : List Byte) : Nat × State :=
  if (s.gang g).phase == .saved then (g, s) else s.anew g img

/-- `ctxload`: the gang is queued for placement, and its image is read when it is placed. -/
def execCtxload (a : BitVec 6) (s : State) : Host.Outcome State Fault Refusal :=
  s.runPriv (both a) (fun t T =>
    let va := T.rdp a
    let p := s.partOf t
    let die := dieOfCore T.core
    if va.toNat % 64 != 0 then .trap s .align va
    else if s.sPending t va 256 || s.walkStalls p (some T.core) die t die va 256 { r := true } ||
        s.unitHeld p (some T.core) die va 256 { r := true } then .stall s
    else
      match s.unitRead p (some T.core) die va 256 (some t) with
      | (.fail c _ x, s') => .trap s' c x
      | (.ok hdr, s') =>
        match s'.unitRead p (some T.core) die va (if headerOk hdr then natAt hdr 8 4 else 256) (some t) with
        | (.fail c _ x, s'') => .trap s'' c x
        | (.ok img, s'') =>
          match s''.loadCheck p va img with
          | .error (c, x) => .trap s'' c x
          | .ok old =>
            let (g, s) := s''.toLoad old img
            .done ((s.modGang g (fun G =>
              { G with image := some { addr := va, software := true, reason := 1, waiter := none,
                                       slot := none, room := natAt hdr 8 4, request := 0 } })).requeue g))

/-! ### svc (R393) -/

/-- `svc`: it waits for its entry to be posted and resolved. -/
def execSvc (imm : BitVec 20) (s : State) : Host.Outcome State Fault Refusal :=
  s.runS [4, 5, 6, 7] (fun t T =>
    match T.wait with
    | .svcDone .retry x => .done (s.setTeam t (T.wrp 4 x))
    | .svcDone _ _ => .trap s .user (imm.setWidth 64)
    | .svc _ _ => .wait s
    | _ =>
      if !(s.part (s.partOf t)).fqOn then .trap s .illegal T.spc
      else if !s.sReleased t 4 then .wait s
      else .wait (s.setTeam t { T with wait := .svc imm none }))

end Sys2Proof.Machine
end

