-- ==== Sys2Proof/Machine/HostRegs.lean ====
section
/-!
DEFINITION. What the host writes to the partition register windows and the module page, its read of MSTATUS, and the start of a
budget period (17/R440, R445, R447; 18/R449, R457). A write that breaks a rule is ignored.
-/

namespace Sys2Proof.Machine

/-! ### Windows -/

/-- A host write to a window: that of an absent partition ignores it (R457). -/
def State.hostWrite (s : State) (p : Nat) (f : State → State) : State :=
  if p < 8 && (s.part p).state != .absent then f s else s

/-- A write of a privileged register under the rules of 15/R385; where `sysw` would fault it is ignored. -/
def State.hostPriv (s : State) (p n : Nat) (x : DWord) : State :=
  match (s.part p).writePriv n x with
  | .ok P => s.modPart p (fun _ => P)
  | .error _ => s

/-- The base of a ring in host memory with entries of a size: written only while EN is 0, aligned. -/
def Ring.hostBase (r : Ring) (size : Nat) (x : DWord) : Ring :=
  if r.on || x.toNat % (size * 2 ^ r.log) != 0 then r else { r with base := x }

/-- The control of a ring in host memory (R457): as FQCTL, with bit 30 reserved. -/
def Ring.hostCtl (r : Ring) (size : Nat) (x : Word) : Ring :=
  let n := bitsOf x.toNat 4 0
  let en := x.getLsbD 31
  if x.toNat &&& 0x7FFFFFE0 != 0 || (r.on && n != r.log) ||
      (en && (n < 4 || 16 < n || r.base.toNat % (size * 2 ^ n) != 0)) then r
  else if en && !r.on then { r with ctl := x, head := 0, tail := 0 }
  else { r with ctl := x }

/-! ### The writes -/

/-- EVBASE takes its value once: 2 MiB aligned, in populated HBM4E of the partition's dies. Every event is clear then
(17/R438, R440). -/
def State.writeEvbase (s : State) (p : Nat) (x : DWord) : State :=
  let P := s.part p
  if P.evbase.isSome || x.toNat % 0x200000 != 0 || !P.inHbm x.toNat 0x200000 then s
  else
    ({ s with mem := s.mem.clear x.toNat 0x200000 }.healed 0 0 x.toNat 0x200000).modPart p (fun P =>
      { P with evbase := some x, events := [] })

/-- EVENT of EVSET and EVCLR; a reserved bit that is set makes the write ignored (17/R440). -/
def eventOf (x : Word) : Option Nat := if bitsOf x.toNat 31 24 = 0 then some x.toNat else none

def State.writeEvset (s : State) (p : Nat) (x : Word) : State :=
  match eventOf x with | some n => s.signal p n | none => s

def State.writeEvclr (s : State) (p : Nat) (x : Word) : State :=
  match eventOf x with | some n => s.clearEvent p n | none => s

/-- FQDONE resolves the open entry that has this SEQ, as `eret` would (R457, 15/R387). -/
def State.writeFqdone (s : State) (p : Nat) (x : Word) : State :=
  let P := s.part p
  if P.fqOpen.any (·.seq == x) then s.resolveAt p (P.fq.slot 64 x) (P.openOf x none) else s

/-- The bytes of a fault-queue entry that the device reads are held at PCIe. -/
def State.fqdoneHeld (s : State) (p : Nat) (x : Word) : Bool :=
  let P := s.part p
  s.pcieHeld p (P.place (P.fq.slot 64 x) 64).1

/-- The FQDONE writes that wait take effect, in order, up to one whose entry's bytes are held at PCIe (17/R445). -/
def State.applyDones (s : State) (p : Nat) : State :=
  let (rest, s) := (s.part p).doneWait.foldl (fun (x : List Word × State) v =>
    if !x.1.isEmpty || ((x.2.part p).fqOpen.any (·.seq == v) && x.2.fqdoneHeld p v) then (x.1 ++ [v], x.2)
    else (x.1, x.2.writeFqdone p v)) ([], s)
  s.modPart p (fun P => { P with doneWait := rest })

def Part.writeRing (P : Part) (q : Nat) (f : Ring → Ring) : Part :=
  if q < 64 then { P with rings := vmod P.rings q f } else P

/-- FLOOR of a budget; a value above its fuse limit is written as the limit, and it counts from the next period
(17/R447). -/
def Budget.writeFloor (b : Budget) (x : Word) : Budget :=
  { b with nextFloor := if b.fuse.toNat < x.toNat then b.fuse else x }

/-- Whether a ceiling of ISSUE or MATRIX would be lowered below the floor, which Cratal never does (18/R465). -/
def Budget.belowFloor (b : Budget) (k : Nat) (x : Word) : Bool :=
  decide (k < 2) && decide (x.toNat < b.nextCeil.toNat) && (decide (x.toNat < b.floor.toNat) || decide (x.toNat < b.nextFloor.toNat))

/-- CEIL of a budget, likewise. -/
def Budget.writeCeil (b : Budget) (x : Word) : Budget :=
  { b with nextCeil := if b.fuse.toNat < x.toNat then b.fuse else x }

def Part.writeBudget (P : Part) (k : Nat) (f : Budget → Budget) : Part :=
  if k < 6 then { P with budgets := vmod P.budgets k f } else P

/-- BSTAT: writing 1 to a bit of EVER clears it (17/R447). -/
def Part.writeBstat (P : Part) (x : Word) : Part := { P with ever := P.ever &&& ~~~(x.extractLsb' 16 6) }

/-- MSTATUS (18/R449). -/
def Stage.code (x : Stage) : Nat := match x with | .reset => 0 | .booting => 1 | .ready => 2 | .failed => 3

def State.mstatus (s : State) : Word :=
  BitVec.ofNat 32 (s.stage.code * 2 ^ 28 + (if s.wdReset then 2 ^ 27 else 0))

/-! ### Events with a register of their own -/

def execEvbase (part : Nat) (val : DWord) (s : State) : Host.Outcome State Fault Refusal :=
  .next (s.hostWrite part (·.writeEvbase part val))

def execEvset (part : Nat) (val : Word) (s : State) : Host.Outcome State Fault Refusal :=
  .next (s.hostWrite part (·.writeEvset part val))

def execEvclr (part : Nat) (val : Word) (s : State) : Host.Outcome State Fault Refusal :=
  .next (s.hostWrite part (·.writeEvclr part val))

/-- WDTAG withdraws by tag, as `withdraw` does. -/
def execWdtag (part : Nat) (val : Word) (s : State) : Host.Outcome State Fault Refusal :=
  .next (s.hostWrite part (·.withdrawTag part val))

/-- FQDONE. The device's read of the entry may be held at the link (17/R445); the write takes effect after it. -/
def execFqdone (part : Nat) (val : Word) (s : State) : Host.Outcome State Fault Refusal :=
  .next (s.hostWrite part (fun s =>
    (s.modPart part (fun P => { P with doneWait := P.doneWait ++ [val] })).applyDones part))

def execRtail (part q : Nat) (val : Word) (s : State) : Host.Outcome State Fault Refusal :=
  .next (s.hostWrite part (·.modPart part (·.writeRing q (fun r => { r with tail := val }))))

def execFqctl (part : Nat) (val : Word) (s : State) : Host.Outcome State Fault Refusal :=
  .next (s.hostWrite part (·.hostPriv part 0x011 (val.setWidth 64)))

def execElctl (part : Nat) (val : Word) (s : State) : Host.Outcome State Fault Refusal :=
  .next (s.hostWrite part (·.hostPriv part 0x019 (val.setWidth 64)))

def execCctl (part : Nat) (val : Word) (s : State) : Host.Outcome State Fault Refusal :=
  .next (s.hostWrite part (·.modPart part (fun P => { P with comp := P.comp.hostCtl 32 val })))

def execRctl (part q : Nat) (val : Word) (s : State) : Host.Outcome State Fault Refusal :=
  .next (s.hostWrite part (·.modPart part (·.writeRing q (fun r => r.hostCtl 128 val))))

def execBstat (part : Nat) (val : Word) (s : State) : Host.Outcome State Fault Refusal :=
  .next (s.hostWrite part (·.modPart part (·.writeBstat val)))

/-- WDRESET takes a value; a change of MSTATUS raises vector 32 (R448). -/
def State.setWdReset (s : State) (x : Bool) : State := if s.wdReset == x then s else { s with wdReset := x }.irq 32

/-- A read of MSTATUS clears WDRESET. -/
def execMstatus (s : State) : Host.Outcome State Fault Refusal := .next (s.setWdReset false)

/-- Whether the watchdog's interval of 100 ms has run out, so that Cratal does nothing more until it expires (R461). -/
def State.overdue (s : State) : Bool := decide (100000000 ≤ (s.time - s.wdTime).toNat)

/-- Cratal writes CEILk (17/R447, 18/R465). -/
def execCeil (part k : Nat) (val : Word) (s : State) : Host.Outcome State Fault Refusal :=
  .next (if s.stage == .ready && !s.overdue then
      s.hostWrite part (·.modPart part (·.writeBudget k (fun b => if b.belowFloor k val then b else b.writeCeil val)))
    else s)

/-! ### REGISTER_WRITE -/

/-- A host write to an offset of a partition's window. Read-only registers and unlisted offsets ignore it. -/
def State.windowWrite (s : State) (p off : Nat) (x : DWord) : State :=
  let w : Word := x.setWidth 32
  let reg (f : Part → Part) : State := s.modPart p f
  if 0x0800 ≤ off && off < 0x1000 then
    if off % 8 = 0 then s.hostPriv p ((off - 0x0800) / 8) x else s
  else if 0x1100 ≤ off && off < 0x1160 then
    if off % 16 = 0 then reg (·.writeBudget ((off - 0x1100) / 16) (·.writeFloor w)) else s
  else if 0x2000 ≤ off && off < 0x2800 then
    let q := (off - 0x2000) / 32
    if off % 32 = 0 then reg (·.writeRing q (fun r => r.hostBase 128 x))
    else if off % 32 = 8 then reg (·.writeRing q (fun r => r.hostCtl 128 w))
    else if off % 32 = 12 then reg (·.writeRing q (fun r => { r with tail := w }))
    else s
  else
    match off with
    | 0x0040 => s.writeFqdone p w
    | 0x1000 => s.writeEvbase p x
    | 0x1008 => s.writeEvset p w
    | 0x100C => s.writeEvclr p w
    | 0x1010 => s.withdrawTag p w
    | 0x1180 => reg (·.writeBstat w)
    | 0x1F00 => reg (fun P => { P with comp := P.comp.hostBase 32 x })
    | 0x1F08 => reg (fun P => { P with comp := P.comp.hostCtl 32 w })
    | 0x1F0C => reg (fun P => { P with comp := { P.comp with head := w } })
    | _ => s

/-- REGISTER_WRITE: a host write to a partition's window, or to the module page, where CMDADDR takes any value (18/R449,
R451). -/
def execRegisterWrite (window : Option Nat) (off : Nat) (val : DWord) (s : State) :
    Host.Outcome State Fault Refusal :=
  match window with
  | some p => .next (s.hostWrite p (·.windowWrite p off val))
  | none => .next (if off = 0x008 then { s with cmdAddr := val } else s)

/-! ### BUDGET_PERIOD -/

/-- BUDGET_PERIOD: a period begins at every TIME that is a multiple of 10,000 ns. What the budget before it held back of the error
log and of FQDONE comes first. -/
def execBudgetPeriod (s : State) : Host.Outcome State Fault Refusal :=
  let n := s.time.toNat / 10000
  if n ≤ s.period then .next s
  else
    let s := { s with period := n, parts := s.parts.map Part.renew }
    .next ((List.range s.parts.size).foldl (fun s p => (s.postErrors p).applyDones p) s)

end Sys2Proof.Machine
end

