-- ==== Sys2Proof/Machine/Sha.lean ====
section
/-!
DEFINITION. SHA-512, which the measurement registers extend with (18/R459). The spec names it and gives no text of it; the
text is that of FIPS 180-4 (PRESUMED, log entry 6).
-/

namespace Sys2Proof.Machine

/-- Round constants 0 to 19. -/
def shaK0 : List DWord :=
  [0x428A2F98D728AE22, 0x7137449123EF65CD, 0xB5C0FBCFEC4D3B2F, 0xE9B5DBA58189DBBC,
   0x3956C25BF348B538, 0x59F111F1B605D019, 0x923F82A4AF194F9B, 0xAB1C5ED5DA6D8118,
   0xD807AA98A3030242, 0x12835B0145706FBE, 0x243185BE4EE4B28C, 0x550C7DC3D5FFB4E2,
   0x72BE5D74F27B896F, 0x80DEB1FE3B1696B1, 0x9BDC06A725C71235, 0xC19BF174CF692694,
   0xE49B69C19EF14AD2, 0xEFBE4786384F25E3, 0x0FC19DC68B8CD5B5, 0x240CA1CC77AC9C65]

/-- Round constants 20 to 39. -/
def shaK1 : List DWord :=
  [0x2DE92C6F592B0275, 0x4A7484AA6EA6E483, 0x5CB0A9DCBD41FBD4, 0x76F988DA831153B5,
   0x983E5152EE66DFAB, 0xA831C66D2DB43210, 0xB00327C898FB213F, 0xBF597FC7BEEF0EE4,
   0xC6E00BF33DA88FC2, 0xD5A79147930AA725, 0x06CA6351E003826F, 0x142929670A0E6E70,
   0x27B70A8546D22FFC, 0x2E1B21385C26C926, 0x4D2C6DFC5AC42AED, 0x53380D139D95B3DF,
   0x650A73548BAF63DE, 0x766A0ABB3C77B2A8, 0x81C2C92E47EDAEE6, 0x92722C851482353B]

/-- Round constants 40 to 59. -/
def shaK2 : List DWord :=
  [0xA2BFE8A14CF10364, 0xA81A664BBC423001, 0xC24B8B70D0F89791, 0xC76C51A30654BE30,
   0xD192E819D6EF5218, 0xD69906245565A910, 0xF40E35855771202A, 0x106AA07032BBD1B8,
   0x19A4C116B8D2D0C8, 0x1E376C085141AB53, 0x2748774CDF8EEB99, 0x34B0BCB5E19B48A8,
   0x391C0CB3C5C95A63, 0x4ED8AA4AE3418ACB, 0x5B9CCA4F7763E373, 0x682E6FF3D6B2B8A3,
   0x748F82EE5DEFB2FC, 0x78A5636F43172F60, 0x84C87814A1F0AB72, 0x8CC702081A6439EC]

/-- Round constants 60 to 79. -/
def shaK3 : List DWord :=
  [0x90BEFFFA23631E28, 0xA4506CEBDE82BDE9, 0xBEF9A3F7B2C67915, 0xC67178F2E372532B,
   0xCA273ECEEA26619C, 0xD186B8C721C0C207, 0xEADA7DD6CDE0EB1E, 0xF57D4F7FEE6ED178,
   0x06F067AA72176FBA, 0x0A637DC5A2C898A6, 0x113F9804BEF90DAE, 0x1B710B35131C471B,
   0x28DB77F523047D84, 0x32CAAB7B40C72493, 0x3C9EBE0A15C9BEBC, 0x431D67C49C100D4C,
   0x4CC5D4BECB3E42B6, 0x597F299CFC657E2A, 0x5FCB6FAB3AD6FAEC, 0x6C44198C4A475817]

/-- The round constants. -/
def shaK : List DWord := shaK0 ++ shaK1 ++ shaK2 ++ shaK3

/-- The initial hash value. -/
def shaStart : List DWord :=
  [0x6A09E667F3BCC908, 0xBB67AE8584CAA73B, 0x3C6EF372FE94F82B, 0xA54FF53A5F1D36F1,
   0x510E527FADE682D1, 0x9B05688C2B3E6C1F, 0x1F83D9ABFB41BD6B, 0x5BE0CD19137E2179]

def shaRotr (n : Nat) (x : DWord) : DWord := x.rotateRight n

/-- The message schedule, latest word first, extended by `n` words. -/
def shaSchedule (n : Nat) (w : List DWord) : List DWord :=
  match n with
  | 0 => w
  | k + 1 =>
    let at_ (i : Nat) : DWord := (w[i - 1]?).getD 0
    let a := at_ 15
    let b := at_ 2
    let x := at_ 16 + (shaRotr 1 a ^^^ shaRotr 8 a ^^^ (a >>> 7)) + at_ 7 +
      (shaRotr 19 b ^^^ shaRotr 61 b ^^^ (b >>> 6))
    shaSchedule k (x :: w)

/-- One round on the eight working words. -/
def shaRound (v : List DWord) (kw : DWord × DWord) : List DWord :=
  match v with
  | [a, b, c, d, e, f, g, h] =>
    let t1 := h + (shaRotr 14 e ^^^ shaRotr 18 e ^^^ shaRotr 41 e) + ((e &&& f) ^^^ (~~~e &&& g)) + kw.1 + kw.2
    let t2 := (shaRotr 28 a ^^^ shaRotr 34 a ^^^ shaRotr 39 a) + ((a &&& b) ^^^ (a &&& c) ^^^ (b &&& c))
    [t1 + t2, a, b, c, d + t1, e, f, g]
  | v => v

/-- A big-endian doubleword of a byte list. -/
def shaWord (bs : List Byte) : DWord := BitVec.ofNat 64 (leNat bs.reverse)

/-- One block of 128 bytes. -/
def shaBlock (h : List DWord) (bs : List Byte) : List DWord :=
  let w := (List.range 16).map (fun k => shaWord (bytesAt bs (8 * k) 8))
  let ws := (shaSchedule 64 w.reverse).reverse
  let v := (shaK.zip ws).foldl shaRound h
  (h.zip v).map (fun p => p.1 + p.2)

/-- SHA-512 of a message: its 64 bytes. -/
def sha512 (m : List Byte) : List Byte :=
  let pad := zeros ((240 - (m.length + 1) % 128) % 128)
  let p := m ++ [0x80] ++ pad ++ (leBytes 16 (8 * m.length)).reverse
  let h := (List.range (p.length / 128)).foldl (fun h k => shaBlock h (bytesAt p (128 * k) 128)) shaStart
  h.flatMap (fun x => (leBytes 8 x.toNat).reverse)

/-! ### RSASSA-PSS (18/R459, R460)

The text is that of RFC 8017, with SHA-512, MGF1 with SHA-512, a salt of 64 bytes and a modulus of 4,096 bits (PRESUMED, log
entry 6). -/

/-- Bytes of an integer, most significant first, and the integer of such bytes. -/
def beBytes (n x : Nat) : List Byte := (leBytes n x).reverse
def beNat (bs : List Byte) : Nat := leNat bs.reverse

/-- `acc * b ^ e` modulo `n`, for an exponent of at most `k` bits. -/
def modPow (n : Nat) (k b e acc : Nat) : Nat :=
  match k with
  | 0 => acc % n
  | k + 1 => if e = 0 then acc % n else modPow n k (b * b % n) (e / 2) (if e % 2 = 1 then acc * b % n else acc)

/-- The mask of a seed, 447 bytes: all of an encoded message but its hash and its last byte. -/
def pssMask (seed : List Byte) : List Byte :=
  ((List.range 7).flatMap (fun c => sha512 (seed ++ beBytes 4 c))).take 447

def xorBytes (a b : List Byte) : List Byte := a.zipWith (· ^^^ ·) b

/-- The hash that binds a message's digest and its salt. -/
def pssHash (digest salt : List Byte) : List Byte := sha512 (zeros 8 ++ digest ++ salt)

/-- The padding before the salt. -/
def pssPad : List Byte := zeros 382 ++ [0x01]

/-- The top bit is cleared: an encoded message has 4,095 bits. -/
def clearTop (bs : List Byte) : List Byte :=
  match bs with
  | b :: r => (b &&& 0x7F) :: r
  | [] => []

/-- The encoded message of a message and a salt, 512 bytes. -/
def pssEncode (m salt : List Byte) : List Byte :=
  let h := pssHash (sha512 m) salt
  clearTop (xorBytes (pssPad ++ salt) (pssMask h)) ++ h ++ [0xBC]

/-- Whether 512 bytes are an encoded message of a message. -/
def pssOk (m em : List Byte) : Bool :=
  let db := em.take 447
  let h := bytesAt em 447 64
  let plain := clearTop (xorBytes db (pssMask h))
  em.length == 512 && em.getLast? == some 0xBC && !((em[0]?).getD 0).getLsbD 7 && plain.take 383 == pssPad &&
    pssHash (sha512 m) (plain.drop 383) == h

/-- The signature of a message by a private key. -/
def rsaPssSign (n d : Nat) (m salt : List Byte) : List Byte :=
  beBytes 512 (modPow n 4096 (beNat (pssEncode m salt)) d 1)

/-- Verification with a public key: its modulus, 512 bytes most significant first, then its exponent. -/
def rsaPssVerify (key m sig : List Byte) : Bool :=
  let n := beNat (key.take 512)
  let e := beNat (key.drop 512)
  2 ^ 4095 ≤ n && sig.length == 512 && beNat sig < n && pssOk m (beBytes 512 (modPow n 4096 (beNat sig) e 1))

end Sys2Proof.Machine
end

