-- ==== Sys2Proof/Machine/Module.lean ====
section
/-!
DEFINITION. The module commands (18/R450 to R456, R460, R463): the doorbell, and what Cratal does for each command. A
command acts when its event comes, and then its STATUS is written.
-/

namespace Sys2Proof.Machine

/-! ### The command frame (R450, R451) -/

/-- What a command comes to: a STATUS, a wait for what it has started, or nothing yet. -/
inductive CmdEnd where
  | done (status : Nat) (s : State)
  | wait (s : State)
  | hold

/-- Whether Cratal runs: the module is READY, its watchdog is not due, and no die has tripped. -/
def State.cratalUp (s : State) : Bool := s.powered && s.stage == .ready && !s.thermal && !s.overdue

/-- The doorbell ends with an outcome; one that is not 0 raises vector 32. -/
def State.endDoor (s : State) (derr : BitVec 2) : State :=
  let s := { s with derr := derr, cmdBusy := false, cmd := none, cmdBegun := false }
  if derr = 0 then s else s.irq 32

/-- A command ends: RESULT, of which no command has any, and STATUS are written; the link may reject the writes. -/
def State.endCommand (s : State) (at_ status : Nat) (ok : Bool) : State :=
  if ok then ({ s with hostMem := s.hostMem.writeN (at_ + 4) (leBytes 4 status) }).endDoor 0
  else s.endDoor 3

/-- Whether partition P exists. -/
def State.exists_ (s : State) (p : Nat) : Bool := p < 8 && (s.part p).state != .absent

/-- Counting Cratal's cycles on a partition (17/R445). -/
def State.firmware (s : State) (p : Nat) : State :=
  if s.exists_ p then s.charge p 5 (Config.firmwareCycles s.freeCtr).toNat else s

/-- A command is executed when Cratal holds its block. `p` is the partition that it serves; while that partition's FIRMWARE
budget is spent the request is held (17/R445). -/
def State.command (s : State) (op : Nat) (ok : Bool) (p : List Byte → Nat) (f : List Byte → State → CmdEnd) :
    Host.Outcome State Fault Refusal :=
  match s.cmd with
  | none => .next s
  | some (a, b) =>
    if !s.cratalUp || natAt b 0 4 != op || (s.exists_ (p b) && s.spent (p b) 5) then .next s
    else
      match f b s with
      | .done st s => .next ((s.endCommand a st ok).firmware (p b))
      | .wait s => .next ({ s with cmdBegun := true }.firmware (p b))
      | .hold => .next s

/-- Whether the argument bytes outside the fields that a command has are zero. -/
def argsOk (b : List Byte) (used : List (Nat × Nat)) : Bool :=
  (List.range 0x78).all (fun k =>
    used.any (fun u => u.1 ≤ k + 8 && k + 8 < u.1 + u.2) || (b[k + 8]?).getD 0 == 0)

/-! ### CMDDOOR -/

/-- A doorbell that Cratal serves: a misaligned block (DERR 1), one that cannot be read (DERR 2), an unknown OP (STATUS 3, which
the link may reject), or a command that Cratal will execute. -/
def State.doorbell (s : State) (addr : DWord) (link : DoorLink) : State :=
  if addr.toNat % 256 != 0 then s.endDoor 1
  else if link == .unreadable then s.endDoor 2
  else
    let b := s.hostMem.readN addr.toNat 256
    let op := natAt b 0 4
    if op = 0 || 9 < op then s.endCommand addr.toNat 3 (link == .written)
    else { s with cmdBusy := true, cmd := some (addr.toNat, b), cmdBegun := false }

/-- CMDDOOR. While Cratal is down though the module is READY, the command waits until it runs again (R461); before READY, and once
the module has failed, there is no command (log entry 63). -/
def execCmddoor (link : DoorLink) (s : State) : Host.Outcome State Fault Refusal :=
  if s.cmdBusy || !s.powered || s.stage != .ready then .next s
  else if !s.cratalUp then .next { s with cmdBusy := true, cmdWait := some (s.cmdAddr, link) }
  else .next (s.doorbell s.cmdAddr link)

/-- The doorbell that has waited is served once Cratal runs again (R461). -/
def State.ringAgain (s : State) : State :=
  match s.cmdWait with
  | some (a, link) => if s.cratalUp then { s with cmdWait := none }.doorbell a link else s
  | none => s

/-! ### The dies of a partition (R453, R454) -/

/-- The die of a protected unit. -/
def State.badDie (s : State) (b : BadUnit) : Nat :=
  if b.unit = 0 then homeOf b.lo
  else if b.unit = 2 then dieOfCluster (s.gang b.inst).cluster
  else if b.unit = 3 || b.unit = 4 then
    dieOfCore (if b.inst % 2 = 0 then (s.team (b.inst / 2)).core
      else match s.visitors[b.inst / 2]? with | some v => v.core | none => 0)
  else if b.unit = 5 || b.unit = 6 || b.unit = 7 then dieOfCluster b.inst
  else b.inst

/-- Clearing every byte of some dies' HBM4E, L2, scratchpads, register files, accumulator stores and B-stores (R453). -/
def State.clearDies (s : State) (first count : Nat) : State :=
  let hit (d : Nat) : Bool := first ≤ d && d < first + count
  { s with
    mem := s.mem.filter (fun c => !hit (homeOf c.1)),
    dies := Vector.ofFn (fun d : Fin 8 => if hit d.val then .reset else s.dies[d]),
    clusters := Vector.ofFn (fun c : Fin 72 => if hit (dieOfCluster c.val) then .reset else s.clusters[c]),
    cores := Vector.ofFn (fun c : Fin 288 => if hit (dieOfCore c.val) then .reset else s.cores[c]),
    gangs := s.gangs.map (fun (G : Gang) => if hit (dieOfCluster G.cluster) then { G with spad := [], live := [] } else G),
    bad := s.bad.filter (fun b => !hit (s.badDie b)) }

/-- A change of PSTATE raises vector 4p + 3 (R448). -/
def State.setPart (s : State) (p : Nat) (P : Part) : State := (s.modPart p (fun _ => P)).irq (4 * p + 3)

/-- A partition as PCREATE leaves it (R453, 17/R440, R447). -/
def State.newPart (s : State) (first count link : Nat) : Part :=
  { Part.reset with
    state := .ready, dieFirst := first, dieCount := count, link := link,
    budgets := Vector.ofFn (fun k : Fin 6 =>
      let f := vget s.fuse (6 * sizeIndex count + k.val)
      { floor := 0, ceil := f, nextFloor := 0, nextCeil := f, fuse := f, used := 0 }) }

/-- Whether a die set keeps 01/R19. -/
def dieSetOk (first count : Nat) : Bool :=
  (count = 1 || count = 2 || count = 4 || count = 8) && first % count = 0 && first + count ≤ 8

/-- PCREATE. -/
def execPcreate (ok : Bool) (s : State) : Host.Outcome State Fault Refusal :=
  s.command 1 ok (fun _ => 8) (fun b s =>
    let p := argPart b
    let dies := natAt b 0xC 4
    let first := bitsOf dies 15 8
    let count := bitsOf dies 7 0
    let link := natAt b 0x10 4
    if !argsOk b [(8, 12)] || 8 ≤ p || bitsOf dies 31 16 != 0 || 1 < link || !dieSetOk first count then .done 1 s
    else if s.exists_ p || (List.range count).any (fun k => (s.partOfDie (first + k)).isSome) then .done 2 s
    else .done 0 ((s.clearDies first count).setPart p (s.newPart first count link)))

/-! ### PDESTROY -/

/-- Removing every gang of a partition (15/R398). -/
def State.removeAll (s : State) (p : Nat) : State :=
  (List.range s.gangs.length).foldl (fun s g => if (s.gang g).part == p then s.removeGang g else s) s

/-- Completing every outstanding launch of a partition, by whether it has placed gangs. -/
def State.completeAll (s : State) (p : Nat) (unplaced : Nat) : State :=
  (List.range s.launches.length).foldl (fun s l =>
    let L := s.launch l
    if L.part == p && L.phase != .complete then s.completeLaunch l (if L.nextGang = 0 then unplaced else 3) else s) s

/-- The partition is gone: nothing of it is performed any more, no port delivers into it, and its dies are clear. -/
def State.wipe (s : State) (p : Nat) : State :=
  let P := s.part p
  let s := { s with
    fwd := s.fwd.filter (·.part != p), arr := s.arr.filter (·.part != p), walks := s.walks.filter (·.part != p),
    caddySets := s.caddySets.map (fun (S : CaddySet) => if S.part == p then { S with created := false, caddies := [] } else S),
    ports := s.ports.map (fun (Q : Port) => if Q.winPart == p then { Q with winSize := 0 } else Q) }
  (s.clearDies P.dieFirst P.dieCount).setPart p .reset

/-- Whether nothing that the partition's gangs have entered or begun is still to happen: its accesses have been performed, and
its chains and jobs have ended. -/
def State.partQuiet (s : State) (p : Nat) : Bool :=
  let P := s.part p
  s.flight.all (fun e => e.part != p || (match e.owner with | .port _ => true | _ => false)) &&
    s.clusters.toList.zipIdx.all (fun c => !P.hasDie (dieOfCluster c.2) ||
      (c.1.channels.toList.all (·.isEmpty) && c.1.jobs.isEmpty))

/-- The open fault-queue entries of a partition are discarded, and what they hold of its blend units is resolved FAIL (R454; log
entry 67). -/
def State.discardEntries (s : State) (p : Nat) : State :=
  let drop (c : Caddy) : Caddy :=
    { c with hold := c.hold.map (fun h => if h.res.isNone then { h with res := some .fail } else h) }
  { s with caddySets := s.caddySets.map (fun (S : CaddySet) =>
      if S.part == p then { S with caddies := S.caddies.map drop } else S) }.modPart p (fun P =>
    { P with fqOpen := [], doneWait := [] })

/-- PDESTROY (R454): the gangs go, the launches complete and the open entries are discarded at once; when what they have entered has been performed, and every
completion that the ring takes is recorded, the partition goes (log entry 67). -/
def execPdestroy (ok : Bool) (s : State) : Host.Outcome State Fault Refusal :=
  s.command 2 ok argPart (fun b s =>
    let p := argPart b
    let P := s.part p
    if s.cmdBegun then
      if (P.compWait.isEmpty || !P.comp.on || P.comp.full) && s.partQuiet p then .done 0 (s.wipe p)
      else .wait (s.discardEntries p)
    else if !argsOk b [(8, 4)] || !s.exists_ p then .done 1 s
    else .wait (((s.removeAll p).completeAll p 2).discardEntries p))

/-! ### GRANT, REVOKE (R452, R455) -/

/-- The size of the host window (16/R415). -/
def hostWindow : Nat := hostEnd - hostBase

/-- Two ranges of a host window overlap. -/
def Grant.meets (g : Grant) (w n : Nat) : Bool := overlaps g.w g.size w n

/-- GRANT. -/
def execGrant (ok : Bool) (s : State) : Host.Outcome State Fault Refusal :=
  s.command 3 ok argPart (fun b s =>
    let p := argPart b
    let w := natAt b 0x10 8
    let host := natAt b 0x18 8
    let size := natAt b 0x20 8
    let perm := natAt b 0x28 4
    if !argsOk b [(8, 4), (0x10, 0x1C)] || !s.exists_ p || w % 65536 != 0 || host % 65536 != 0 || size % 65536 != 0 ||
        hostWindow < w + size || 3 < perm || (s.part p).grants.any (·.meets w size) then .done 1 s
    else
      .done 0 (s.modPart p (fun P => { P with grants := P.grants ++
        [{ w := w, host := host, size := size, write := perm % 2 = 1, firmware := perm / 2 = 1 }] })))

/-- REVOKE: the grants go, and it waits for the sweep that it starts. -/
def execRevoke (ok : Bool) (s : State) : Host.Outcome State Fault Refusal :=
  s.command 4 ok argPart (fun b s =>
    let p := argPart b
    if s.cmdBegun then
      if (s.part p).sweeps.any (·.team == none) then .wait s else .done 0 s
    else if !argsOk b [(8, 4), (0x10, 8), (0x20, 8)] || !s.exists_ p || natAt b 0x10 8 % 65536 != 0 ||
        natAt b 0x20 8 % 65536 != 0 then .done 1 s
    else
      .wait (s.modPart p (fun P =>
        { P with grants := P.grants.filter (fun g => !g.meets (natAt b 0x10 8) (natAt b 0x20 8)),
                 sweeps := P.sweeps ++ [{ team := none, va := 0, removed := false, waits := [] }] })))

/-! ### KILL, SAVE -/

/-- KILL: STATUS 2 when the gang is neither resident nor saved. -/
def execKill (ok : Bool) (s : State) : Host.Outcome State Fault Refusal :=
  s.command 5 ok argPart (fun b s =>
    let p := argPart b
    if !argsOk b [(8, 4), (0x10, 8)] || !s.exists_ p then .done 1 s
    else
      match (s.launchBySeq p (wordAt b 0x10)).bind (fun l =>
          s.gangBy l (natAt b 0x14 4) (fun h => h == .resident || h == .halting || h == .saved)) with
      | some g => .done 0 (s.removeGang g)
      | none => .done 2 s)

/-- Whether a gang that a host's SAVE pre-empted has not been saved yet. -/
def State.saving (s : State) (p : Nat) : Bool :=
  s.gangs.any (fun G => G.part == p && G.phase == .halting &&
    (match G.image with | some i => i.software && i.reason = 0 | none => false))

/-- Whether Cratal's fabric reaches bytes at a virtual address of a partition: they lie in host-window ranges that are granted
with bit [1] (R455, R461). -/
def State.cratalReaches (s : State) (p die : Nat) (va : DWord) (n : Nat) : Bool :=
  match s.unitSplit p none die va n { r := true, w := true } none with
  | (.ok l, _) =>
    l.all (fun x =>
      let pa := x.2.2.pa (partVa va x.1)
      hostBase ≤ pa && ((s.part p).grantOf (pa - hostBase) x.2.1).any (·.firmware))
  | _ => false

/-- SAVE: as `ctxsave`, for a request block at a virtual address of the partition; it waits for the image, upon which STATUS
and NEED of the block are written. A block that cannot be accessed is a bad operand, and one outside the ranges that Cratal
reaches is refused by a limit (log entry 111). -/
def execSave (ok : Bool) (s : State) : Host.Outcome State Fault Refusal :=
  s.command 6 ok argPart (fun b s =>
    let p := argPart b
    let va := dwordAt b 0x10
    let die := (s.part p).dieFirst
    if s.cmdBegun then (if s.saving p then .wait s else .done 0 s)
    else if !argsOk b [(8, 4), (0x10, 8)] || !s.exists_ p || va.toNat % 64 != 0 then .done 1 s
    else
      match s.unitSplit p none die va 64 { r := true, w := true } none with
      | (.fail .., s) => .done 1 s
      | (.ok _, _) =>
        if !s.cratalReaches p die va 64 then .done 4 s
        else if s.linkShut p then .hold
        else
          match s.unitRead p none die va 64 none with
          | (.fail .., s) => .done 1 s
          | (.ok blk, s) =>
            let q := s.saveReq p blk
            if !q.ok then .done 1 s
            else
              match s.saveStatus q none, q.gang with
              | none, some g =>
                .wait (s.halt g { addr := q.area, software := true, reason := 0, waiter := none, slot := none,
                                  room := q.size, request := va })
              | some (st, need), _ =>
                .done 0 (s.unitWrite p none die 0 (va + 0x14) (leBytes 4 st ++ leBytes 4 need) none).2
              | none, none => .done 0 s)

/-! ### STATESYNC (R463) -/

/-- PSTATE (R457). -/
def PState.code (x : PState) : Nat := match x with | .absent => 0 | .ready => 1 | .failed => 2

/-- Launches of a partition that wait, are ready with no gang placed, and run. -/
def State.launchCounts (s : State) (p : Nat) : Nat × Nat × Nat :=
  let ls := s.launches.filter (fun L => L.part == p && L.phase != .complete)
  ((ls.filter (·.phase == .waiting)).length,
    (ls.filter (fun L => L.phase != .waiting && L.nextGang = 0)).length, (ls.filter (fun L => L.nextGang != 0)).length)

/-- BSTAT (17/R447). -/
def Part.bstat (P : Part) : Nat :=
  P.ever.toNat * 2 ^ 16 + (((List.range 6).filter (fun k => (vget P.budgets k).spent)).map (2 ^ ·)).sum

/-- The block of a partition, 1,024 bytes, its fields in the order of R463. -/
def State.syncBlock (s : State) (p : Nat) : List Byte :=
  let P := s.part p
  if P.state == .absent then zeros 1024
  else
    let (waiting, ready, running) := s.launchCounts p
    let head :=
      leBytes 4 (P.state.code * 2 ^ 30) ++ leBytes 4 (P.dieFirst * 256 + P.dieCount) ++ leBytes 4 P.link ++
        w32le P.lseqNext ++ leBytes 4 waiting ++ leBytes 4 ready ++ leBytes 4 running ++ w32le P.fq.tail ++
        w32le P.fq.head ++ w32le P.el.tail ++ w32le P.el.head ++ w32le P.comp.tail ++ w32le P.comp.head ++
        P.budgets.toList.flatMap (fun b => w32le b.used) ++ P.budgets.toList.flatMap (fun b => w32le b.eceil) ++
        leBytes 4 P.bstat ++ w64le P.migDep ++ w64le P.migFall ++ w64le P.migRef
    head ++ zeros (0x200 - head.length) ++ P.rings.toList.flatMap (fun r => w32le r.head ++ w32le r.tail)

/-- The record, 256 bytes. -/
def State.syncRecord (s : State) : List Byte :=
  let r :=
    leBytes 4 0x434E5953 ++ leBytes 4 1 ++ w32le (Config.version 0) ++ w32le (Config.version 1) ++
      w32le s.mstatus ++ zeros 4 ++ w64le s.time ++
      (List.range 25).flatMap (fun j => leBytes 2 (Config.temperature j s.freeCtr).toNat)
  r ++ zeros (256 - r.length)

/-- STATESYNC. -/
def execStatesync (ok : Bool) (s : State) : Host.Outcome State Fault Refusal :=
  s.command 7 ok (fun _ => 8) (fun b s =>
    let a := natAt b 8 8
    if !argsOk b [(8, 8)] || a % 64 != 0 then .done 1 s
    else
      let area := s.hostMem.writeN a (s.syncRecord ++ (List.range 8).flatMap s.syncBlock)
      .done 0 { s with hostMem := area })

/-! ### QUOTE (R460) -/

/-- A register's bytes, its least significant first (00/R2). -/
def measBytes (m : BitVec 512) : List Byte := leBytes 64 m.toNat

/-- The 0x260 bytes that a quote signs. -/
def State.quoteBody (s : State) (nonce : List Byte) : List Byte :=
  leBytes 4 0x51544F51 ++ leBytes 4 1 ++ nonce ++ s.meas.toList.flatMap measBytes ++
    (Config.serial ++ zeros 16).take 16 ++ w32le s.mstatus ++ zeros 4

/-- The signature of a quote, with the identity key and a salt of the signing unit (R459, R460; log entry 4). -/
def State.signature (s : State) (body : List Byte) : List Byte :=
  rsaPssSign Config.identityModulus Config.identityExponent body
    ((List.range 8).flatMap (fun k => leBytes 8 (Config.salt (8 * s.freeCtr + k)).toNat))

/-- QUOTE. -/
def execQuote (ok : Bool) (s : State) : Host.Outcome State Fault Refusal :=
  s.command 8 ok (fun _ => 8) (fun b s =>
    let body := s.quoteBody (bytesAt b 8 64)
    if !argsOk b [(8, 72)] then .done 1 s
    else
      let area := s.hostMem.writeN (natAt b 0x48 8)
        (body ++ zeros 0xA0 ++ s.signature body)
      .done 0 { s with hostMem := area })

/-! ### PEERWIN (R456) -/

/-- PEERWIN: the window lies in populated HBM4E of partition P's dies, or is empty. -/
def execPeerwin (ok : Bool) (s : State) : Host.Outcome State Fault Refusal :=
  s.command 9 ok (fun b => natAt b 0xC 4) (fun b s =>
    let port := natAt b 8 4
    let p := natAt b 0xC 4
    let base := natAt b 0x10 8
    let size := natAt b 0x18 8
    if !argsOk b [(8, 24)] || 16 ≤ port || !s.exists_ p || (size != 0 && !(s.part p).inHbm base size) then .done 1 s
    else
      .done 0 (s.modPort port (fun Q =>
        { Q with winPart := p, winBase := BitVec.ofNat 64 base, winSize := BitVec.ofNat 64 size })))

end Sys2Proof.Machine
end

