-- ==== Sys2Proof/Machine/Power.lean ====
section
/-!
DEFINITION. Power, bring-up, measurement, the watchdog, heat, and errors that no reader meets (18/R459, R461, R462, R464,
R465; 15/R399).
-/

namespace Sys2Proof.Machine

/-! ### Measurement (R459) -/

/-- An extension: MEAS j becomes the SHA-512 of itself followed by a digest. -/
def measExtend (m digest : BitVec 512) : BitVec 512 :=
  BitVec.ofNat 512 (leNat (sha512 (measBytes m ++ measBytes digest)))

/-- The digest of bytes, as a measurement extends with it. -/
def digestOf (bs : List Byte) : BitVec 512 := BitVec.ofNat 512 (leNat (sha512 bs))

/-- The fused limits and the locked limit registers as they are measured: FUSE0 to FUSE5 for each partition size, then
PWRCAP, 4 bytes each (log entry 4). -/
def State.limitBytes (s : State) : List Byte := s.fuse.toList.flatMap w32le ++ w32le s.pwrCap

/-- The registers after the boot ROM has measured a verified image: its own digest, the image's, and the limits'. -/
def State.bootMeas (s : State) (rom : BitVec 512) (image : List Byte) : Vector (BitVec 512) 8 :=
  (((Vector.replicate 8 (0 : BitVec 512)).set 0 (measExtend 0 rom)).set 1 (measExtend 0 (digestOf image))).set 2
    (measExtend 0 (digestOf s.limitBytes))

/-- MSTATUS changes, which raises vector 32 (R448). -/
def State.setStage (s : State) (x : Stage) : State :=
  if s.stage == x then s else { s with stage := x }.irq 32

/-- Whether the boot ROM accepts the flash's image: the key is the fused one, and the signature verifies (R459). -/
def State.verified (s : State) (image signature key : List Byte) : Bool :=
  digestOf key == s.keyFuse && rsaPssVerify key image signature

/-- The limit registers are written and locked, before Cratal starts; locked ones stay (R461). -/
def State.lockLimits (s : State) : State :=
  if s.limitsLocked then s else { s with pwrCap := 4800, limitsLocked := true }

/-- The boot ROM verifies the image, locks the limits, measures and starts it (R459, R461). -/
def State.boot (s : State) (rom : BitVec 512) (image signature key : List Byte) : State :=
  let s := ({ s with meas := Vector.replicate 8 0 }).setStage .booting
  if s.verified image signature key then
    let s := s.lockLimits
    { s with meas := s.bootMeas rom image, wdTime := s.time }
  else s.setStage .failed

/-- MEAS_EXTENSION: Cratal extends MEAS 3 to 7. -/
def execMeasExtension (j : Nat) (digest : BitVec 512) (s : State) : Host.Outcome State Fault Refusal :=
  if 3 ≤ j && j < 8 && (s.stage == .booting || s.stage == .ready) && !s.overdue then
    .next { s with meas := vmod s.meas j (fun m => measExtend m digest) }
  else .next s

/-! ### Power and reset (R464) -/

/-- What a reset leaves: all device state is lost, and the module is held in RESET. The fuses, and the host's memory, are
not the device's state; the schedule is the model's own. -/
def State.afterReset (s : State) (powered : Bool) : State :=
  { State.reset with
    powered := powered, fused := s.fused, fuse := s.fuse, keyFuse := s.keyFuse, hostMem := s.hostMem, agenda := s.agenda, rotor := s.rotor,
    observer := s.observer, freeCtr := s.freeCtr, irqs := s.irqs }

/-- POWER_ON. -/
def execPowerOn (s : State) : Host.Outcome State Fault Refusal :=
  if s.powered then .next s else .next (s.afterReset true)

/-- PERST#. -/
def execPerst (s : State) : Host.Outcome State Fault Refusal :=
  if s.powered then .next (s.afterReset true) else .next s

/-- POWER_LOSS. -/
def execPowerLoss (s : State) : Host.Outcome State Fault Refusal := .next (s.afterReset false)

/-- The GFL ports whose training succeeds, each with the node number of its partner. -/
def State.trainAll (s : State) (links : List (Nat × BitVec 6)) : State :=
  links.foldl (fun s l => s.modPort l.1 (·.trained l.2 s.time)) s

/-- INPUT_WITHIN_RANGE: the bring-up from RESET. The boot ROM runs; then Cratal reads the node number and trains the stacks, the
fabric and the ports; then the module is READY, with no partition. Or the image fails its verification. -/
def execInputWithinRange (rom : BitVec 512) (image signature key : List Byte) (site : Site) (s : State) :
    Host.Outcome State Fault Refusal :=
  if s.powered && s.stage == .reset then
    let ok := s.verified image signature key
    let s := s.boot rom image signature key
    .next (if ok then (({ s with node := site.node }).trainAll site.links).setStage .ready else s)
  else .next s

/-! ### The watchdog (R461) -/

/-- WATCHDOG_WRITE starts a new interval; one that comes later than 100 ms after the last does not stop the expiry. -/
def execWatchdogWrite (s : State) : Host.Outcome State Fault Refusal :=
  if (s.stage == .ready || s.stage == .booting) && !s.overdue then .next { s with wdTime := s.time } else .next s

/-- WATCHDOG_EXPIRY, 100 ms after the last write: Cratal alone is reset and its image verified again; partitions, rings and
budgets run on, and a doorbell that has waited is served. -/
def execWatchdogExpiry (rom : BitVec 512) (image signature key : List Byte) (s : State) : Host.Outcome State Fault Refusal :=
  if (s.stage == .ready || s.stage == .booting) && s.overdue then
    let ok := s.verified image signature key
    let s := (s.setWdReset true).boot rom image signature key
    .next (if ok then (s.setStage .ready).ringAgain else s)
  else .next s

/-! ### Fatal errors (R462, R465) -/

/-- A KIND 4 record is posted to a partition. -/
def State.fatalRecord (s : State) (p unit die : Nat) : State :=
  let P := s.part p
  if P.state == .absent then s
  else s.postError p 4 unit (if P.hasDie die then die else P.dieFirst) 0 0 0 0xFFFFFFFF

/-- A partition becomes FAILED: its gangs are removed, its launches complete FAULTED, and it accepts nothing further. -/
def State.failPart (s : State) (p : Nat) : State :=
  if (s.part p).state != .ready then s
  else
    let s := (s.removeAll p)
    let s := (List.range s.launches.length).foldl (fun s l =>
      if (s.launch l).part == p && (s.launch l).phase != .complete then s.completeLaunch l 3 else s) s
    (s.modPart p (fun P => { P with state := .failed })).irq (4 * p + 3)

/-- Every partition: the record and the failure. -/
def State.failAll (s : State) (unit die : Nat) : State :=
  (List.range 8).foldl (fun s p => (s.fatalRecord p unit die).failPart p) s

/-- FATAL_ERROR: an uncorrectable error in state that no program reads, of one partition's dies or of the base die. -/
def execFatalError (part : Option Nat) (unit : Nat) (s : State) : Host.Outcome State Fault Refusal :=
  match part with
  | some p =>
    if s.exists_ p then .next ((s.fatalRecord p unit (s.part p).dieFirst).failPart p) else .next s
  | none =>
    if s.powered then .next ((s.failAll unit 0).setStage .failed) else .next s

/-- THERMAL_TRIP: a die at 110 °C stops all issue and fails every partition, until a reset. -/
def execThermalTrip (die : Nat) (s : State) : Host.Outcome State Fault Refusal :=
  if s.powered && !s.thermal then .next ({ s.failAll 9 die with thermal := true }) else .next s

/-- SCRUBBING finds an uncorrectable error of a protected unit, and posts a record of KIND 3 to the partition of its die
(15/R401). -/
def execScrubbing (n : Nat) (s : State) : Host.Outcome State Fault Refusal :=
  match s.bad[n]? with
  | none => .next s
  | some b =>
    match s.partOfDie (s.badDie b) with
    | some p => .next (s.postError p 3 b.unit (s.badDie b) (if b.unit = 0 then b.lo else 0) 0 0 0xFFFFFFFF)
    | none => .next s

end Sys2Proof.Machine
end

