-- ==== Sys2Proof/Machine/Dispatch.lean ====
section
/-!
DEFINITION. What each instruction does: one arm per constructor, each a call of its own meaning.
-/

namespace Sys2Proof.Machine

open Sys2Proof

def exec (i : Instr) (s : State) : Host.Outcome State Fault Refusal :=
  match i with
  | .add d a b => Sys2Proof.Machine.execAdd d a b s
  | .sub d a b => Sys2Proof.Machine.execSub d a b s
  | .mul d a b => Sys2Proof.Machine.execMul d a b s
  | .mulh d a b => Sys2Proof.Machine.execMulh d a b s
  | .mulhu d a b => Sys2Proof.Machine.execMulhu d a b s
  | .div d a b => Sys2Proof.Machine.execDiv d a b s
  | .divu d a b => Sys2Proof.Machine.execDivu d a b s
  | .rem d a b => Sys2Proof.Machine.execRem d a b s
  | .remu d a b => Sys2Proof.Machine.execRemu d a b s
  | .and d a b => Sys2Proof.Machine.execAnd d a b s
  | .or d a b => Sys2Proof.Machine.execOr d a b s
  | .xor d a b => Sys2Proof.Machine.execXor d a b s
  | .andn d a b => Sys2Proof.Machine.execAndn d a b s
  | .shl d a b => Sys2Proof.Machine.execShl d a b s
  | .shr d a b => Sys2Proof.Machine.execShr d a b s
  | .sra d a b => Sys2Proof.Machine.execSra d a b s
  | .rot d a b => Sys2Proof.Machine.execRot d a b s
  | .min d a b => Sys2Proof.Machine.execMin d a b s
  | .minu d a b => Sys2Proof.Machine.execMinu d a b s
  | .max d a b => Sys2Proof.Machine.execMax d a b s
  | .maxu d a b => Sys2Proof.Machine.execMaxu d a b s
  | .clz d a => Sys2Proof.Machine.execClz d a s
  | .popc d a => Sys2Proof.Machine.execPopc d a s
  | .seq d a b => Sys2Proof.Machine.execSeq d a b s
  | .sne d a b => Sys2Proof.Machine.execSne d a b s
  | .slt d a b => Sys2Proof.Machine.execSlt d a b s
  | .sltu d a b => Sys2Proof.Machine.execSltu d a b s
  | .sle d a b => Sys2Proof.Machine.execSle d a b s
  | .sleu d a b => Sys2Proof.Machine.execSleu d a b s
  | .addi d a imm => Sys2Proof.Machine.execAddi d a imm s
  | .andi d a imm => Sys2Proof.Machine.execAndi d a imm s
  | .ori d a imm => Sys2Proof.Machine.execOri d a imm s
  | .xori d a imm => Sys2Proof.Machine.execXori d a imm s
  | .shli d a n => Sys2Proof.Machine.execShli d a n s
  | .shri d a n => Sys2Proof.Machine.execShri d a n s
  | .srai d a n => Sys2Proof.Machine.execSrai d a n s
  | .roti d a n => Sys2Proof.Machine.execRoti d a n s
  | .slti d a imm => Sys2Proof.Machine.execSlti d a imm s
  | .lui d imm => Sys2Proof.Machine.execLui d imm s
  | .dadd d a b => Sys2Proof.Machine.execDadd d a b s
  | .dsub d a b => Sys2Proof.Machine.execDsub d a b s
  | .dshl d a b => Sys2Proof.Machine.execDshl d a b s
  | .dshr d a b => Sys2Proof.Machine.execDshr d a b s
  | .dsra d a b => Sys2Proof.Machine.execDsra d a b s
  | .daddi d a imm => Sys2Proof.Machine.execDaddi d a imm s
  | .rdx d n => Sys2Proof.Machine.execRdx d n s
  | .wrx a n => Sys2Proof.Machine.execWrx a n s
  | .ld d q sz imm => Sys2Proof.Machine.execLd d q sz imm s
  | .st d q sz imm => Sys2Proof.Machine.execSt d q sz imm s
  | .atom d a b order scope op => Sys2Proof.Machine.execAtom d a b order scope op s
  | .lds d q sz imm => Sys2Proof.Machine.execLds d q sz imm s
  | .sts d q sz imm => Sys2Proof.Machine.execSts d q sz imm s
  | .atoms d a b order scope op => Sys2Proof.Machine.execAtoms d a b order scope op s
  | .fence order scope => Sys2Proof.Machine.execFence order scope s
  | .rfence => Sys2Proof.Machine.execRfence s
  | .bCond a cond off => Sys2Proof.Machine.execBCond a cond off s
  | .jmp off => Sys2Proof.Machine.execJmp off s
  | .call off => Sys2Proof.Machine.execCall off s
  | .jr a => Sys2Proof.Machine.execJr a s
  | .ret a => Sys2Proof.Machine.execRet a s
  | .lrun index => Sys2Proof.Machine.execLrun index s
  | .lwait => Sys2Proof.Machine.execLwait s
  | .lget d slot => Sys2Proof.Machine.execLget d slot s
  | .grow k => Sys2Proof.Machine.execGrow k s
  | .shrink k => Sys2Proof.Machine.execShrink k s
  | .cjoin kind n => Sys2Proof.Machine.execCjoin kind n s
  | .cleave kind n => Sys2Proof.Machine.execCleave kind n s
  | .csync kind n => Sys2Proof.Machine.execCsync kind n s
  | .cinfo d kind n => Sys2Proof.Machine.execCinfo d kind n s
  | .pour a => Sys2Proof.Machine.execPour a s
  | .withdraw a => Sys2Proof.Machine.execWithdraw a s
  | .endTeam => Sys2Proof.Machine.execEndTeam s
  | .yield => Sys2Proof.Machine.execYield s
  | .tresume => Sys2Proof.Machine.execTresume s
  | .tresumeAt a => Sys2Proof.Machine.execTresumeAt a s
  | .kpour a tok ch => Sys2Proof.Machine.execKpour a tok ch s
  | .twait mask => Sys2Proof.Machine.execTwait mask s
  | .tprobe d mask => Sys2Proof.Machine.execTprobe d mask s
  | .binit a b c => Sys2Proof.Machine.execBinit a b c s
  | .barrive a b => Sys2Proof.Machine.execBarrive a b s
  | .bexpect a b => Sys2Proof.Machine.execBexpect a b s
  | .bwait a b c => Sys2Proof.Machine.execBwait a b c s
  | .binval a => Sys2Proof.Machine.execBinval a s
  | .mcrew a => Sys2Proof.Machine.execMcrew a s
  | .bput a b tok => Sys2Proof.Machine.execBput a b tok s
  | .mma a b c tok crew sparse orient => Sys2Proof.Machine.execMma a b c tok crew sparse orient s
  | .accld a c tok => Sys2Proof.Machine.execAccld a c tok s
  | .accst a c tok => Sys2Proof.Machine.execAccst a c tok s
  | .mxreq a b tok => Sys2Proof.Machine.execMxreq a b tok s
  | .mstat d => Sys2Proof.Machine.execMstat d s
  | .steepClose k => Sys2Proof.Machine.execSteepClose k s
  | .steepWait a k => Sys2Proof.Machine.execSteepWait a k s
  | .steepGrad d a k => Sys2Proof.Machine.execSteepGrad d a k s
  | .sysr d r => Sys2Proof.Machine.execSysr d r s
  | .sysw a r => Sys2Proof.Machine.execSysw a r s
  | .eret => Sys2Proof.Machine.execEret s
  | .tinval a => Sys2Proof.Machine.execTinval a s
  | .tsync => Sys2Proof.Machine.execTsync s
  | .ctxsave a => Sys2Proof.Machine.execCtxsave a s
  | .ctxload a => Sys2Proof.Machine.execCtxload a s
  | .fqpop d => Sys2Proof.Machine.execFqpop d s
  | .svc imm => Sys2Proof.Machine.execSvc imm s
  | .vadd f => Sys2Proof.Machine.execVadd f s
  | .vsub f => Sys2Proof.Machine.execVsub f s
  | .vmul f => Sys2Proof.Machine.execVmul f s
  | .vmulh f => Sys2Proof.Machine.execVmulh f s
  | .vmad f => Sys2Proof.Machine.execVmad f s
  | .vdiv f => Sys2Proof.Machine.execVdiv f s
  | .vrem f => Sys2Proof.Machine.execVrem f s
  | .vneg f => Sys2Proof.Machine.execVneg f s
  | .vabs f => Sys2Proof.Machine.execVabs f s
  | .vand f => Sys2Proof.Machine.execVand f s
  | .vor f => Sys2Proof.Machine.execVor f s
  | .vxor f => Sys2Proof.Machine.execVxor f s
  | .vandn f => Sys2Proof.Machine.execVandn f s
  | .vshl f => Sys2Proof.Machine.execVshl f s
  | .vshr f => Sys2Proof.Machine.execVshr f s
  | .vsra f => Sys2Proof.Machine.execVsra f s
  | .vrot f => Sys2Proof.Machine.execVrot f s
  | .vmin f => Sys2Proof.Machine.execVmin f s
  | .vmax f => Sys2Proof.Machine.execVmax f s
  | .vclz f => Sys2Proof.Machine.execVclz f s
  | .vpopc f => Sys2Proof.Machine.execVpopc f s
  | .vcmp f => Sys2Proof.Machine.execVcmp f s
  | .vsel f => Sys2Proof.Machine.execVsel f s
  | .vmov f => Sys2Proof.Machine.execVmov f s
  | .vmovImm ty ms d imm => Sys2Proof.Machine.execVmovImm ty ms d imm s
  | .vlea f => Sys2Proof.Machine.execVlea f s
  | .vbfx f => Sys2Proof.Machine.execVbfx f s
  | .vbfi f => Sys2Proof.Machine.execVbfi f s
  | .vsqrt f => Sys2Proof.Machine.execVsqrt f s
  | .vrcp f => Sys2Proof.Machine.execVrcp f s
  | .vrsq f => Sys2Proof.Machine.execVrsq f s
  | .vexp2 f => Sys2Proof.Machine.execVexp2 f s
  | .vlog2 f => Sys2Proof.Machine.execVlog2 f s
  | .vcls f => Sys2Proof.Machine.execVcls f s
  | .vfinq f => Sys2Proof.Machine.execVfinq f s
  | .vcvt f => Sys2Proof.Machine.execVcvt f s
  | .vcvtSr f => Sys2Proof.Machine.execVcvtSr f s
  | .vmxq f => Sys2Proof.Machine.execVmxq f s
  | .vmxd f => Sys2Proof.Machine.execVmxd f s
  | .vprune f => Sys2Proof.Machine.execVprune f s
  | .vrng f => Sys2Proof.Machine.execVrng f s
  | .ewin f => Sys2Proof.Machine.execEwin f s
  | .eprec f => Sys2Proof.Machine.execEprec f s
  | .eround f => Sys2Proof.Machine.execEround f s
  | .esig f => Sys2Proof.Machine.execEsig f s
  | .eld f => Sys2Proof.Machine.execEld f s
  | .eldn f => Sys2Proof.Machine.execEldn f s
  | .est f => Sys2Proof.Machine.execEst f s
  | .vld f => Sys2Proof.Machine.execVld f s
  | .vst f => Sys2Proof.Machine.execVst f s
  | .vatom f => Sys2Proof.Machine.execVatom f s
  | .vlds f => Sys2Proof.Machine.execVlds f s
  | .vsts f => Sys2Proof.Machine.execVsts f s
  | .vatoms f => Sys2Proof.Machine.execVatoms f s
  | .vmcast f => Sys2Proof.Machine.execVmcast f s
  | .vprf f => Sys2Proof.Machine.execVprf f s
  | .vfence f => Sys2Proof.Machine.execVfence f s
  | .vstage ew imm => Sys2Proof.Machine.execVstage ew imm s
  | .softLd f => Sys2Proof.Machine.execSoftLd f s
  | .softSt f => Sys2Proof.Machine.execSoftSt f s
  | .softHarden f => Sys2Proof.Machine.execSoftHarden f s
  | .softLdg f => Sys2Proof.Machine.execSoftLdg f s
  | .vballot f => Sys2Proof.Machine.execVballot f s
  | .vrank f => Sys2Proof.Machine.execVrank f s
  | .vswz f => Sys2Proof.Machine.execVswz f s
  | .vbcast f => Sys2Proof.Machine.execVbcast f s
  | .vred f => Sys2Proof.Machine.execVred f s
  | .vscan f => Sys2Proof.Machine.execVscan f s
  | .mand f => Sys2Proof.Machine.execMand f s
  | .mor f => Sys2Proof.Machine.execMor f s
  | .mxor f => Sys2Proof.Machine.execMxor f s
  | .mnot f => Sys2Proof.Machine.execMnot f s
  | .mmov f => Sys2Proof.Machine.execMmov f s
  | .vsync f => Sys2Proof.Machine.execVsync f s
  | .vput f => Sys2Proof.Machine.execVput f s
  | .lif f => Sys2Proof.Machine.execLif f s
  | .lelse f => Sys2Proof.Machine.execLelse f s
  | .lfi f => Sys2Proof.Machine.execLfi f s
  | .ldo f => Sys2Proof.Machine.execLdo f s
  | .lwhile f => Sys2Proof.Machine.execLwhile f s
  | .lod f => Sys2Proof.Machine.execLod f s
  | .lret f => Sys2Proof.Machine.execLret f s
  | .lhome f => Sys2Proof.Machine.execLhome f s
  | .lfmt f => Sys2Proof.Machine.execLfmt f s
  | .ltrap f => Sys2Proof.Machine.execLtrap f s
  | .lnop f => Sys2Proof.Machine.execLnop f s
  | .vaway f => Sys2Proof.Machine.execVaway f s
  | .vrdx f => Sys2Proof.Machine.execVrdx f s
  | .blockStart team => Sys2Proof.Machine.execBlockStart team s
  | .deliver n => Sys2Proof.Machine.execDeliver n s
  | .perform n => Sys2Proof.Machine.execPerform n s
  | .continuationDeliver n => Sys2Proof.Machine.execContinuationDeliver n s
  | .visitorStart die core => Sys2Proof.Machine.execVisitorStart die core s
  | .returnMerge n => Sys2Proof.Machine.execReturnMerge n s
  | .operandLogReplay team slot => Sys2Proof.Machine.execOperandLogReplay team slot s
  | .jobRelease cluster job => Sys2Proof.Machine.execJobRelease cluster job s
  | .chainStart cluster ch => Sys2Proof.Machine.execChainStart cluster ch s
  | .kettleFetch cluster ch => Sys2Proof.Machine.execKettleFetch cluster ch s
  | .linear cluster ch r lo n => Sys2Proof.Machine.execLinear cluster ch r lo n s
  | .tile cluster ch r lo n => Sys2Proof.Machine.execTile cluster ch r lo n s
  | .gather cluster ch r lo n => Sys2Proof.Machine.execGather cluster ch r lo n s
  | .arrive cluster ch r => Sys2Proof.Machine.execArrive cluster ch r s
  | .fill cluster ch r lo n => Sys2Proof.Machine.execFill cluster ch r lo n s
  | .recordRetire cluster ch r => Sys2Proof.Machine.execRecordRetire cluster ch r s
  | .holderGrant cluster => Sys2Proof.Machine.execHolderGrant cluster s
  | .mmaJob cluster job n => Sys2Proof.Machine.execMmaJob cluster job n s
  | .bputJob cluster job n => Sys2Proof.Machine.execBputJob cluster job n s
  | .accldJob cluster job n => Sys2Proof.Machine.execAccldJob cluster job n s
  | .accstJob cluster job n => Sys2Proof.Machine.execAccstJob cluster job n s
  | .mxreqJob cluster job n => Sys2Proof.Machine.execMxreqJob cluster job n s
  | .jobEnd cluster job => Sys2Proof.Machine.execJobEnd cluster job s
  | .steepApply caddy => Sys2Proof.Machine.execSteepApply caddy s
  | .faultQueuePost part n => Sys2Proof.Machine.execFaultQueuePost part n s
  | .sweepComplete part n => Sys2Proof.Machine.execSweepComplete part n s
  | .contextImageWrite gang => Sys2Proof.Machine.execContextImageWrite gang s
  | .quarantineRelease cluster n => Sys2Proof.Machine.execQuarantineRelease cluster n s
  | .dieReport die => Sys2Proof.Machine.execDieReport die s
  | .dealRound part => Sys2Proof.Machine.execDealRound part s
  | .launchAccept part => Sys2Proof.Machine.execLaunchAccept part s
  | .completionRecord part => Sys2Proof.Machine.execCompletionRecord part s
  | .budgetPeriod => Sys2Proof.Machine.execBudgetPeriod s
  | .pcreate ok => Sys2Proof.Machine.execPcreate ok s
  | .pdestroy ok => Sys2Proof.Machine.execPdestroy ok s
  | .grant ok => Sys2Proof.Machine.execGrant ok s
  | .revoke ok => Sys2Proof.Machine.execRevoke ok s
  | .kill ok => Sys2Proof.Machine.execKill ok s
  | .save ok => Sys2Proof.Machine.execSave ok s
  | .statesync ok => Sys2Proof.Machine.execStatesync ok s
  | .quote ok => Sys2Proof.Machine.execQuote ok s
  | .peerwin ok => Sys2Proof.Machine.execPeerwin ok s
  | .evbase part val => Sys2Proof.Machine.execEvbase part val s
  | .evset part val => Sys2Proof.Machine.execEvset part val s
  | .evclr part val => Sys2Proof.Machine.execEvclr part val s
  | .wdtag part val => Sys2Proof.Machine.execWdtag part val s
  | .fqdone part val => Sys2Proof.Machine.execFqdone part val s
  | .rtail part q val => Sys2Proof.Machine.execRtail part q val s
  | .fqctl part val => Sys2Proof.Machine.execFqctl part val s
  | .elctl part val => Sys2Proof.Machine.execElctl part val s
  | .cctl part val => Sys2Proof.Machine.execCctl part val s
  | .rctl part q val => Sys2Proof.Machine.execRctl part q val s
  | .bstat part val => Sys2Proof.Machine.execBstat part val s
  | .mstatus => Sys2Proof.Machine.execMstatus s
  | .registerWrite window off val => Sys2Proof.Machine.execRegisterWrite window off val s
  | .powerOn => Sys2Proof.Machine.execPowerOn s
  | .perst => Sys2Proof.Machine.execPerst s
  | .powerLoss => Sys2Proof.Machine.execPowerLoss s
  | .watchdogExpiry rom image signature key => Sys2Proof.Machine.execWatchdogExpiry rom image signature key s
  | .thermalTrip die => Sys2Proof.Machine.execThermalTrip die s
  | .data port flit => Sys2Proof.Machine.execData port flit s
  | .idle port flit => Sys2Proof.Machine.execIdle port flit s
  | .write port => Sys2Proof.Machine.execWrite port s
  | .reduce port => Sys2Proof.Machine.execReduce port s
  | .done port => Sys2Proof.Machine.execDone port s
  | .refuse port => Sys2Proof.Machine.execRefuse port s
  | .replayTimeout port => Sys2Proof.Machine.execReplayTimeout port s
  | .linkFail port => Sys2Proof.Machine.execLinkFail port s
  | .portTraining port ok node => Sys2Proof.Machine.execPortTraining port ok node s
  | .trainingRetry port => Sys2Proof.Machine.execTrainingRetry port s
  | .responseTimeout port tag => Sys2Proof.Machine.execResponseTimeout port tag s
  | .cmddoor link => Sys2Proof.Machine.execCmddoor link s
  | .inputWithinRange rom image signature key site => Sys2Proof.Machine.execInputWithinRange rom image signature key site s
  | .ceil part k val => Sys2Proof.Machine.execCeil part k val s
  | .watchdogWrite => Sys2Proof.Machine.execWatchdogWrite s
  | .measExtension j digest => Sys2Proof.Machine.execMeasExtension j digest s
  | .scrubbing n => Sys2Proof.Machine.execScrubbing n s
  | .fatalError part unit => Sys2Proof.Machine.execFatalError part unit s

end Sys2Proof.Machine
end

