-- ==== Sys2Proof/Machine/Schedule.lean ====
section
/-!
DEFINITION. The schedule: which part of the machine moves next (10/R261, R263), the moves that are no instruction, and the
passing of time. Also the placing of a program in a machine, for `State.withFetchWord`.
-/

namespace Sys2Proof.Machine

/-! ### Moves outside the program -/

/-- The entry that a load performed ahead would be, at a place. -/
def State.aheadEntry (s : State) (t : Nat) (va : DWord) (n : Nat) (p : Dest × Nat) : Entry :=
  { id := s.nextId, owner := .s t, team := some t, part := s.partOf t, die := dieOfCore (s.team t).core, dest := p.1,
    addr := p.2, va := va, op := .load n, ret := .none, lane := none, rpage := none }

/-- Performing a load of the S-stream ahead of the instructions before it (10/R268): where the orders of the stream let a
load be entered now, its queue is empty, and its line lets it be performed. -/
def State.performAhead (s : State) (t : Nat) (va : DWord) (n : Nat) (spad : Bool) : State :=
  let place : Option ((Dest × Nat) × State) :=
    if spad then
      match s.sSpad t va n true false with
      | .ok _ s' => some ((.bank (s.team t).gang, va.toNat), s')
      | .no _ => none
    else
      match s.sGlobal t va n { r := true } with
      | .ok tl s' => some ((s.part (s.partOf t)).at tl va n, s')
      | .no _ => none
  match place with
  | none => s
  | some (p, s') =>
    let e := s'.aheadEntry t va n p
    if !s.sMay t true false || p.1 == .gone || s'.fwd.any (·.sameQueue e) || !s'.mayPerform s'.arr.length e ||
        s'.pcieHeld e.part p.1 then s
    else
      (s'.pcie e.part p.1 n).modTeam t (fun T =>
        { T with early := { dest := p.1, addr := p.2, bytes := s'.readAt e.part p.1 p.2 n } :: T.early })

/-- Whether a stream's next access may have its walk read ahead: no order of the issue point holds it back (16/R420,
10/R272). -/
def State.mayWalk (s : State) (cur : Cur) : Bool :=
  match cur with
  | .s t => s.onCore t && s.sMay t true true
  | .l t => s.onCore t && s.mayEnter t (s.team t).lOrd true true
  | .v v => match s.visitors[v]? with
    | some V => V.alive && !V.halted && s.mayEnter V.cont.team V.ord true true
    | none => false
  | .none => true

/-- Whether a walk's reads for a stream would enter behind an entry of its team that is still to be performed. -/
def State.walkHeld (s : State) (cur : Cur) (reads : List Nat) : Bool :=
  match cur with
  | .s t | .l t => walkBlocked (s.teamQueue t (dieOfCore (s.team t).core)) reads
  | .v v => match s.visitors[v]? with
    | some V => walkBlocked (s.teamQueue V.cont.team (dieOfCore V.core)) reads
    | none => false
  | .none => false

/-- Whether a team's S-stream may perform loads ahead: it is not held, and no trap of it is to be delivered. -/
def State.mayAhead (s : State) (t n : Nat) : Bool :=
  let T := s.team t
  s.onCore t && T.shold.isNone && !T.trapDue && (n == 1 || n == 2 || n == 4 || n == 8)

/-- Moves that no instruction makes: what is read, walked or written ahead (10/R268, R276, 16/R420), evictions (16/R418,
10/R279), errors that arise (15/R399), and a port's next flit (16/R427). -/
def State.moveOther (s0 : State) (m : Mover) : State :=
  let s := { s0 with cur := .none }
  match m with
  | .early t va n spad => if s.mayAhead t n then { s with cur := .s t }.performAhead t va n spad else s
  | .walk cur p va => if s.mayWalk cur then s.walkAhead cur p va (s.walkHeld cur) else s
  | .kread c ch r lo n => s.kAhead c ch r lo n
  | .jread c job space va n => s.jobAhead c job space va n
  | .jwrite c job n => s.jobWriteOut c job n
  | .evictL1 c n => s.modCore c (fun k => { k with l1 := removeAt k.l1 n })
  | .evictL2 d n => s.modDie d (fun k => { k with l2 := removeAt k.l2 n })
  | .evictRec c n => s.modCluster c (fun k => { k with recs := removeAt k.recs n })
  -- an error that arises under an access that has been checked is met by none
  | .upset u i lo n => if s.underRead u i lo n then s else { s with bad := { unit := u, inst := i, lo := lo, len := n } :: s.bad }
  | .corrected u die pa =>
    match s.partOfDie die with
    | some p => s.postError p 1 u die (if u = 0 then pa else 0) 0 0 0xFFFFFFFF
    | none => s
  | .send p => s.modPort p (fun P => P.send s.time)
  | _ => s

/-! ### The default schedule -/

def evs (l : List Instr) : List Mover := l.map (fun i => .ev i 0)

/-- Moves of a team: its streams, the start of a block, the replay of its slots. -/
def teamMoves (t : Nat) : List Mover :=
  [.s t 0, .ev (.blockStart t) 0, .l t 0] ++ evs ((List.range 4).map (.operandLogReplay t))

/-- Moves of a record of a channel. -/
def recordMoves (c ch r : Nat) (x : KRec) : List Instr :=
  let copy (f : Nat → Nat → Instr) : List Instr := x.todo.take 1 |>.map (fun i => f i.1 (i.2 - i.1))
  (match kType x.image with
   | 0 => copy (.linear c ch r)
   | 1 => copy (.tile c ch r)
   | 2 => copy (.gather c ch r)
   | 3 => if x.todo.isEmpty then [] else [.arrive c ch r]
   | _ => copy (.fill c ch r)) ++ [.recordRetire c ch r]

/-- Moves of a cluster's kettle and engine. -/
def State.clusterMoves (s : State) (c : Nat) : List Instr :=
  let C := s.cluster c
  let chans := (List.range 8).filter (fun ch => !(vget C.channels ch).isEmpty)
  let job (n : Nat) (j : Job) : List Instr :=
    [match j.kind with
     | .mma => .mmaJob c n 1
     | .bput => .bputJob c n 1
     | .accld => .accldJob c n 1
     | .accst => .accstJob c n 1
     | .mxreq => .mxreqJob c n 1,
     .jobEnd c n]
  let count := C.jobs.length + (s.kettleRecs c).length
  (if C.jobs.isEmpty then [] else [.holderGrant c]) ++ (List.range count).map (.jobRelease c) ++
    chans.flatMap (fun ch => [.chainStart c ch, .kettleFetch c ch] ++
      (match s.walking c ch with
       | some k => k.recs.zipIdx.flatMap (fun x => if x.1.live then recordMoves c ch x.2 x.1 else [])
       | none => [])) ++
    C.jobs.zipIdx.flatMap (fun x => job x.2 x.1) ++ (if C.quarantine.isEmpty then [] else [.quarantineRelease c 0])

/-- Moves of a partition's distributor and queues, and of its dies. -/
def State.partMoves (s : State) (p : Nat) : List Instr :=
  let P := s.part p
  if P.state == .absent then []
  else
    [.launchAccept p, .dealRound p, .completionRecord p, .faultQueuePost p 0, .sweepComplete p 0] ++
      (List.range P.dieCount).map (fun d => .dieReport (P.dieFirst + d))

/-- Moves of the ways of continuations: each die starts what may on its first free core. -/
def State.roamMoves (s : State) : List Instr :=
  (if s.channel.isEmpty then [] else [.continuationDeliver 0, .returnMerge 0]) ++
    (List.range 8).filterMap (fun d =>
      if (s.die d).inbox.isEmpty then none
      else
        ((List.range 36).map (· + 36 * d)).find? (fun c => s.works c && 0 < s.freeSlots c) |>.map (.visitorStart d))

/-- A round over everything that can move by itself. -/
def State.round (s : State) : List Mover :=
  (List.range s.teams.length).flatMap (fun t => if (s.team t).resident then teamMoves t else []) ++
    evs (if s.fwd.isEmpty then [] else [.deliver 0]) ++ evs ((List.range s.arr.length).map .perform) ++
    ((List.range s.visitors.length).map (fun v => .v v 0)) ++ evs s.roamMoves ++
    evs ((List.range 72).flatMap s.clusterMoves) ++ evs ((List.range 8).flatMap s.partMoves) ++
    evs ((List.range s.caddySets.length).flatMap (fun k =>
      (List.range (s.caddies k).length).map (fun j => .steepApply (64 * k + j)))) ++
    evs ((List.range s.gangs.length).filterMap (fun g =>
      if (s.gang g).phase == .halting then some (.contextImageWrite g) else none)) ++
    ((List.range 16).filterMap (fun p => if (s.port p).up then some (.send p) else none))

/-- The move that a step makes: a budget period that is due comes first (17/R445), then the head of the agenda, and without
one the next of a round. -/
def State.mover (s : State) : Mover × State :=
  if s.period < s.time.toNat / 10000 then (.ev .budgetPeriod 0, s)
  else
    match s.agenda with
    | m :: r => (m, { s with agenda := r })
    | [] =>
      let l := s.round
      ((l[s.rotor % l.length]?).getD (.ev .budgetPeriod 0), { s with rotor := s.rotor + 1 })

/-- Time passes with each step (01/R23). -/
def State.tick (s : State) : State :=
  { s with touched := [], time := s.time + (Config.elapsed s.freeCtr).setWidth 64, freeCtr := s.freeCtr + 1 }

/-! ### Placing an instruction where the next step fetches it -/

/-- Physical addresses of the tables and of the instruction; the page that holds it maps to itself. -/
def probeRoot : Nat := 0x10000
def probeTable : Nat := 0x20000
def probeCode : Nat := 0x40000

/-- Partition 0 on die 0 with these tables, no budget of it spent. -/
def probePart : Part :=
  { Part.reset with
    state := .ready, dieCount := 1, ptroot := BitVec.ofNat 64 (probeRoot + 1),
    budgets := Vector.replicate 6 { Budget.reset with ceil := 0xFFFFFFFF, nextCeil := 0xFFFFFFFF, fuse := 0xFFFFFFFF } }

/-- A supervisor launch of one team of 32 lanes with 128 registers. -/
def probeDesc : Desc :=
  { Desc.blank with
    sentry := BitVec.ofNat 64 probeCode, lbase := BitVec.ofNat 64 probeCode, teams := 1, nmax := 128, n0 := 128,
    w := 32, sup := true, lcirc := 1 }

/-- A team that is about to issue the instruction at the code address, on its S-stream or, as the first instruction of a
block, on its L-stream. -/
def probeTeam (l g : Nat) (lane : Bool) : Team :=
  let q : LQ := { index := 0, params := Vector.replicate 16 0, rkey := 0, migctl := 0, n := 128, sMark := 0, low := 0 }
  { Team.start l g 0 0 0 probeDesc with blk := if lane then some (Blk.start q 32 0) else none }

/-- A machine whose next step fetches the bytes of an instruction. -/
def State.placeCode (s : State) (lane : Bool) (bs : List Byte) : State :=
  let l := s.launches.length
  let g := s.gangs.length
  let t := s.teams.length
  let L : Launch := { Launch.blank with desc := probeDesc, phase := .dealt, circles := [.empty], nextGang := 1 }
  let G : Gang :=
    { Gang.blank with
      launch := l, phase := .resident, cores := [0], teams := [t],
      circles := { members := [0], arrived := [], phase := 0 } :: List.replicate 15 .empty }
  let mem := ((s.mem.writeN probeRoot (leBytes 8 (probeTable + 1))).writeN probeTable (leBytes 8 0x1F)).writeN probeCode bs
  { s with
    stage := .ready, parts := vmod s.parts 0 (fun _ => probePart), dies := vmod s.dies 0 (fun d => { d with l2 := [] }),
    cores := vmod s.cores 0 (fun c => { c with l1 := [] }), bad := [], mem := mem,
    launches := s.launches ++ [L], gangs := s.gangs ++ [G], teams := s.teams ++ [probeTeam l g lane],
    period := s.time.toNat / 10000, agenda := (if lane then .l t 1 else .s t 1) :: s.agenda }

end Sys2Proof.Machine
end

