-- ==== Sys2Proof/Machine/Step.lean ====
section
/-!
DEFINITION. One step of the machine: the schedule's next move, the fetch of an instruction, and its
meaning (10/R263). What a step adds around `exec` stands in Fetch.lean and Schedule.lean.
-/

namespace Sys2Proof.Machine

open Sys2Proof

/-- What follows a meaning: the state is changed where there is one. -/
def andThen (o : Host.Outcome State Fault Refusal) (f : State → State) :
    Host.Outcome State Fault Refusal :=
  match o with
  | .next s => .next (f s)
  | o => o

/-- An issue of the current stream: the fetched instruction is executed, or the fetch has ended the
step. What follows is told the instruction. -/
def issue (r : Fetched) (f : Option Instr → State → State) : Host.Outcome State Fault Refusal :=
  match r with
  | .stop s => .next (f none s)
  | .instr i s => andThen (exec i s) (f (some i))

/-- What a team's instruction that has completed wrote is whole again (15/R399). -/
def State.healWrites (s : State) (t : Nat) (before : Team) (i : Option Instr) : State :=
  match i with
  | some i =>
    let T := s.team t
    if T.phase == before.phase && T.spc != before.spc then s.healS t (sWrites i) else s
  | none => s

/-- The S-stream of a team moves. -/
def stepS (s : State) (t choice : Nat) : Host.Outcome State Fault Refusal :=
  match s.beforeS t choice with
  | some s => .next s
  | none =>
    let s := ({ s with cur := .s t, choice := choice }).clearHolds
    issue (s.fetchS t) (fun i s' => (((s'.healWrites t (s.team t) i).afterS t).keepEarly t i).endWalks (.s t))

/-- The L-stream of a team moves. -/
def stepL (s : State) (t choice : Nat) : Host.Outcome State Fault Refusal :=
  match s.beforeL t with
  | some s => .next s
  | none =>
    let s := ({ s with cur := .l t, choice := choice }).clearHolds
    match s.lctx with
    | some C => issue (s.fetchL C) (fun _ s => s.endWalks (.l t))
    | none => .next s

/-- A visitor moves. -/
def stepV (s : State) (v choice : Nat) : Host.Outcome State Fault Refusal :=
  match s.beforeV v with
  | some s => .next s
  | none =>
    let s := ({ s with cur := .v v, choice := choice }).clearHolds
    match s.lctx with
    | some C => issue (s.fetchL C) (fun _ s => s.endWalks (.v v))
    | none => .next s

/-- A move of the schedule. -/
def move (m : Mover) (s : State) : Host.Outcome State Fault Refusal :=
  match m with
  | .s t c => stepS s t c
  | .l t c => stepL s t c
  | .v v c => stepV s v c
  | .ev i c => exec i { s with cur := .none, choice := c }
  | m => .next (s.moveOther m)

/-- One step: a move, and time passes. What the move has entered gives up loads performed ahead at its lines. -/
def step (s : State) : Host.Outcome State Fault Refusal :=
  let (m, s) := s.mover
  andThen (move m s) (fun s' => (s'.dropEarly s.nextId).tick)

/-- The machine with an instruction placed so that the next step fetches and runs it: words of up to 32 bits on the
S-stream of a team, longer ones on its L-stream. It stands for the creation of a partition and the load of a program
(17/R434, 18/R453), which no step of a machine at reset has done yet. -/
def State.withFetchWord (s : State) (nbits w : Nat) : State :=
  if nbits ≤ 32 then s.placeCode false (bytesOfNat 4 w) else s.placeCode true (bytesOfNat 12 w)

end Sys2Proof.Machine
end

