-- ==== Sys2Proof/Safety.lean ====
section
/-!
DEFINITION. What claims are stated in terms of: the canonical form that the machine's memories keep, a safe step, the
stream that executes an instruction, and what it is for an S or an L instruction to complete, to trap and to leave
the rest of the machine alone.
-/

namespace Sys2Proof.Machine

/-! ### The machine -/

/-- The memories of the part are in canonical form, so that equal memories are equal lists: HBM4E, host memory, every
scratchpad, every accumulator store and B-store, and the engine state of a saved gang. -/
def State.memOk (s : State) : Prop :=
  s.mem.wf = true ∧ s.hostMem.wf = true ∧
    (∀ G ∈ s.gangs, G.spad.wf = true ∧ ∀ e, G.engine = some e → e.1.wf = true ∧ e.2.wf = true) ∧
    ∀ c, (s.cluster c).acc.wf = true ∧ (s.cluster c).bstore.wf = true

/-- A step is safe when it answers a next state: it neither faults nor refuses. -/
def State.safeStep (s : State) : Prop := ∃ t, step s = .next t

/-- What two states have in common when only teams and partitions' budgets differ: everything else, memory included. -/
def State.sameButTeams (s s' : State) : Prop :=
  s' = { s with teams := s'.teams, parts := s'.parts } ∧
    ∀ p, s'.part p = { s.part p with budgets := (s'.part p).budgets, ever := (s'.part p).ever }

/-- Every team but one is unchanged. -/
def State.sameOthers (s s' : State) (t : Nat) : Prop := ∀ u, u ≠ t → s'.teams[u]? = s.teams[u]?

/-- Every byte of memory reads as before: HBM4E, host memory and every scratchpad. -/
def State.sameMemory (s s' : State) : Prop :=
  (∀ a, s'.mem.read a = s.mem.read a) ∧ (∀ a, s'.hostMem.read a = s.hostMem.read a) ∧
    ∀ g a, (s'.gang g).spad.read a = (s.gang g).spad.read a

/-! ### S instructions -/

/-- The S-stream of team `t`, whose state is `T`, executes, and no load in flight will write one of the registers `rs`
that the instruction names (07/R159). -/
def State.runsS (s : State) (t : Nat) (T : Team) (rs : List (BitVec 6)) : Prop :=
  s.cur = .s t ∧ s.teams[t]? = some T ∧ T.busy rs = false

/-- The end of an S instruction of team `t`: from `s1`, which holds its effects, the S-PC goes to `pc`, the team waits for
nothing, and one instruction counts against the ISSUE budget of its partition (17/R445). -/
def State.sDone (s s1 : State) (t : Nat) (pc : DWord) : State :=
  (s1.modTeam t (fun T => { T with spc := pc, wait := .none, blocked := false })).charge (s.partOf t) 0 1

/-- The same for an instruction that changes only its team, to `U`, and goes on at the next word. -/
def State.sNext (s : State) (t : Nat) (U : Team) : State := s.sDone (s.setTeam t U) t (U.spc + 4)

/-- What a precise S trap with a handler leaves of its team (03/R54, R55): the trap registers, the diversion to HANDLER,
the block and the lane queue set aside; `m7` and TLPC keep their values. -/
structure SDiverted (T U : Team) (c : Cause) (a : DWord) : Prop where
  spc : U.spc = T.handler
  phase : U.phase = .trapped
  tcause : U.tcause = BitVec.ofNat 32 (causeCode c)
  taddr : U.taddr = a
  tspc : U.tspc = T.spc
  tlog : U.tlog = 0
  resume : U.resume = T.spc
  laneQ : U.laneQ = [] ∧ U.asideQ = T.laneQ
  blk : U.blk = none ∧ U.held.isSome = T.blk.isSome
  kept : U.s = T.s ∧ U.regs = T.regs ∧ U.tlpc = T.tlpc ∧ U.tseq = T.tseq ∧ U.handler = T.handler ∧
    U.fpstat = T.fpstat ∧ U.mstat = T.mstat ∧ U.nfc = T.nfc ∧ U.rkey = T.rkey ∧ U.mcr = T.mcr ∧
    U.migctl = T.migctl ∧ U.slots = T.slots ∧ U.tok = T.tok

/-- An instruction traps precisely: the outcome is a next state in which team `t`, which has a handler and was RUNNING, has
been diverted, and memory reads as before. -/
def TrapsS (o : Host.Outcome State Fault Refusal) (s : State) (t : Nat) (T : Team) (c : Cause) (a : DWord) : Prop :=
  ∃ s' U, o = .next s' ∧ s'.teams[t]? = some U ∧ SDiverted T U c a ∧ s.sameMemory s' ∧ s.sameOthers s' t

/-- A team that an S trap diverts: it has a handler and is not TRAPPED (03/R57). -/
def Team.hasHandler (T : Team) : Prop := T.handler ≠ 0 ∧ T.phase = .running

/-! ### L instructions -/

/-- The current L-stream or visitor issues `i` under a mask select, and `C` is what it then works on: the chain has taken the
instruction, no operand-log slot holds it back (03/R73, R75, R80), and C.eff is the effective mask (02/R29), the mask register that
selects it being sound in the active lanes (15/R399). -/
def State.issuesL (s : State) (i : Instr) (ms : BitVec 3) (C : LCtx) : Prop :=
  ∃ D b, s.lctx = some D ∧
    (D.blk.restart && !(latchReads i).isEmpty && D.blk.chainCount != 0) = false ∧
    (!D.visiting && (s.team D.t).slotsHold i (touch i (s.softD D.t i)) (s.softD D.t i)) = false ∧
    D.blk.chain i = some b ∧ D.effOf 0 &&& s.selBroken D ms = 0 ∧ C = { D with blk := b, eff := D.effOf ms }

/-- The registers that `i` names pass the checks of 03/R65, R78 and 14/R368. -/
def State.regsOk (s : State) (i : Instr) (C : LCtx) : Prop := C.regCheck (touch i (s.softD C.t i)) = none

/-- No active lane reads a register of `i` that has an uncorrectable error (15/R399). -/
def State.readsSound (s : State) (i : Instr) (C : LCtx) : Prop := s.lBroken C i (s.softD C.t i) = 0

/-- `i` is issued and its registers are there and sound. -/
def State.runsL (s : State) (i : Instr) (ms : BitVec 3) (C : LCtx) : Prop :=
  s.issuesL i ms C ∧ s.regsOk i C ∧ s.readsSound i C

/-- `i` acts on the lanes of an effective mask that is not empty. -/
def State.actsL (s : State) (i : Instr) (ms : BitVec 3) (C : LCtx) : Prop := s.runsL i ms C ∧ C.eff ≠ 0

/-- The end of an L instruction whose results stand in `C`: the block goes on at index `i`, and the passes of the
effective mask count against the ISSUE budget (02/R30, 17/R445). -/
def State.lGoto (s : State) (C : LCtx) (i : BitVec 26) : State :=
  (s.putL { C with blk := { C.blk.pass with lpc := i, redoSseq := none } }).charge C.part 0 (Mask.passes C.eff)

/-- The same at the next index. -/
def State.lDone (s : State) (C : LCtx) : State := s.lGoto C (C.blk.lpc + 1)

/-- The end of an L instruction at the next index, when it has written its destination in the lanes of `C`: `D` holds its
results, and what it wrote is whole (15/R399). -/
def State.lEnds (s : State) (i : Instr) (C D : LCtx) : State := (s.lDone D).healL C i C.eff

/-- Word `j` of a destination holds `x` in a lane: the `v` register `j` after the one named (when the team has it), cell `j`
of an elastic register, PRC, and the latch that stands beside or alone. -/
def LCtx.dstHolds (C : LCtx) (d : Dst) (j lane : Nat) (x : Word) : Prop :=
  (∀ n, dstReg d = some (.v n) → ∀ r, C.regs.v[n.toNat + j]? = some r → r.at lane = x) ∧
    (∀ n, dstReg d = some (.e n) → ∀ r, C.regs.v[C.cellOf n.toNat + j]? = some r → r.at lane = x) ∧
    (j = 0 → dstReg d = some .prc → C.regs.prc.at lane = x) ∧
    (j = 0 → ∀ k, dstLatch d = some k → k < 4 → C.blk.latchAt k lane = x)

/-- Words of a destination: the cells of an elastic register, else what the instruction writes. -/
def LCtx.dstWords (C : LCtx) (d : Dst) (cnt : Nat) : Nat :=
  match dstReg d with
  | some (.e k) => C.eCells k.toNat
  | _ => cnt

/-- Every lane of the effective mask holds, in the words of a destination, what `val` gives it. -/
def LCtx.wrote (C : LCtx) (d : Dst) (cnt : Nat) (val : Nat → List Word) : Prop :=
  ∀ lane ∈ C.lanes, ∀ j < C.dstWords d cnt, C.dstHolds d j lane (((val lane)[j]?).getD 0)

/-- A destination that takes PRC takes only well-formed values: an ill-formed one traps (03/R71). -/
def LCtx.prcFits (C : LCtx) (d : Dst) (val : Nat → List Word) : Prop :=
  dstReg d = some .prc → ∀ lane ∈ C.lanes, prcOk (((val lane)[0]?).getD 0) = true

/-- What an instruction leaves of the lane state when it writes `cnt` words of a destination under C.eff: every other
register, every other lane of the destination, and the masks, window, stack, FMT, staging and result slots. -/
structure LFrame (C D : LCtx) (d : Dst) (cnt : Nat) : Prop where
  ident : D.who = C.who ∧ D.t = C.t ∧ D.visiting = C.visiting ∧ D.part = C.part ∧ D.eff = C.eff ∧ D.w = C.w ∧ D.n = C.n
  others : ∀ n : Nat, (∀ k, dstReg d = some (.v k) → n < k.toNat ∨ k.toNat + cnt ≤ n) →
    (∀ k, dstReg d = some (.e k) → n < C.cellOf k.toNat ∨ C.cellOf k.toNat + C.eCells k.toNat ≤ n) →
    D.regs.v[n]? = C.regs.v[n]?
  lanes : ∀ (n : Nat) (r r' : VReg), C.regs.v[n]? = some r → D.regs.v[n]? = some r' →
    ∀ lane, lane < C.w → lane < 1024 → lane ∉ C.lanes → r'.at lane = r.at lane
  prc : dstReg d ≠ some .prc → D.regs.prc = C.regs.prc
  masks : D.regs.m = C.regs.m
  window : D.wcodes = C.wcodes
  blk : D.blk = { C.blk with latch := D.blk.latch }
  latches : dstLatch d = none → D.blk.latch = C.blk.latch
  slots : D.slots = C.slots

end Sys2Proof.Machine
end

