-- ==== Sys2Proof/WellFormed.lean ====
section
/-!
DEFINITION. Well-formed instructions: those whose operand fields pass the decode checks of 05/R115.
A step of another agent has no encoding and is well formed.
-/

namespace Sys2Proof

/-- Whether the decoder's checks accept an instruction's fields. -/
def Instr.wellFormed (i : Instr) : Bool := checkInstr i == none

/-- The same as a proposition. -/
abbrev WellFormed (i : Instr) : Prop := i.wellFormed = true

end Sys2Proof
end

