-- ==== Sys2Proof/Certificates/Slice0/Obligations.lean ====
section
/-!
DEFINITION. The statements for the provers. Before each group stand the tables, written from the rules, that its
statements use.
-/

open Sys2Proof Sys2Proof.Machine

namespace Sys2Proof.Claims

/-! ## Scalar arithmetic: what the rules give, in exact integer arithmetic -/

/-- One or zero. -/
def truth (p : Bool) : Int := if p then 1 else 0

/-- The destination, the registers named, and the exact result (to be reduced modulo 2^32) of a scalar arithmetic
instruction (07/R153 to R155), from the values of the registers. None for another instruction, and for a division by 0. -/
def scalarOut (i : Instr) (x : BitVec 6 → Word) : Option (BitVec 6 × List (BitVec 6) × Int) :=
  let u (r : BitVec 6) : Nat := (x r).toNat
  let g (r : BitVec 6) : Int := (x r).toInt
  let sh (r : BitVec 6) : Nat := u r % 32
  match i with
  | .add d a b => some (d, [d, a, b], u a + u b)
  | .sub d a b => some (d, [d, a, b], (u a : Int) - u b)
  | .mul d a b => some (d, [d, a, b], u a * u b)
  | .mulh d a b => some (d, [d, a, b], g a * g b / 2 ^ 32)
  | .mulhu d a b => some (d, [d, a, b], (u a * u b / 2 ^ 32 : Nat))
  | .div d a b => if u b = 0 then none else some (d, [d, a, b], (g a).tdiv (g b))
  | .divu d a b => if u b = 0 then none else some (d, [d, a, b], (u a / u b : Nat))
  | .rem d a b => if u b = 0 then none else some (d, [d, a, b], (g a).tmod (g b))
  | .remu d a b => if u b = 0 then none else some (d, [d, a, b], (u a % u b : Nat))
  | .and d a b => some (d, [d, a, b], (Nat.land (u a) (u b) : Nat))
  | .or d a b => some (d, [d, a, b], (Nat.lor (u a) (u b) : Nat))
  | .xor d a b => some (d, [d, a, b], (Nat.xor (u a) (u b) : Nat))
  | .andn d a b => some (d, [d, a, b], (Nat.land (u a) (2 ^ 32 - 1 - u b) : Nat))
  | .shl d a b => some (d, [d, a, b], (u a * 2 ^ sh b : Nat))
  | .shr d a b => some (d, [d, a, b], (u a / 2 ^ sh b : Nat))
  | .sra d a b => some (d, [d, a, b], g a / 2 ^ sh b)
  | .rot d a b => some (d, [d, a, b], (u a * 2 ^ sh b + u a / 2 ^ (32 - sh b) : Nat))
  | .min d a b => some (d, [d, a, b], if g a ≤ g b then g a else g b)
  | .minu d a b => some (d, [d, a, b], (if u a ≤ u b then u a else u b : Nat))
  | .max d a b => some (d, [d, a, b], if g a ≤ g b then g b else g a)
  | .maxu d a b => some (d, [d, a, b], (if u a ≤ u b then u b else u a : Nat))
  | .clz d a => some (d, [d, a], (if u a = 0 then 32 else 31 - Nat.log2 (u a) : Nat))
  | .popc d a => some (d, [d, a], (((List.range 32).map (fun k => u a / 2 ^ k % 2)).sum : Nat))
  | .seq d a b => some (d, [d, a, b], truth (u a = u b))
  | .sne d a b => some (d, [d, a, b], truth (u a ≠ u b))
  | .slt d a b => some (d, [d, a, b], truth (g a < g b))
  | .sltu d a b => some (d, [d, a, b], truth (u a < u b))
  | .sle d a b => some (d, [d, a, b], truth (g a ≤ g b))
  | .sleu d a b => some (d, [d, a, b], truth (u a ≤ u b))
  | .addi d a imm => some (d, [d, a], g a + imm.toInt)
  | .andi d a imm => some (d, [d, a], (Nat.land (u a) imm.toNat : Nat))
  | .ori d a imm => some (d, [d, a], (Nat.lor (u a) imm.toNat : Nat))
  | .xori d a imm => some (d, [d, a], (Nat.xor (u a) imm.toNat : Nat))
  | .shli d a n => some (d, [d, a], (u a * 2 ^ n.toNat : Nat))
  | .shri d a n => some (d, [d, a], (u a / 2 ^ n.toNat : Nat))
  | .srai d a n => some (d, [d, a], g a / 2 ^ n.toNat)
  | .roti d a n => some (d, [d, a], (u a * 2 ^ n.toNat + u a / 2 ^ (32 - n.toNat) : Nat))
  | .slti d a imm => some (d, [d, a], truth (g a < imm.toInt))
  | .lui d imm => some (d, [d], (imm.toNat * 2 ^ 12 : Nat))
  | _ => none

/-- The destination pair, the registers named, and the exact result (to be reduced modulo 2^64) of a pair instruction
(07/R156); a pair's number is that of its low register. -/
def pairOut (i : Instr) (x : BitVec 6 → Word) : Option (BitVec 6 × List (BitVec 6) × Int) :=
  let u (r : BitVec 6) : Nat := (x (r + 1)).toNat * 2 ^ 32 + (x r).toNat
  let g (r : BitVec 6) : Int := if 2 ^ 63 ≤ u r then (u r : Int) - 2 ^ 64 else u r
  let sh (r : BitVec 6) : Nat := (x r).toNat % 64
  match i with
  | .dadd d a b => some (d, [d, d + 1, a, a + 1, b, b + 1], u a + u b)
  | .dsub d a b => some (d, [d, d + 1, a, a + 1, b, b + 1], (u a : Int) - u b)
  | .dshl d a b => some (d, [d, d + 1, a, a + 1, b], (u a * 2 ^ sh b : Nat))
  | .dshr d a b => some (d, [d, d + 1, a, a + 1, b], (u a / 2 ^ sh b : Nat))
  | .dsra d a b => some (d, [d, d + 1, a, a + 1, b], g a / 2 ^ sh b)
  | .daddi d a imm => some (d, [d, d + 1, a, a + 1], g a + imm.toInt)
  | _ => none

end Sys2Proof.Claims

open Sys2Proof.Claims

/-- 07/R153 to R155: a scalar arithmetic instruction completes with its exact result modulo 2^32 in its destination; `s0`
discards it. Every other part of the state is as `State.sNext` says: the S-PC goes on and one instruction is counted. -/
def Sys2Proof.Claims.ScalarArithmetic : Prop :=
  ∀ (i : Instr) (s : State) (t : Nat) (T : Team) (d : BitVec 6) (rs : List (BitVec 6)) (v : Int),
    scalarOut i T.rd = some (d, rs, v) → s.runsS t T rs →
      exec i s = .next (s.sNext t (T.wr d (BitVec.ofInt 32 v)))

/-- 07/R156: a pair instruction completes with its exact result modulo 2^64, the low word in the even register. -/
def Sys2Proof.Claims.PairArithmetic : Prop :=
  ∀ (i : Instr) (s : State) (t : Nat) (T : Team) (d : BitVec 6) (rs : List (BitVec 6)) (v : Int),
    pairOut i T.rd = some (d, rs, v) → s.runsS t T rs →
      exec i s = .next (s.sNext t
        ((T.wr d (BitVec.ofInt 32 v)).wr (d + 1) (BitVec.ofInt 32 (v / 2 ^ 32))))

/-- 03/R58: `s0` reads as zero and discards writes; a write to another register is what it then reads as, and changes no
other register. -/
def Obligations.ScalarRegisters : Prop :=
  ∀ (T : Team) (r q : BitVec 6) (x : Word),
    T.rd 0 = 0 ∧ T.wr 0 x = T ∧ (r ≠ 0 → (T.wr r x).rd r = x) ∧ (q ≠ r → (T.wr r x).rd q = T.rd q)

/-- 07/R154: a division or remainder whose divisor is 0 traps with ARITH and writes nothing; 0x80000000 divided by -1 as signed gives
the quotient 0x80000000 and the remainder 0, and does not fault. -/
def Obligations.ScalarDivision : Prop :=
  ∀ (s : State) (t : Nat) (T : Team) (d a b : BitVec 6), s.runsS t T [d, a, b] →
    (∀ i ∈ [Instr.div d a b, .divu d a b, .rem d a b, .remu d a b], T.rd b = 0 → T.hasHandler →
      TrapsS (exec i s) s t T .arith 0) ∧
    (T.rd a = 0x80000000 → T.rd b = 0xFFFFFFFF →
      exec (.div d a b) s = .next (s.sNext t (T.wr d 0x80000000)) ∧ exec (.rem d a b) s = .next (s.sNext t (T.wr d 0)))

/-- The frame of scalar and pair arithmetic: when a next state is answered, whether the instruction completes or waits for a
load, everything but its team and the partition's budgets is unchanged, memory included; and in its team every register but
the destination, every special, every trap register, token, wait queue and lane register is unchanged. -/
def Obligations.ScalarFrame : Prop :=
  ∀ (i : Instr) (s s' : State) (t : Nat) (T : Team) (d : BitVec 6) (rs : List (BitVec 6)) (v : Int),
    s.cur = .s t → s.teams[t]? = some T → exec i s = .next s' →
    (scalarOut i T.rd = some (d, rs, v) → s.sameButTeams s' ∧ s.sameOthers s' t ∧
      ∃ U, s'.teams[t]? = some U ∧
        U = { T with s := U.s, spc := U.spc, wait := U.wait, blocked := U.blocked } ∧
        ∀ r, r ≠ d → U.rd r = T.rd r) ∧
    (pairOut i T.rd = some (d, rs, v) → s.sameButTeams s' ∧ s.sameOthers s' t ∧
      ∃ U, s'.teams[t]? = some U ∧
        U = { T with s := U.s, spc := U.spc, wait := U.wait, blocked := U.blocked } ∧
        ∀ r, r ≠ d → r ≠ d + 1 → U.rd r = T.rd r)

namespace Sys2Proof.Claims

/-! ## Specials (03/R59, R60) -/

/-- The width and the value of a special that `rdx` reads (03/R59). -/
def specialRead (s : State) (t : Nat) (T : Team) (n : Nat) : Option (Nat × Nat) :=
  match n with
  | 0x00 => some (32, T.tid)
  | 0x01 => some (32, (s.gang T.gang).num)
  | 0x02 => some (32, T.rank)
  | 0x03 => some (32, s.logicalCore (s.partOf t) T.core)
  | 0x04 => some (32, T.core / 36 - (s.part (s.partOf t)).dieFirst)
  | 0x05 => some (32, T.w)
  | 0x06 => some (64, s.time.toNat)
  | 0x07 => some (32, T.nfc.toNat)
  | 0x08 => some (32, T.fpstat.toNat)
  | 0x09 => some (32, T.mstat.toNat)
  | 0x0A => some (32, T.tcause.toNat)
  | 0x0B => some (32, T.tlpc.toNat)
  | 0x0C => some (64, T.tspc.toNat)
  | 0x0D => some (64, T.taddr.toNat)
  | 0x0E => some (32, T.tlog.toNat)
  | 0x0F => some (32, T.tseq.toNat)
  | 0x10 => some (32, T.fmtNow.toNat)
  | 0x11 => some (64, T.rkey.toNat)
  | 0x12 => some (32, T.mcr.toNat)
  | 0x13 => some (64, T.handler.toNat)
  | 0x14 => some (32, T.migctl.toNat)
  | _ => none

/-- What `wrx` makes of its team (03/R59, R60); none where it faults. FMT waits for lane work, whose accesses then count as
earlier ones of the S-stream (10/R274). -/
def specialWrite (s : State) (T : Team) (n : Nat) (x : Word) (p : DWord) : Option (Nat × Team) :=
  match n with
  | 0x07 => some (32, { T with nfc := 0 })
  | 0x08 => some (32, { T with fpstat := T.fpstat &&& ~~~(x.setWidth 5) })
  | 0x09 => some (32, { T with mstat := T.mstat &&& ~~~(x.setWidth 3) })
  | 0x10 =>
    if bitsOf x.toNat 31 8 = 0 ∧ bitsOf x.toNat 5 3 < 5 ∧ bitsOf x.toNat 2 0 < 5 ∧ T.laneQ = [] ∧ T.blk = none then
      some (32, { T with fmt := x, lMark := s.nextId })
    else none
  | 0x11 => some (64, { T with rkey := p })
  | 0x12 =>
    if bitsOf x.toNat 31 27 = 0 ∧ bitsOf x.toNat 26 24 ≠ 1 ∧ bitsOf x.toNat 26 24 ≠ 7 then some (32, { T with mcr := x })
    else none
  | 0x13 => if bitsOf p.toNat 1 0 = 0 then some (64, { T with handler := p }) else none
  | 0x14 =>
    if bitsOf x.toNat 31 6 = 0 ∧ bitsOf x.toNat 3 3 = 0 then some (32, { T with migctl := x }) else none
  | _ => none

end Sys2Proof.Claims

/-- 03/R59, 07/R157: `rdx` of every listed special completes with its value, a 32-bit one in a register, a 64-bit one in a
pair. -/
def Sys2Proof.Claims.SpecialReads : Prop :=
  ∀ (s : State) (t : Nat) (T : Team) (d : BitVec 6) (n : BitVec 8) (w v : Nat),
    specialRead s t T n.toNat = some (w, v) → (w = 64 → d.toNat % 2 = 0) →
    s.runsS t T (if w = 64 then [d, d + 1] else [d]) →
      exec (.rdx d n) s = .next (s.sNext t
        (if w = 64 then (T.wr d (BitVec.ofNat 32 v)).wr (d + 1) (BitVec.ofNat 32 (v / 2 ^ 32))
         else T.wr d (BitVec.ofNat 32 v)))

/-- 03/R59, R60, 07/R158: `wrx` completes with the special's new value: NFC cleared, sticky bits cleared where a 1 is written,
FMT, RKEY, MCR, HANDLER and MIGCTL taken when they hold no reserved value. -/
def Sys2Proof.Claims.SpecialWrites : Prop :=
  ∀ (s : State) (t : Nat) (T U : Team) (a : BitVec 6) (n : BitVec 8) (w : Nat),
    specialWrite s T n.toNat (T.rd a) (T.rd (a + 1) ++ T.rd a) = some (w, U) → (w = 64 → a.toNat % 2 = 0) →
    s.runsS t T (if w = 64 then [a, a + 1] else [a]) → exec (.wrx a n) s = .next (s.sNext t U)

/-- 03/R59, R60: a read or write of an unlisted special, a write of a read-only one and an odd register for a 64-bit one trap
with ILLEGAL; a reserved value for FMT, MCR or MIGCTL traps with RESERVED_FIELD (TADDR is the instruction's address); a
misaligned HANDLER traps with ALIGN. All write nothing. TADDR of the last is the model's choice (log entry 17). -/
def Sys2Proof.Claims.SpecialFaults : Prop :=
  ∀ (s : State) (t : Nat) (T : Team) (a : BitVec 6) (n : BitVec 8), T.hasHandler → s.runsS t T [a, a + 1] →
    (0x14 < n.toNat → TrapsS (exec (.rdx a n) s) s t T .illegal T.spc ∧
      TrapsS (exec (.wrx a n) s) s t T .illegal T.spc) ∧
    (n.toNat ≤ 6 ∨ (0x0A ≤ n.toNat ∧ n.toNat ≤ 0x0F) → TrapsS (exec (.wrx a n) s) s t T .illegal T.spc) ∧
    ((n = 0x06 ∨ n = 0x0C ∨ n = 0x0D ∨ n = 0x11 ∨ n = 0x13) → a.toNat % 2 = 1 →
      TrapsS (exec (.rdx a n) s) s t T .illegal T.spc ∧ TrapsS (exec (.wrx a n) s) s t T .illegal T.spc) ∧
    (n = 0x10 → fmtOk (T.rd a) = false → TrapsS (exec (.wrx a n) s) s t T .reservedField T.spc) ∧
    (n = 0x12 → mcrOk (T.rd a) = false → TrapsS (exec (.wrx a n) s) s t T .reservedField T.spc) ∧
    (n = 0x14 → migctlOk (T.rd a) = false → TrapsS (exec (.wrx a n) s) s t T .reservedField T.spc) ∧
    (n = 0x13 → a.toNat % 2 = 0 → (T.rdp a).toNat % 4 ≠ 0 → TrapsS (exec (.wrx a n) s) s t T .align (T.rdp a))

namespace Sys2Proof.Claims

/-! ## Accesses of the S-stream (07/R159 to R165) -/

/-- The S-stream may enter a load, or a store or atomic: no order before it holds it (10/R272). -/
def mayEnterS (s : State) (t : Nat) (load store : Bool) : Prop := s.sMay t load store = true

/-- A release of the S-stream at a scope may take place: every earlier access has been performed there (10/R273). -/
def releasedS (s : State) (t scope : Nat) : Prop := s.sReleased t scope = true

/-- The registers that an SM word names (05/R118). -/
def smNames (d : BitVec 6) (q : BitVec 5) (sz : BitVec 2) : List (BitVec 6) :=
  (if sz = 3 then [d, d + 1] else [d]) ++ [q ++ (0 : BitVec 1), q ++ (0 : BitVec 1) + 1]

/-- pair q + SignExtend(imm13). -/
def smTarget (T : Team) (q : BitVec 5) (imm : BitVec 13) : DWord :=
  (T.rd (q ++ (0 : BitVec 1) + 1) ++ T.rd (q ++ (0 : BitVec 1))) + imm.signExtend 64

/-- The registers that an atomic names: the address pair, the operand and the destination. -/
def atomNames (d a b : BitVec 6) (op : BitVec 4) : List (BitVec 6) :=
  [a, a + 1] ++ (if 12 ≤ op.toNat then [d, d + 1, b, b + 1] else [d, b])

/-- Bytes of an atomic (05/R122). -/
def atomBytes (op : BitVec 4) : Nat := if 12 ≤ op.toNat then 8 else 4

/-- The number that the bytes of a store or the operand of an atomic come from. -/
def regNum (T : Team) (r : BitVec 6) (wide : Bool) : Nat :=
  (T.rd r).toNat + if wide then (T.rd (r + 1)).toNat * 2 ^ 32 else 0

/-- What an S access leaves: from `s1`, the machine after its checks, one entry stands at the end of the forward queues; the
S-PC goes on; no register has changed; memory reads as before, for the entry is performed by a step of its own. `awaits`
says that the register of a load or atomic will be written when the entry returns. -/
def entered (o : Host.Outcome State Fault Refusal) (s1 : State) (t : Nat) (T : Team) (e : Entry) (awaits : Option (BitVec 6 × Bool)) :
    Prop :=
  ∃ s' U, o = .next s' ∧ s'.fwd = s1.fwd ++ [e] ∧ s'.nextId = s1.nextId + 1 ∧ s'.arr = s1.arr ∧
    s'.teams[t]? = some U ∧ U.spc = T.spc + 4 ∧ U.s = T.s ∧ U.regs = T.regs ∧ s1.sameMemory s' ∧ s1.sameOthers s' t ∧
    U.pend = (match awaits with | some (d, w) => [(s1.nextId, d.toNat, w)] | none => []) ++ T.pend

/-- The entry of a global access on one page: at the home of its physical address, or in host memory (10/R262, 16/R423). -/
def globalEntry (s1 : State) (t : Nat) (T : Team) (tl : Tlb) (va : DWord) (op : Acc) (ret : Ret) : Entry :=
  let pl := (s1.part (s1.partOf t)).place (tl.pa va) op.len
  { id := s1.nextId, owner := .s t, team := some t, part := s1.partOf t, die := T.core / 36, dest := pl.1,
    addr := pl.2, va := va, op := op, ret := ret, lane := none, rpage := none }

/-- The entry of a scratchpad access, at the banks of the team's gang (10/R262). -/
def spadEntry (s1 : State) (t : Nat) (T : Team) (a : DWord) (op : Acc) (ret : Ret) : Entry :=
  { id := s1.nextId, owner := .s t, team := some t, part := s1.partOf t, die := T.core / 36, dest := .bank T.gang,
    addr := a.toNat, va := a, op := op, ret := ret, lane := none, rpage := none }

/-- A load is performed as it issues: no load performed ahead of it at its place is taken (10/R268). -/
def atIssue (s : State) (T : Team) (p : Dest × Nat) (n : Nat) : Prop := s.choice < 2 ∨ T.earlyAt p.1 p.2 n = none

/-- What a load that takes one performed ahead leaves: its register holds the bytes read then, nothing is entered, and of
the loads performed ahead those at its line that were performed before it, and it, are given up. -/
def takesEarly (s1 : State) (t : Nat) (T : Team) (d : BitVec 6) (sz : BitVec 2) (x : Early) : State :=
  let U := T.wr d (BitVec.ofNat 32 (leNat x.bytes))
  s1.sNext t
    { (if sz = 3 then U.wr (d + 1) (BitVec.ofNat 32 (leNat x.bytes / 2 ^ 32)) else U) with early := earlyAfter T.early x }

/-- A scratchpad access of `n` bytes passes the checks of 07/R160: aligned, within the gang's space, for a store or atomic
clear of live barrier words, for a read clear of storage with an uncorrectable error. -/
def spadOk (s : State) (T : Team) (a : DWord) (n : Nat) (read store : Bool) : Prop :=
  a.toNat % n = 0 ∧ a.toNat + n ≤ 4096 * (s.launch (s.gang T.gang).launch).desc.spad ∧
    (store = true → ∀ w ∈ (s.gang T.gang).live, overlaps w 8 a.toNat n = false) ∧
    (read = true → ∀ b ∈ s.bad, b.unit = 2 → b.inst = T.gang → overlaps b.lo b.len a.toNat n = false)

end Sys2Proof.Claims

/-- 07/R159, 10/R262, R264: a load, store or atomic on a page that is not a REPLICA page, whose checks pass, enters one
access: a load of 1, 2, 4 or 8 bytes that will write its register, a store of the register's low bytes, or an atomic with its
operand and comparand. A load that takes one performed ahead (10/R268) completes with the bytes read then. -/
def Sys2Proof.Claims.GlobalAccessEntered : Prop :=
  ∀ (s s1 : State) (t : Nat) (T : Team) (tl : Tlb), tl.replica = false →
    (∀ (d : BitVec 6) (q : BitVec 5) (sz : BitVec 2) (imm : BitVec 13), s.runsS t T (smNames d q sz) →
      (mayEnterS s t true false → s.sGlobal t (smTarget T q imm) (2 ^ sz.toNat) { r := true } = .ok tl s1 →
        (let p := (s1.part (s1.partOf t)).at tl (smTarget T q imm) (2 ^ sz.toNat)
         (atIssue s T p (2 ^ sz.toNat) →
          entered (exec (.ld d q sz imm) s) s1 t T
            (globalEntry s1 t T tl (smTarget T q imm) (.load (2 ^ sz.toNat)) (.sreg t d.toNat (sz == 3)))
            (if d = 0 ∧ sz ≠ 3 then none else some (d, sz == 3))) ∧
         (∀ x, 2 ≤ s.choice → T.earlyAt p.1 p.2 (2 ^ sz.toNat) = some x →
          exec (.ld d q sz imm) s = .next (takesEarly s1 t T d sz x)))) ∧
      (mayEnterS s t false true → s.sGlobal t (smTarget T q imm) (2 ^ sz.toNat) { w := true } = .ok tl s1 →
        entered (exec (.st d q sz imm) s) s1 t T
          (globalEntry s1 t T tl (smTarget T q imm)
            (.store (leBytes (2 ^ sz.toNat) (regNum T d (sz == 3)))) .none) none)) ∧
    (∀ (d a b : BitVec 6) (order scope : BitVec 2) (op : BitVec 4), s.runsS t T (atomNames d a b op) →
      mayEnterS s t false true → (2 ≤ order.toNat → releasedS s t (scope.toNat + 1)) →
      s.sGlobal t (T.rdp a) (atomBytes op) { r := true, w := true, atom := !atomReplica d op } = .ok tl s1 →
      entered (exec (.atom d a b order scope op) s) s1 t T
        (globalEntry s1 t T tl (T.rdp a)
          (.atom (atomOp op).1 (atomBytes op) (BitVec.ofNat 64 (regNum T b (12 ≤ op.toNat)))
            (BitVec.ofNat 64 (regNum T d (12 ≤ op.toNat))))
          (if d = 0 ∧ op.toNat < 12 then .none else .sreg t d.toNat (12 ≤ op.toNat)))
        (if d = 0 ∧ op.toNat < 12 then none else some (d, 12 ≤ op.toNat)))

/-- 07/R160, R188, 10/R268: the same for the scratchpad. -/
def Sys2Proof.Claims.ScratchAccessEntered : Prop :=
  ∀ (s : State) (t : Nat) (T : Team),
    (∀ (d : BitVec 6) (q : BitVec 5) (sz : BitVec 2) (imm : BitVec 13), s.runsS t T (smNames d q sz) →
      (mayEnterS s t true false → spadOk s T (smTarget T q imm) (2 ^ sz.toNat) true false →
        (atIssue s T (.bank T.gang, (smTarget T q imm).toNat) (2 ^ sz.toNat) →
          entered (exec (.lds d q sz imm) s) s t T
            (spadEntry s t T (smTarget T q imm) (.load (2 ^ sz.toNat)) (.sreg t d.toNat (sz == 3)))
            (if d = 0 ∧ sz ≠ 3 then none else some (d, sz == 3))) ∧
        (∀ x, 2 ≤ s.choice → T.earlyAt (.bank T.gang) (smTarget T q imm).toNat (2 ^ sz.toNat) = some x →
          exec (.lds d q sz imm) s = .next (takesEarly s t T d sz x))) ∧
      (mayEnterS s t false true → spadOk s T (smTarget T q imm) (2 ^ sz.toNat) false true →
        entered (exec (.sts d q sz imm) s) s t T
          (spadEntry s t T (smTarget T q imm)
            (.store (leBytes (2 ^ sz.toNat) (regNum T d (sz == 3)))) .none) none)) ∧
    (∀ (d a b : BitVec 6) (order scope : BitVec 2) (op : BitVec 4), s.runsS t T (atomNames d a b op) →
      mayEnterS s t false true → (2 ≤ order.toNat → releasedS s t (scope.toNat + 1)) →
      spadOk s T (T.rdp a) (atomBytes op) true true →
      entered (exec (.atoms d a b order scope op) s) s t T
        (spadEntry s t T (T.rdp a)
          (.atom (atomOp op).1 (atomBytes op) (BitVec.ofNat 64 (regNum T b (12 ≤ op.toNat)))
            (BitVec.ofNat 64 (regNum T d (12 ≤ op.toNat))))
          (if d = 0 ∧ op.toNat < 12 then .none else .sreg t d.toNat (12 ≤ op.toNat)))
        (if d = 0 ∧ op.toNat < 12 then none else some (d, 12 ≤ op.toNat)))

/-- 07/R159, R160: an access whose address is not a multiple of its size traps with ALIGN, and TADDR is the address. -/
def Sys2Proof.Claims.MisalignedAccessTraps : Prop :=
  ∀ (s : State) (t : Nat) (T : Team), T.hasHandler →
    (∀ (d : BitVec 6) (q : BitVec 5) (sz : BitVec 2) (imm : BitVec 13), s.runsS t T (smNames d q sz) →
      (smTarget T q imm).toNat % 2 ^ sz.toNat ≠ 0 →
      (mayEnterS s t true false →
        TrapsS (exec (.ld d q sz imm) s) s t T .align (smTarget T q imm) ∧
        TrapsS (exec (.lds d q sz imm) s) s t T .align (smTarget T q imm)) ∧
      (mayEnterS s t false true →
        TrapsS (exec (.st d q sz imm) s) s t T .align (smTarget T q imm) ∧
        TrapsS (exec (.sts d q sz imm) s) s t T .align (smTarget T q imm))) ∧
    (∀ (d a b : BitVec 6) (order scope : BitVec 2) (op : BitVec 4), s.runsS t T (atomNames d a b op) →
      mayEnterS s t false true → (2 ≤ order.toNat → releasedS s t (scope.toNat + 1)) →
      (T.rdp a).toNat % atomBytes op ≠ 0 →
      TrapsS (exec (.atom d a b order scope op) s) s t T .align (T.rdp a) ∧
      TrapsS (exec (.atoms d a b order scope op) s) s t T .align (T.rdp a))

/-- 07/R160, R188: a scratchpad access beyond the gang's space traps with SCRATCH_RANGE, and a store or atomic that overlaps
a live barrier word with BARRIER_STORE. -/
def Sys2Proof.Claims.ScratchFaults : Prop :=
  ∀ (s : State) (t : Nat) (T : Team), T.hasHandler →
    (∀ (d : BitVec 6) (q : BitVec 5) (sz : BitVec 2) (imm : BitVec 13),
      s.runsS t T (smNames d q sz) → (smTarget T q imm).toNat % 2 ^ sz.toNat = 0 →
      (4096 * (s.launch (s.gang T.gang).launch).desc.spad < (smTarget T q imm).toNat + 2 ^ sz.toNat →
        (mayEnterS s t true false → TrapsS (exec (.lds d q sz imm) s) s t T .scratchRange (smTarget T q imm)) ∧
        (mayEnterS s t false true → TrapsS (exec (.sts d q sz imm) s) s t T .scratchRange (smTarget T q imm))) ∧
      ((smTarget T q imm).toNat + 2 ^ sz.toNat ≤ 4096 * (s.launch (s.gang T.gang).launch).desc.spad →
        (∃ w ∈ (s.gang T.gang).live, overlaps w 8 (smTarget T q imm).toNat (2 ^ sz.toNat) = true) →
        mayEnterS s t false true → TrapsS (exec (.sts d q sz imm) s) s t T .barrierStore (smTarget T q imm))) ∧
    (∀ (d a b : BitVec 6) (order scope : BitVec 2) (op : BitVec 4), s.runsS t T (atomNames d a b op) →
      mayEnterS s t false true → (2 ≤ order.toNat → releasedS s t (scope.toNat + 1)) →
      (T.rdp a).toNat % atomBytes op = 0 →
      (4096 * (s.launch (s.gang T.gang).launch).desc.spad < (T.rdp a).toNat + atomBytes op →
        TrapsS (exec (.atoms d a b order scope op) s) s t T .scratchRange (T.rdp a)) ∧
      ((T.rdp a).toNat + atomBytes op ≤ 4096 * (s.launch (s.gang T.gang).launch).desc.spad →
        (∃ w ∈ (s.gang T.gang).live, overlaps w 8 (T.rdp a).toNat (atomBytes op) = true) →
        TrapsS (exec (.atoms d a b order scope op) s) s t T .barrierStore (T.rdp a)))

/-- 16/R418, R419: the checks of a global access that pass fill translation caches, use up the walks that they made, and change
nothing else; and the permission that the access needs is one that the page has. -/
def Sys2Proof.Claims.AccessCheckFrame : Prop :=
  ∀ (s s1 : State) (t : Nat) (va : DWord) (n : Nat) (need : Need) (tl : Tlb), s.sGlobal t va n need = .ok tl s1 →
    s1 = { s with cores := s1.cores, dies := s1.dies, walks := s1.walks, touched := s1.touched } ∧ tl.permits need = true ∧
    (∀ c, (s1.core c).growQ = (s.core c).growQ) ∧ (∀ d, (s1.die d).inbox = (s.die d).inbox)

/-- 07/R164, R165, 10/R272: `fence` completes and leaves, at the S-issue point, the order of its kind and scope over the
entries in flight; `rfence` completes once the team's earlier stores and atomics are performed, those to GFL
peers apart, and the team's engine commands then use no record-cache entry filled before. -/
def Obligations.ScalarFences : Prop :=
  ∀ (s : State) (t : Nat) (T : Team), s.runsS t T [] →
    (∀ (order : BitVec 2) (scope : BitVec 3), ∃ s' U, exec (.fence order scope) s = .next s' ∧
      s'.teams[t]? = some U ∧ U.spc = T.spc + 4 ∧ s.sameButTeams s' ∧ s.sameOthers s' t ∧ U.s = T.s ∧
      U.sOrd.head? = some { waits := ((s.sEarlier t).filter (fun e => order ≠ 1 || !e.op.isStore)).map (·.id),
                            scope := scope.toNat, loads := order ≠ 2, stores := true }) ∧
    ((∀ e ∈ s.sEarlier t, e.op.isLoad = true ∨ ∃ p a, e.dest = .peer p a) →
      exec .rfence s = .next (s.sNext t { T with recMark := s.nextId }))

namespace Sys2Proof.Claims

/-! ## Control transfers (07/R166) -/

/-- Whether s(a), read as a signed number, meets a condition of 05/R121: zero, not zero, negative, not negative, positive,
not positive. -/
def meets (cond : BitVec 4) (x : Int) : Bool :=
  match cond.toNat with
  | 0 => x = 0
  | 1 => x ≠ 0
  | 2 => x < 0
  | 3 => 0 ≤ x
  | 4 => 0 < x
  | _ => x ≤ 0

/-- The registers that a control transfer names, the team that it leaves and its target; `bCond` whose condition fails goes
to the next word. -/
def transferOut (i : Instr) (T : Team) : Option (List (BitVec 6) × Team × DWord) :=
  match i with
  | .bCond a cond off =>
    some ([a], T, if meets cond (T.rd a).toInt then T.spc + BitVec.ofInt 64 (4 * off.toInt) else T.spc + 4)
  | .jmp off => some ([], T, T.spc + BitVec.ofInt 64 (4 * off.toInt))
  | .call off => some ([63], T.wr 63 (BitVec.ofNat 32 (T.spc.toNat + 4)), T.spc + BitVec.ofInt 64 (4 * off.toInt))
  | .jr a => some ([a, a + 1], T, T.rd (a + 1) ++ T.rd a)
  | .ret a => some ([a], T, BitVec.ofNat 64 (T.spc.toNat / 2 ^ 32 * 2 ^ 32 + (T.rd a).toNat))
  | _ => none

end Sys2Proof.Claims

/-- 07/R166: a control transfer completes at its target; `call` puts the low word of the next address in `s63`, and no other
register changes. -/
def Obligations.ControlTransfers : Prop :=
  ∀ (i : Instr) (s : State) (t : Nat) (T U : Team) (rs : List (BitVec 6)) (target : DWord),
    transferOut i T = some (rs, U, target) → T.spc.toNat % 4 = 0 → target.toNat % 4 = 0 → s.runsS t T rs →
      exec i s = .next (s.sDone (s.setTeam t U) t target)

/-- 05/R113, 07/R166: a transfer to a target whose low two bits are not zero traps with ALIGN, and TADDR is the target; it
is not made, and `call` writes no register. That TADDR is the target, and the link is not written, is the model's choice
(log entry 18). -/
def Sys2Proof.Claims.MisalignedTargetTraps : Prop :=
  ∀ (i : Instr) (s : State) (t : Nat) (T U : Team) (rs : List (BitVec 6)) (target : DWord),
    transferOut i T = some (rs, U, target) → T.spc.toNat % 4 = 0 → target.toNat % 4 ≠ 0 → s.runsS t T rs → T.hasHandler →
      TrapsS (exec i s) s t T .align target

namespace Sys2Proof.Claims

/-! ## Lane work, the register count, circles (07/R167 to R171) -/

/-- Every block of a team has ended. -/
def lanesEnded (T : Team) : Prop := T.laneQ = [] ∧ T.blk = none

/-- The circle of a kind and number, when the number is below LCIRC (02/R44). -/
def circleOf (s : State) (T : Team) (kind : BitVec 1) (n : BitVec 6) : Option Machine.Circle :=
  if kind = 1 then (s.launch T.launch).circles[n.toNat]? else (s.gang T.gang).circles[n.toNat]?

/-- What Check of 02/R45 makes of a circle with given members and arrivals. -/
def circleChecked (members arrived : List Nat) (phase : Word) : Machine.Circle :=
  if members ≠ [] ∧ ∀ m ∈ members, m ∈ arrived then ⟨members, [], phase + 1⟩ else ⟨members, arrived, phase⟩

/-- The team's name in circles of a kind: its TID in a launch circle, its rank in a gang circle. -/
def nameIn (T : Team) (kind : BitVec 1) : Nat := if kind = 1 then T.tid else T.rank

/-- An S instruction completes: the outcome is a next state at the next word, with the team's registers as given, that
team waiting for nothing. -/
def completesS (o : Host.Outcome State Fault Refusal) (t : Nat) (T : Team) (regs : Vector Word 64) (p : State → Team → Prop) :
    Prop :=
  ∃ s' U, o = .next s' ∧ s'.teams[t]? = some U ∧ U.spc = T.spc + 4 ∧ U.s = regs ∧ U.wait = .none ∧ U.blocked = false ∧ p s' U

end Sys2Proof.Claims

/-- 07/R167, R168, 02/R32: `lrun` with fewer than 8 blocks queued appends an entry with the block's index, a copy of `s16` to
`s31` and the RKEY, MIGCTL and N in force; `lwait` completes once every block has ended, and `lget` then gives the result
slot. -/
def Sys2Proof.Claims.LaneQueueInstructions : Prop :=
  ∀ (s : State) (t : Nat) (T : Team),
    (∀ index : BitVec 26, s.runsS t T ((List.range 16).map (fun k => BitVec.ofNat 6 (16 + k))) →
      T.laneQ.length + (if T.blk.isSome then 1 else 0) < 8 →
      completesS (exec (.lrun index) s) t T T.s (fun s' U => ∃ q : LQ, U.laneQ = T.laneQ ++ [q] ∧ q.index = index ∧ q.low = T.low ∧
        (∀ k : Fin 16, q.params[k] = T.s[16 + k.val]) ∧ q.rkey = T.rkey ∧ q.migctl = T.migctl ∧ q.n = T.n ∧
        U.blk = T.blk ∧ s.sameMemory s')) ∧
    (lanesEnded T → s.runsS t T [] → exec .lwait s = .next (s.sNext t { T with lMark := s.nextId })) ∧
    (∀ (d : BitVec 6) (slot : BitVec 3), lanesEnded T → s.runsS t T [d, d + 1] →
      exec (.lget d slot) s = .next (s.sNext t { T.wrp d T.slots[slot.toNat] with lMark := s.nextId }))

/-- 02/R50, 07/R169: `grow` whose rows are free and whose turn it is adds 8k registers, which read as zero for the blocks
enqueued after it, also while blocks enqueued before an earlier `shrink` still use registers of their numbers (this last is the
model's reading, log entry 74); `shrink` takes 8k away for the blocks enqueued after it; with no block queued they are gone at
once. -/
def Sys2Proof.Claims.GrowAndShrink : Prop :=
  ∀ (s : State) (t : Nat) (T : Team) (k : BitVec 4), s.runsS t T [] → T.wcodes = 0 →
    (T.n + 8 * k.toNat ≤ (s.launch T.launch).desc.nmax →
      (s.core T.core).growQ = [] ∨ (s.core T.core).growQ.head? = some t →
      rowsFor (8 * k.toNat) T.w ≤ s.freeRows T.core →
      completesS (exec (.grow k) s) t T T.s (fun s' U => U.n = T.n + 8 * k.toNat ∧
        U.rows = T.rows + 8 * k.toNat * (T.w / 32) ∧ 
        U.regs.v = T.regs.v ++ List.replicate (T.n + 8 * k.toNat - T.regs.v.length) (.u 0) ∧ U.low = T.low ∧
        (T.core < 288 → t ∉ (s'.core T.core).growQ) ∧ s.sameMemory s')) ∧
    (8 * k.toNat + 8 ≤ T.n →
      completesS (exec (.shrink k) s) t T T.s (fun s' U => U.n = T.n - 8 * k.toNat ∧ s.sameMemory s' ∧
        (T.blk = none → T.held = none → T.laneQ = [] → T.asideQ = [] → T.shrinks = [] →
          U.shrinks = [] ∧ U.rows = T.rows - 8 * k.toNat * (T.w / 32) ∧
          U.regs.v = T.regs.v.take (T.n - 8 * k.toNat))))

/-- 02/R50, 07/R169: `grow` past the launch's NMAX, and `shrink` that would leave fewer than 8 registers, trap with GROW; both
trap with WINDOW first when the team has an elastic window. -/
def Sys2Proof.Claims.GrowFaults : Prop :=
  ∀ (s : State) (t : Nat) (T : Team) (k : BitVec 4), s.runsS t T [] → T.hasHandler →
    (T.wcodes ≠ 0 → TrapsS (exec (.grow k) s) s t T .window 0 ∧ TrapsS (exec (.shrink k) s) s t T .window 0) ∧
    (T.wcodes = 0 → (s.launch T.launch).desc.nmax < T.n + 8 * k.toNat → TrapsS (exec (.grow k) s) s t T .grow 0) ∧
    (T.wcodes = 0 → T.n < 8 * k.toNat + 8 → TrapsS (exec (.shrink k) s) s t T .grow 0)

/-- 02/R44, R45, 07/R170, R171: `cjoin` makes the team a member; `cleave` takes its membership and arrival away, and Check
follows; `csync` of a member whose accesses are released records its arrival: it completes when that ends the phase, and
otherwise blocks, and completes later once the phase it arrived in has ended; `cinfo` gives the member count and the number of
members below. A launch circle's change may also close a steep (13/R351), so only the circle is stated of the rest. -/
def Obligations.CircleInstructions : Prop :=
  ∀ (s : State) (t : Nat) (T : Team) (kind : BitVec 1) (n : BitVec 6) (c : Machine.Circle), circleOf s T kind n = some c →
    (s.runsS t T [] →
      completesS (exec (.cjoin kind n) s) t T T.s (fun s' U => ∃ c', circleOf s' U kind n = some c' ∧
        (∀ m, m ∈ c'.members ↔ m ∈ c.members ∨ m = nameIn T kind) ∧ c'.arrived = c.arrived ∧ c'.phase = c.phase) ∧
      completesS (exec (.cleave kind n) s) t T T.s (fun s' U => ∃ c', circleOf s' U kind n = some c' ∧
        c' = if nameIn T kind ∈ c.members then
          circleChecked (c.members.filter (· ≠ nameIn T kind)) (c.arrived.filter (· ≠ nameIn T kind)) c.phase else c) ∧
      (T.wait = .none → nameIn T kind ∈ c.members →
        (¬releasedS s t (if kind = 1 then 3 else 1) →
          exec (.csync kind n) s = .next (s.modTeam t (fun T => { T with blocked := true }))) ∧
        (releasedS s t (if kind = 1 then 3 else 1) →
          ((∀ m ∈ c.members, m = nameIn T kind ∨ m ∈ c.arrived) →
            completesS (exec (.csync kind n) s) t T T.s (fun s' U => ∃ c', circleOf s' U kind n = some c' ∧
              c'.phase = c.phase + 1 ∧ c'.arrived = [] ∧ c'.members = c.members)) ∧
          (¬(∀ m ∈ c.members, m = nameIn T kind ∨ m ∈ c.arrived) → ∃ s' U, exec (.csync kind n) s = .next s' ∧
            s'.teams[t]? = some U ∧ U = { T with wait := .csync (kind == 1) n.toNat c.phase, blocked := true } ∧
            circleOf s' U kind n = some ⟨c.members, c.arrived ++ [nameIn T kind], c.phase⟩))) ∧
      (∀ p, T.wait = .csync (kind == 1) n.toNat p →
        (p ≠ c.phase → exec (.csync kind n) s = .next (s.sNext t T)) ∧
        (p = c.phase → exec (.csync kind n) s = .next (s.modTeam t (fun T => { T with blocked := true }))))) ∧
    (∀ d : BitVec 6, s.runsS t T [d, d + 1] → exec (.cinfo d kind n) s = .next (s.sNext t
      ((T.wr d (BitVec.ofNat 32 c.members.length)).wr (d + 1)
        (if nameIn T kind ∈ c.members then BitVec.ofNat 32 (c.members.filter (· < nameIn T kind)).length
         else 0xFFFFFFFF))))

/-- 02/R44, 07/R170, R171: a circle instruction whose number is not below LCIRC, and `csync` by a team that is no member, trap
with MEMBERSHIP. -/
def Sys2Proof.Claims.CircleFaults : Prop :=
  ∀ (s : State) (t : Nat) (T : Team) (kind : BitVec 1) (n d : BitVec 6), s.runsS t T [d, d + 1] → T.hasHandler →
    (circleOf s T kind n = none → TrapsS (exec (.cjoin kind n) s) s t T .membership 0 ∧
      TrapsS (exec (.cleave kind n) s) s t T .membership 0 ∧ TrapsS (exec (.csync kind n) s) s t T .membership 0 ∧
      TrapsS (exec (.cinfo d kind n) s) s t T .membership 0) ∧
    (∀ c, circleOf s T kind n = some c → T.wait = .none → nameIn T kind ∉ c.members →
      TrapsS (exec (.csync kind n) s) s t T .membership 0)

namespace Sys2Proof.Claims

/-! ## Launches, ending, resumption (07/R172 to R176) -/

/-- What `pour` adds to the launches of a partition (02/R47, 17/R434 to R437): the fields of the descriptor, the next LSEQ, a
PRIO at most the pourer's, READY when every event it depends on has been signalled. -/
def poured (s : State) (p mine : Nat) (bs : List Byte) (L : Launch) : Prop :=
  L.part = p ∧ L.lseq = (s.part p).lseqNext ∧ L.queue = 255 ∧ L.nextGang = 0 ∧
    L.desc.sentry = dwordAt bs 0 ∧ L.desc.lbase = dwordAt bs 8 ∧ L.desc.handler = dwordAt bs 0x18 ∧
    L.desc.args = dwordAt bs 0x20 ∧ L.desc.teams = natAt bs 0x28 3 ∧ L.desc.tag = wordAt bs 0x2C ∧
    L.desc.prio = min mine (natAt bs 0x33 1) ∧ L.desc.w = 32 * (natAt bs 0x30 1 % 32 + 1) ∧
    L.desc.spad = natAt bs 0x34 2 % 2048 ∧ L.phase = (if (s.part p).depsMet L.desc then .ready else .waiting)

/-- A team's S-stream may read `n` bytes of its own structures now: no earlier access of it to the table entries that the walk
reads is in flight (16/R420), and the transfer may cross PCIe, if it does (17/R445). -/
def mayRead (s : State) (t : Nat) (T : Team) (va : DWord) (n : Nat) : Prop :=
  s.walkStalls (s.partOf t) (some T.core) (T.core / 36) t (T.core / 36) va n { r := true } = false ∧
    s.unitHeld (s.partOf t) (some T.core) (T.core / 36) va n { r := true } = false

/-- Resuming a trapped team: what `tresume` leaves of its S-stream and of the lane work that the trap set aside (03/R54,
R55); registers of the held block that the handler's blocks took over are its own again (02/R50). -/
def resumes (T U : Team) : Prop :=
  U.phase = .running ∧ U.blocked = false ∧ U.spc = T.resume ∧ U.wait = T.savedWait ∧ U.s = T.s ∧
    U.regs = { T.regs with v := match T.held with | some b => b.unstash T.regs.v | none => T.regs.v } ∧ U.laneQ = T.asideQ ∧
    U.asideQ = [] ∧ U.held = none ∧ U.vtrap = none

end Sys2Proof.Claims

/-- 07/R172, 02/R48: `pour` of an aligned, readable, well-formed descriptor that names no caddies and does not set SUP, with
room in the device launch queue, completes and accepts one launch; no register changes. -/
def Sys2Proof.Claims.PourAccepts : Prop :=
  ∀ (s s1 : State) (t : Nat) (T : Team) (a : BitVec 6) (bs : List Byte), s.runsS t T [a, a + 1] →
    (T.rdp a).toNat % 64 = 0 → mayEnterS s t true true → releasedS s t 3 → mayRead s t T (T.rdp a) 128 →
    s.unitRead (s.partOf t) (some T.core) (T.core / 36) (T.rdp a) 128 (some t) = (.ok bs, s1) →
    descMalformed bs = false → natAt bs 0x37 1 < 128 → (natAt bs 0x34 4) / 2 ^ 18 % 128 = 0 →
    s1.deviceQueue (s.partOf t) < 1024 → s.partOf t < 8 →
      completesS (exec (.pour a) s) t T T.s (fun s' U => U = { T with spc := U.spc, wait := .none, blocked := false } ∧
        ∃ L, s'.launches = s.launches ++ [L] ∧ poured s (s.partOf t) (s.launch T.launch).desc.prio bs L ∧
          (s'.part (s.partOf t)).lseqNext = (s.part (s.partOf t)).lseqNext + 1)

/-- 07/R172: `pour` of a misaligned address traps with ALIGN; of a malformed descriptor, or one that sets SUP, with QUEUE; TADDR
is the descriptor's address and no launch is accepted. -/
def Sys2Proof.Claims.PourFaults : Prop :=
  ∀ (s s1 : State) (t : Nat) (T : Team) (a : BitVec 6) (bs : List Byte), s.runsS t T [a, a + 1] → T.hasHandler →
    ((T.rdp a).toNat % 64 ≠ 0 → TrapsS (exec (.pour a) s) s t T .align (T.rdp a)) ∧
    ((T.rdp a).toNat % 64 = 0 → mayEnterS s t true true → releasedS s t 3 → mayRead s t T (T.rdp a) 128 →
      s.unitRead (s.partOf t) (some T.core) (T.core / 36) (T.rdp a) 128 (some t) = (.ok bs, s1) →
      descMalformed bs = true ∨ 128 ≤ natAt bs 0x37 1 →
        ∃ s' U, exec (.pour a) s = .next s' ∧ s'.teams[t]? = some U ∧ SDiverted T U .queue (T.rdp a) ∧
          s'.launches = s.launches)

/-- 07/R173, 02/R42, R52: `withdraw` completes every launch of the team's partition whose TAG is s(a) and of which no gang has
been placed, and leaves the phase of every other; `yield` changes nothing but the S-PC; `end` of a team that is RUNNING, whose
blocks have ended and whose tokens are raised without error, ends the team. -/
def Sys2Proof.Claims.WithdrawEndYield : Prop :=
  ∀ (s : State) (t : Nat) (T : Team),
    (∀ a : BitVec 6, s.runsS t T [a] → (∃ s', exec (.withdraw a) s = .next s' ∧
      ∀ (l : Nat) (L : Launch), s.launches[l]? = some L → (s'.launch l).phase =
        (if L.part = s.partOf t ∧ L.desc.tag = T.rd a ∧ L.nextGang = 0 then .complete else L.phase))) ∧
    (s.runsS t T [] → exec .yield s = .next (s.sNext t T)) ∧
    (s.runsS t T [] → T.phase = .running → lanesEnded T → (∀ k : Fin 8, T.tok[k].out = 0 ∧ T.tok[k].err = false) →
      ∃ s' U, exec .endTeam s = .next s' ∧ s'.teams[t]? = some U ∧ U.phase = .ended ∧ U.rows = 0 ∧ U.wait = .none)

/-- 03/R54, R55, 07/R175: `tresume` of a trapped team whose handler's blocks have ended, without a pending lane trap, goes to
the resume point with the wait, the held block and the entries set aside back; `tresume.at` does the same with the held
block restarted at s(a)[25:0], its operand-log slots discarded and every returned lane rejoined. -/
def Obligations.TrapResumption : Prop :=
  ∀ (s : State) (t : Nat) (T : Team), T.phase = .trapped → lanesEnded T →
    (s.runsS t T [] → T.pendL = none → T.vtrap = none → ∃ s' U, exec .tresume s = .next s' ∧
      s'.teams[t]? = some U ∧ resumes T U ∧ U.blk.isSome = T.held.isSome ∧ s.sameOthers s' t ∧ s.sameMemory s') ∧
    (∀ (a : BitVec 6) (b : Blk), s.runsS t T [a] → T.held = some b → ∃ s' U c, exec (.tresumeAt a) s = .next s' ∧
      s'.teams[t]? = some U ∧ resumes T U ∧ U.blk = some c ∧ c.lpc = (T.rd a).extractLsb' 0 26 ∧ c.path = b.path ∧
      c.stack = b.stack ∧ c.fmt = b.fmt ∧ (∀ k : Fin 4, U.oplog[k] = none) ∧ U.returned = [] ∧ U.pendL = none ∧
      s.sameOthers s' t ∧ s.sameMemory s')

/-- 07/R175: `tresume` and `tresume.at` of a team that is not TRAPPED trap with ILLEGAL. -/
def Sys2Proof.Claims.ResumeOutsideHandlerTraps : Prop :=
  ∀ (s : State) (t : Nat) (T : Team) (a : BitVec 6), s.runsS t T [a] → T.hasHandler →
    TrapsS (exec .tresume s) s t T .illegal T.spc ∧ TrapsS (exec (.tresumeAt a) s) s t T .illegal T.spc

namespace Sys2Proof.Claims

/-! ## Tokens and transaction barriers (07/R177 to R189) -/

/-- The live barrier word at an offset of a gang's scratchpad, as EPOCH, NEED, GOT and OWED (07/R183). -/
def liveIn (s : State) (gang off : Nat) (e n g : Nat) (o : Int) : Prop :=
  off ∈ (s.gang gang).live ∧ e < 4096 ∧ n < 1024 ∧ g < 1024 ∧ -2 ^ 31 ≤ o ∧ o < 2 ^ 31 ∧
    (s.gang gang).spad.readN off 8 =
      leBytes 8 (e * 2 ^ 52 + n * 2 ^ 42 + g * 2 ^ 32 + (BitVec.ofInt 32 o).toNat)

/-- What Check of 07/R185 makes of a word with new counts. -/
def checkedIn (s' : State) (gang off e n g : Nat) (o : Int) : Prop :=
  if g = n ∧ o = 0 then liveIn s' gang off ((e + 1) % 4096) n 0 0 else liveIn s' gang off e n g o

/-- The same of the team's gang. -/
def liveWord (s : State) (T : Team) (off : Nat) (e n g : Nat) (o : Int) : Prop := liveIn s T.gang off e n g o

def checkedWord (s' : State) (T : Team) (off e n g : Nat) (o : Int) : Prop := checkedIn s' T.gang off e n g o

/-- The barrier instruction's turn at the bank: the word lies in the gang's scratchpad, no access of the team to its line is in
flight, no order holds it, and the word's storage is sound (07/R182, 10/R266). -/
def atBank (s : State) (t : Nat) (T : Team) (off : DWord) : Prop :=
  spadOk s T off 8 true false ∧ s.bankBusy t off.toNat 8 = false ∧ mayEnterS s t true true

end Sys2Proof.Claims

/-- 07/R177 to R181: `kpour` with room on its token and channel appends a chain that starts at its head address and raises
OUT; a head of 0 starts an empty job; `twait` of raised tokens without error completes; `tprobe` gives the raised tokens of
the mask in bits 7..0 and those in error in bits 15..8. -/
def Sys2Proof.Claims.TokenInstructions : Prop :=
  ∀ (s : State) (t : Nat) (T : Team),
    (∀ (a : BitVec 6) (tok ch : BitVec 3), s.runsS t T [a, a + 1] → (T.rdp a).toNat % 64 = 0 → T.core < 288 →
      (s.chan (clusterOfCore T.core) ch.toNat).length < 16 → T.tok[tok.toNat].out < 255 →
      mayEnterS s t true true → releasedS s t 2 →
        completesS (exec (.kpour a tok ch) s) t T T.s (fun s' U =>
          U.cmdCtr = T.cmdCtr + 1 ∧
          (T.rdp a ≠ 0 → U.tok[tok.toNat].out = T.tok[tok.toNat].out + 1 ∧ ∃ k : Chain,
            s'.chan (clusterOfCore T.core) ch.toNat = s.chan (clusterOfCore T.core) ch.toNat ++ [k] ∧
            k.next = T.rdp a ∧ k.gang = T.gang ∧ k.team = t ∧ k.tok = tok ∧ k.tag = T.cmdCtr ∧ k.spc = T.spc ∧
            k.started = false ∧ k.recs = []) ∧
          (T.rdp a = 0 → U.tok = T.tok ∧ s'.clusters = s.clusters))) ∧
    (∀ mask : BitVec 8, s.runsS t T [] →
      (∀ k : Fin 8, mask.getLsbD k = true → T.tok[k].out = 0 ∧ T.tok[k].err = false) →
        exec (.twait mask) s = .next (s.sNext t T)) ∧
    (∀ (d : BitVec 6) (mask : BitVec 8), s.runsS t T [d] → ∃ x : Word, exec (.tprobe d mask) s = .next (s.sNext t (T.wr d x)) ∧
      (∀ k : Fin 8, x.getLsbD k = (mask.getLsbD k && T.tok[k].out == 0) ∧
        x.getLsbD (8 + k) = (mask.getLsbD k && T.tok[k].err)) ∧ x.toNat < 65536)

/-- 07/R178, 03/R56: `twait` of raised tokens, the lowest in error being `k`, delivers that token's record with the cause
TOKEN_ERROR and clears its error: TCAUSE names the token's cause, TADDR, TSPC and TSEQ are the record's. -/
def Sys2Proof.Claims.TokenErrorDelivered : Prop :=
  ∀ (s : State) (t : Nat) (T : Team) (mask : BitVec 8) (k : Fin 8) (c : Cause), s.runsS t T [] → T.hasHandler →
    (∀ j : Fin 8, mask.getLsbD j = true → T.tok[j].out = 0) → mask.getLsbD k = true → T.tok[k].err = true →
    T.tok[k].cause = some c → (∀ j : Fin 8, j < k → mask.getLsbD j = true → T.tok[j].err = false) →
      ∃ s' U, exec (.twait mask) s = .next s' ∧ s'.teams[t]? = some U ∧ U.spc = T.handler ∧ U.phase = .trapped ∧
        U.tcause = BitVec.ofNat 32 (causeCode .tokenError + 256 + 65536 * causeCode c) ∧ U.taddr = T.tok[k].taddr ∧
        U.tspc = T.tok[k].tspc ∧ U.tseq = T.tok[k].tseq ∧ U.tok[k].err = false ∧ U.resume = T.spc

/-- 07/R183 to R187: `binit` makes a word live with its EPOCH, NEED and OWED; `barrive` and `bexpect` add to GOT and OWED and
end the phase when both balance; `bwait` for a phase that has ended, or one released meanwhile, completes with its status;
`binval` takes the word's tag away and leaves its bits. -/
def Sys2Proof.Claims.BarrierInstructions : Prop :=
  ∀ (s : State) (t : Nat) (T : Team) (a b c : BitVec 6), s.runsS t T [a, a + 1, b, c] → atBank s t T (T.rdp a) →
    T.wait = .none → (s.gangs[T.gang]?).isSome → (s.gang T.gang).spad.wf = true →
    ((T.rdp a).toNat ∉ (s.gang T.gang).live → (T.rd b).toNat % 1024 ≠ 0 → bitsOf (T.rd b).toNat 15 10 = 0 →
      bitsOf (T.rd b).toNat 31 28 = 0 → (T.rd c).toNat < 2 ^ 31 →
        completesS (exec (.binit a b c) s) t T T.s (fun s' U => liveWord s' U (T.rdp a).toNat
          (bitsOf (T.rd b).toNat 27 16) (bitsOf (T.rd b).toNat 9 0) 0 (T.rd c).toNat)) ∧
    (∀ (e n g : Nat) (o : Int), liveWord s T (T.rdp a).toNat e n g o →
      ((T.rd b).toNat ≠ 0 → (T.rd b).toNat + g ≤ n → releasedS s t 1 →
        completesS (exec (.barrive a b) s) t T T.s
          (fun s' U => checkedWord s' U (T.rdp a).toNat e n (g + (T.rd b).toNat) o)) ∧
      (o + (T.rd b).toNat < 2 ^ 31 →
        completesS (exec (.bexpect a b) s) t T T.s
          (fun s' U => checkedWord s' U (T.rdp a).toNat e n g (o + (T.rd b).toNat))) ∧
      (2048 ≤ ((T.rd b).toNat + 4096 - e) % 4096 →
        exec (.bwait a b c) s = .next (s.sNext t (T.wr c 0))) ∧
      completesS (exec (.binval a) s) t T T.s (fun s' _ => (T.rdp a).toNat ∉ (s'.gang T.gang).live ∧
        ∀ x, (s'.gang T.gang).spad.read x = (s.gang T.gang).spad.read x))

/-- 07/R185 to R188: a barrier instruction on a word that is not live, `binit` on one that is or with a NEED of 0, and
`barrive` of none or of more than NEED - GOT, trap with BARRIER_STATE; a `bwait` released by the bank completes with the
status it was given. -/
def Sys2Proof.Claims.BarrierFaults : Prop :=
  ∀ (s : State) (t : Nat) (T : Team) (a b c : BitVec 6), s.runsS t T [a, a + 1, b, c] →
    (∀ x : Word, T.wait = .bdone x → exec (.bwait a b c) s = .next (s.sNext t (T.wr c x))) ∧
    (atBank s t T (T.rdp a) → T.wait = .none → T.hasHandler →
      ((T.rdp a).toNat ∉ (s.gang T.gang).live →
        (releasedS s t 1 → TrapsS (exec (.barrive a b) s) s t T .barrierState (T.rdp a)) ∧
        TrapsS (exec (.bexpect a b) s) s t T .barrierState (T.rdp a) ∧
        TrapsS (exec (.bwait a b c) s) s t T .barrierState (T.rdp a) ∧
        TrapsS (exec (.binval a) s) s t T .barrierState (T.rdp a)) ∧
      ((T.rdp a).toNat ∈ (s.gang T.gang).live ∨ (T.rd b).toNat % 1024 = 0 →
        TrapsS (exec (.binit a b c) s) s t T .barrierState (T.rdp a)) ∧
      (∀ (e n g : Nat) (o : Int), liveWord s T (T.rdp a).toNat e n g o → (T.rd b).toNat = 0 ∨ n < (T.rd b).toNat + g →
        releasedS s t 1 → g ≤ n → TrapsS (exec (.barrive a b) s) s t T .barrierState (T.rdp a)))

namespace Sys2Proof.Claims

/-! ## Commands of the matrix engine (12/R318 to R336) -/

/-- A command of the engine may be accepted: its token and the reservation table have room, the release at die scope may
take place (12/R320, R321). -/
def engineTakes (s : State) (t : Nat) (T : Team) (tok : BitVec 3) : Prop :=
  T.core < 288 ∧ T.tok[tok.toNat].out < 255 ∧ (s.cluster (clusterOfCore T.core)).hasEntry T.gang = true ∧
    mayEnterS s t true true ∧ releasedS s t 2

/-- The reads of a job's records wait for nothing: neither for an entry that has arrived at their lines (10/R266) nor, if they
cross PCIe, for the partition's budget or the link (17/R445, R447). -/
def recordsRead (s : State) (t : Nat) (T : Team) (j : Job) : Prop :=
  s.heldTo (s.partOf t) (s.acceptJob (clusterOfCore T.core) j) = false

/-- The job that a command appends to the reservation table of its cluster: of a kind, for one team, with its token, the
address of its records and its control operand (12/R320). -/
def jobAppended (s s' : State) (t : Nat) (T : Team) (kind : JKind) (tok : BitVec 3) (pairA pairB : DWord) (sc : Word) : Prop :=
  ∃ (j : Job) (m : JMember), (s'.cluster (clusterOfCore T.core)).jobs.length = (s.cluster (clusterOfCore T.core)).jobs.length + 1 ∧
    (s'.cluster (clusterOfCore T.core)).jobs.getLast? = some j ∧ j.kind = kind ∧ j.gang = T.gang ∧ j.members = [m] ∧
    m.team = t ∧ m.tok = tok ∧ m.tag = T.cmdCtr ∧ m.spc = T.spc ∧ m.pairA = pairA ∧ m.sc = sc ∧ j.pairB = pairB ∧
    j.fmt = T.fmtNow ∧ j.begun = false ∧ j.done = 0 ∧ j.released = false

end Sys2Proof.Claims

/-- 12/R320, R324, R326, R331 to R335: an engine command with aligned record addresses and no reserved bit in its operand, whose
token and table have room, completes: one job is appended and OUT of its token rises; a record that cannot be read fails the
job on its token and not the command. -/
def Sys2Proof.Claims.EngineCommandsAccepted : Prop :=
  ∀ (s : State) (t : Nat) (T : Team) (a b c : BitVec 6) (tok : BitVec 3), engineTakes s t T tok → T.wait = .none →
    (T.rdp a).toNat % 64 = 0 →
    (s.runsS t T [a, a + 1, b] → (T.rd b).toNat % 64 = 0 → (T.rd b).toNat ≤ 0x7FFFC0 →
      recordsRead s t T (s.newJob t (.bput a b tok) .bput tok (T.rdp a) 0 (T.rd b) false false) →
      completesS (exec (.bput a b tok) s) t T T.s (fun s' U => U.tok[tok.toNat].out = T.tok[tok.toNat].out + 1 ∧
        U.cmdCtr = T.cmdCtr + 1 ∧ jobAppended s s' t T .bput tok (T.rdp a) 0 (T.rd b))) ∧
    (s.runsS t T [a, a + 1, c] → bitsOf (T.rd c).toNat 31 19 = 0 →
      recordsRead s t T (s.newJob t (.accld a c tok) .accld tok (T.rdp a) 0 (T.rd c) false false) →
      completesS (exec (.accld a c tok) s) t T T.s (fun s' U => U.tok[tok.toNat].out = T.tok[tok.toNat].out + 1 ∧
        U.cmdCtr = T.cmdCtr + 1 ∧ jobAppended s s' t T .accld tok (T.rdp a) 0 (T.rd c))) ∧
    (s.runsS t T [a, a + 1, c] → bitsOf (T.rd c).toNat 31 20 = 0 →
      recordsRead s t T (s.newJob t (.accst a c tok) .accst tok (T.rdp a) 0 (T.rd c) false false) →
      completesS (exec (.accst a c tok) s) t T T.s (fun s' U => U.tok[tok.toNat].out = T.tok[tok.toNat].out + 1 ∧
        U.cmdCtr = T.cmdCtr + 1 ∧ jobAppended s s' t T .accst tok (T.rdp a) 0 (T.rd c))) ∧
    (s.runsS t T [a, a + 1, b, b + 1] → (T.rdp b).toNat % 64 = 0 →
      recordsRead s t T (s.newJob t (.mxreq a b tok) .mxreq tok (T.rdp a) (T.rdp b) 0 false false) →
      completesS (exec (.mxreq a b tok) s) t T T.s (fun s' U => U.tok[tok.toNat].out = T.tok[tok.toNat].out + 1 ∧
        U.cmdCtr = T.cmdCtr + 1 ∧ jobAppended s s' t T .mxreq tok (T.rdp a) (T.rdp b) 0)) ∧
    (∀ sparse orient : BitVec 1, s.runsS t T [a, a + 1, b, b + 1, c] → (T.rdp b).toNat % 64 = 0 →
      bitsOf (T.rd c).toNat 23 20 = 0 →
      recordsRead s t T (s.newJob t (.mma a b c tok 0 sparse orient) .mma tok (T.rdp a) (T.rdp b) (T.rd c) (sparse == 1)
        (orient == 1)) →
      completesS (exec (.mma a b c tok 0 sparse orient) s) t T T.s (fun s' U =>
        U.tok[tok.toNat].out = T.tok[tok.toNat].out + 1 ∧ U.cmdCtr = T.cmdCtr + 1 ∧
        jobAppended s s' t T .mma tok (T.rdp a) (T.rdp b) (T.rd c)))

/-- 12/R329, R330, R336: `mcrew` takes a well-formed MCR; `mstat` gives the sticky flags and clears them; a crew `mma` whose
rendezvous was accepted completes, one whose rendezvous disagreed traps with CREW, and one that finds no latch is blocked. -/
def Sys2Proof.Claims.EngineRegisters : Prop :=
  ∀ (s : State) (t : Nat) (T : Team),
    (∀ a : BitVec 6, s.runsS t T [a] → bitsOf (T.rd a).toNat 31 27 = 0 → bitsOf (T.rd a).toNat 26 24 ≠ 1 →
      bitsOf (T.rd a).toNat 26 24 ≠ 7 → exec (.mcrew a) s = .next (s.sNext t { T with mcr := T.rd a })) ∧
    (∀ d : BitVec 6, s.runsS t T [d] →
      exec (.mstat d) s = .next (s.sNext t { T.wr d (T.mstat.setWidth 32) with mstat := 0 })) ∧
    (∀ (a b c : BitVec 6) (tok : BitVec 3) (sparse orient : BitVec 1), s.runsS t T [a, a + 1, b, b + 1, c] →
      (T.wait = .crewDone true → exec (.mma a b c tok 1 sparse orient) s = .next (s.sNext t T)) ∧
      (T.wait = .none → s.latchFor t T.mcr = none → exec (.mma a b c tok 1 sparse orient) s =
        .next (s.modTeam t (fun T => { T with blocked := true }))) ∧
      (T.wait = .crewDone false → T.hasHandler → TrapsS (exec (.mma a b c tok 1 sparse orient) s) s t T .crew 0))

/-- 12/R320: an engine command whose record address is not a multiple of 64 traps with ALIGN before any other check, a
crew `mma` once it takes a latch (12/R330); one whose token is full traps with QUEUE. -/
def Sys2Proof.Claims.EngineCommandFaults : Prop :=
  ∀ (s : State) (t : Nat) (T : Team) (a b c : BitVec 6) (tok : BitVec 3), s.runsS t T [a, a + 1, b, b + 1, c] →
    T.hasHandler → T.wait = .none →
    ((T.rdp a).toNat % 64 ≠ 0 →
      TrapsS (exec (.bput a b tok) s) s t T .align (T.rdp a) ∧ TrapsS (exec (.accld a c tok) s) s t T .align (T.rdp a) ∧
      TrapsS (exec (.accst a c tok) s) s t T .align (T.rdp a) ∧ TrapsS (exec (.mxreq a b tok) s) s t T .align (T.rdp a) ∧
      ∀ crew sparse orient : BitVec 1, crew = 0 ∨ (s.latchFor t T.mcr).isSome = true →
        TrapsS (exec (.mma a b c tok crew sparse orient) s) s t T .align (T.rdp a)) ∧
    ((T.rdp a).toNat % 64 = 0 → bitsOf (T.rd c).toNat 31 19 = 0 → 255 ≤ T.tok[tok.toNat].out →
      TrapsS (exec (.accld a c tok) s) s t T .queue (T.rdp a) ∧ TrapsS (exec (.accst a c tok) s) s t T .queue (T.rdp a))

namespace Sys2Proof.Claims

/-! ## Steeps (13/R356 to R359) -/

/-- The caddy that a team names: its set and itself (13/R337). -/
def namesCaddy (s : State) (T : Team) (k : BitVec 6) (set : Nat) (c : Caddy) : Prop :=
  (s.launch T.launch).caddySet = some set ∧ k.toNat < (s.launch T.launch).desc.caddies ∧
    ∃ S, s.caddySets[set]? = some S ∧ S.caddies[k.toNat]? = some c

/-- The steep before a number has never been open: steeps open from 0 on, and the number has not wrapped (13/R351). -/
def neverOpened (c : Caddy) (x : Word) : Prop := c.wrapped = false ∧ (x = 0 ∨ c.steep.toNat < x.toNat)

/-- A team's S-stream may read 64 bytes of a caddy's tape now (16/R420, 17/R445). -/
def mayReadTape (s : State) (t : Nat) (T : Team) (c : Caddy) (va : DWord) : Prop :=
  s.walkStalls (s.partOf t) none c.home t (T.core / 36) va 64 { r := true } = false ∧
    s.unitHeld (s.partOf t) none c.home va 64 { r := true } = false

end Sys2Proof.Claims

/-- 13/R356, R357: `steep.close` of a member of the caddy's circle enters its close at the steep buffer; `steep.wait` for a
steep number that the caddy has passed completes: at once when the steep before it never opened, and otherwise when its
segment header reports no fault; one that reports OVERFLOW or FAULT traps with STEEP. -/
def Sys2Proof.Claims.SteepInstructions : Prop :=
  ∀ (s : State) (t : Nat) (T : Team) (k : BitVec 6) (set : Nat) (c : Caddy), namesCaddy s T k set c →
    (∀ z : Machine.Circle, s.runsS t T [] → (s.launch T.launch).circles[c.circle]? = some z → T.tid ∈ z.members →
      entered (exec (.steepClose k) s) s t T
        { id := s.nextId, owner := .s t, team := some t, part := s.partOf t, die := T.core / 36, dest := .home c.home,
          addr := 0, va := 0, op := .close set k.toNat T.launch T.tid, ret := .none, lane := none,
          rpage := none } none) ∧
    (∀ a : BitVec 6, s.runsS t T [a] → (c.steep - T.rd a).toNat < 2 ^ 31 →
      (neverOpened c (T.rd a) → exec (.steepWait a k) s = .next (s.sNext t T)) ∧
      (∀ (h : List Byte) (s1 : State), ¬neverOpened c (T.rd a) → mayReadTape s t T c (c.segAddr (T.rd a - 1)) →
        s.unitRead (s.partOf t) none c.home (c.segAddr (T.rd a - 1)) 64 (some t) = (.ok h, s1) →
        (¬(wordAt h 0 = T.rd a - 1 ∧ bitsOf (natAt h 8 4) 1 0 ≠ 0) →
          ∃ s' U, exec (.steepWait a k) s = .next s' ∧ s'.teams[t]? = some U ∧ U.spc = T.spc + 4 ∧ U.s = T.s) ∧
        (wordAt h 0 = T.rd a - 1 → bitsOf (natAt h 8 4) 1 0 ≠ 0 → T.hasHandler →
          ∃ s' U, exec (.steepWait a k) s = .next s' ∧ s'.teams[t]? = some U ∧
            SDiverted T U .steep (c.segAddr (T.rd a - 1)))))

namespace Sys2Proof.Claims

/-- Round(a × b + c, f32, RNE), fused, on codes (13/R358). -/
def fused (a b c : Nat) : Nat :=
  (fmtF32.round 0 false false (fmaFV 0 (fmtF32.decode a) (fmtF32.decode b) (fmtF32.decode c)).1).1

/-- Round(a - b, f32, RNE), on codes. -/
def lessRounded (a b : Nat) : Nat :=
  (fmtF32.round 0 false false (addFV 0 (fmtF32.decode a) (fmtF32.decode (neg32 b))).1).1

/-- The inner loops of the walk of a record over the twin's slots (13/R358): each pair of an entry `e` and an element `d` reads
the twin's element, adds to dx[d] and dw[e], and under BLEND writes the element. None where an access fails. -/
def gradSteps (p t : Nat) (c g : Caddy) (rec_ : List Byte) :
    List (Nat × Nat) → State → (Nat → Nat) → (Nat → Nat) → Option (State × (Nat → Nat) × (Nat → Nat))
  | [], s, dx, dw => some (s, dx, dw)
  | (e, d) :: l, s, dx, dw =>
    let ent := 0x10 + 4 * c.d + e * (8 + 4 * c.d)
    let w := natAt rec_ (ent + 4) 4
    let pre := natAt rec_ (ent + 8 + 4 * d) 4
    let x := natAt rec_ (0x10 + 4 * d) 4
    let va := g.base + BitVec.ofNat 64 (4 * (g.d * natAt rec_ ent 4 + d))
    match s.unitRead p none c.home va 4 (some t) with
    | (.ok bs, s1) =>
      let v := leNat bs
      let dx' : Nat → Nat := fun j => if j = d then fused w v (dx j) else dx j
      if c.accum = true then gradSteps p t c g rec_ l s1 dx' (fun j => if j = e then fused v x (dw j) else dw j)
      else
        match s1.unitWrite p none c.home (walkSrc t) va (leBytes 4 (fused (neg32 w) v v)) (some t) with
        | (.ok _, s2) =>
          gradSteps p t c g rec_ l s2 dx' (fun j => if j = e then fused v (lessRounded x pre) (dw j) else dw j)
        | _ => none
    | _ => none

/-- The pairs of a record of K entries in the order of the walk: entries from the last to the first, elements from the first to
the last. -/
def gradOrder (rec_ : List Byte) (dim : Nat) : List (Nat × Nat) :=
  (List.range (bitsOf (natAt rec_ 0x0C 4) 19 16)).reverse.flatMap (fun e => (List.range dim).map (fun d => (e, d)))

/-- Bytes of a record of the output area. -/
def gradSize (dim : Nat) : Nat := (4 * dim + 32 + 63) / 64 * 64

/-- A record of the output area: dx, then dw, then zeros. -/
def gradOut (dim : Nat) (dx dw : Nat → Nat) : List Byte :=
  (List.range dim).flatMap (fun j => leBytes 4 (dx j)) ++ (List.range 8).flatMap (fun j => leBytes 4 (dw j)) ++
    zeros (gradSize dim - 4 * dim - 32)

/-- A team's walk of a tape may go on: it is under way, or no apply and no other walk excludes it (13/R355). -/
def mayGrad (s : State) (t set : Nat) (c g : Caddy) : Prop :=
  c.walker = some t ∨ c.walker = none ∧ c.apply = none ∧ g.apply = none ∧ walkedOver (s.caddies set) c.twin = false

end Sys2Proof.Claims

/-- 13/R358, R359: an issue of `steep.grad` that finds the output area fresh, or the walk of this steep under way with DONE
below COUNT, walks one record, ordinal COUNT - 1 - DONE: a fresh area takes its header first; then the record's output and the
new DONE are written, and the instruction waits; an access that fails holds the S-stream or traps. With DONE = COUNT it writes
STATE 2 and completes. That each issue walks one record is the model's choice (log entry 134). -/
def Sys2Proof.Claims.SteepGradWalks : Prop :=
  ∀ (s s1 s2 s3 : State) (t : Nat) (T : Team) (d a k : BitVec 6) (set : Nat) (S : CaddySet) (c g : Caddy) (h o : List Byte)
    (done count : Nat),
    namesCaddy s T k set c → s.caddySets[set]? = some S → S.caddies[c.twin]? = some g → s.runsS t T [d, a, a + 1] →
    c.tv = true → (T.rdp a).toNat % 64 = 0 → releasedS s t 3 → mayGrad s t set c g →
    1 ≤ (c.steep - T.rd d).toNat → (c.steep - T.rd d).toNat < c.tdepth →
    let p := s.partOf t
    s.unitRead p none c.home (c.segAddr (T.rd d)) 64 (some t) = (.ok h, s1) → wordAt h 0 = T.rd d →
    bitsOf (natAt h 8 4) 31 31 = 1 → bitsOf (natAt h 8 4) 1 0 = 0 →
    s1.unitRead p none c.home (T.rdp a) 64 (some t) = (.ok o, s2) →
    (natAt o 0 4 = 0 ∧ done = 0 ∧ count = natAt h 4 4 ∧
        s2.unitWrite p none c.home (walkSrc t) (T.rdp a)
          (leBytes 4 1 ++ w32le (T.rd d) ++ leBytes 4 0 ++ leBytes 4 count ++ zeros 48) (some t) = (.ok (), s3) ∨
      natAt o 0 4 = 1 ∧ wordAt o 4 = T.rd d ∧ done = natAt o 8 4 ∧ count = natAt o 12 4 ∧ s3 = s2) →
    let z := s3.modCaddy set k.toNat (fun c => { c with walker := some t })
    let at_ := c.recAddr (T.rd d) (count - 1 - done)
    (done < count →
      (∀ (rec_ : List Byte) (z1 z2 z3 z4 : State) (dx dw : Nat → Nat),
        z.unitRead p none c.home at_ c.recSize (some t) = (.ok rec_, z1) →
        gradSteps p t c g rec_ (gradOrder rec_ c.d) z1 (fun _ => 0) (fun _ => 0) = some (z2, dx, dw) →
        z2.unitWrite p none c.home (walkSrc t) (T.rdp a + BitVec.ofNat 64 (64 + (count - 1 - done) * gradSize c.d))
          (gradOut c.d dx dw) (some t) = (.ok (), z3) →
        z3.unitWrite p none c.home (walkSrc t) (T.rdp a + 8) (leBytes 4 (done + 1)) (some t) = (.ok (), z4) →
        s.heldTo p z4 = false →
          exec (.steepGrad d a k) s = .next (z4.modTeam t (fun T => { T with blocked := true }))) ∧
      (∀ (e : Cause) (r : Bool) (y : DWord) (z1 : State), z.unitRead p none c.home at_ c.recSize (some t) = (.fail e r y, z1) →
        s.linkShut p = false → s.arr = [] →
        (r = true → s.canHold t = true → ∃ s' U, exec (.steepGrad d a k) s = .next s' ∧ s'.teams[t]? = some U ∧ U.spc = T.spc ∧
          U.shold = some { cause := e, addr := y, write := false, exec := false, seq := none, res := none }) ∧
        (r = false ∨ s.canHold t = false → T.hasHandler → ∃ s' U, exec (.steepGrad d a k) s = .next s' ∧
          s'.teams[t]? = some U ∧ SDiverted T U e y))) ∧
    (count ≤ done → ∀ z1 : State, z.unitWrite p none c.home (walkSrc t) (T.rdp a) (leBytes 4 2) (some t) = (.ok (), z1) →
      s.heldTo p z1 = false →
        exec (.steepGrad d a k) s =
          .next (s.sDone (z1.modCaddy set k.toNat (fun c => { c with walker := none })) t (T.spc + 4)))

/-- 13/R355, R358, R359: `steep.grad` whose output area says that the walk of this steep is complete completes; it changes no
register, and the tape has no walker. -/
def Sys2Proof.Claims.SteepGradCompletes : Prop :=
  ∀ (s s1 s2 : State) (t : Nat) (T : Team) (d a k : BitVec 6) (set : Nat) (c : Caddy) (h o : List Byte),
    namesCaddy s T k set c → s.runsS t T [d, a, a + 1] → c.tv = true → (T.rdp a).toNat % 64 = 0 → releasedS s t 3 →
    c.walker = some t → 1 ≤ (c.steep - T.rd d).toNat → (c.steep - T.rd d).toNat < c.tdepth →
    s.unitRead (s.partOf t) none c.home (c.segAddr (T.rd d)) 64 (some t) = (.ok h, s1) → wordAt h 0 = T.rd d →
    bitsOf (natAt h 8 4) 31 31 = 1 → bitsOf (natAt h 8 4) 1 0 = 0 →
    s1.unitRead (s.partOf t) none c.home (T.rdp a) 64 (some t) = (.ok o, s2) → natAt o 0 4 = 2 → wordAt o 4 = T.rd d →
    s.heldTo (s.partOf t) s2 = false →
      ∃ s' U, exec (.steepGrad d a k) s = .next s' ∧ s'.teams[t]? = some U ∧ U.spc = T.spc + 4 ∧ U.s = T.s ∧
        (∀ S', s'.caddySets[set]? = some S' → ∀ c', S'.caddies[k.toNat]? = some c' → c'.walker = none)

/-- 13/R356 to R358: a steep instruction whose caddy number is not below CADDIES, and `steep.grad` of a caddy without a twin or
of a steep that its tape no longer holds, trap with STEEP (that the last needs no read of the segment is the model's choice,
log entry 101); `steep.close` by a team that is no member of the caddy's circle traps with MEMBERSHIP. -/
def Sys2Proof.Claims.SteepFaults : Prop :=
  ∀ (s : State) (t : Nat) (T : Team) (d a k : BitVec 6), s.runsS t T [d, a, a + 1] → T.hasHandler →
    ((s.launch T.launch).desc.caddies ≤ k.toNat →
      TrapsS (exec (.steepClose k) s) s t T .steep 0 ∧ TrapsS (exec (.steepWait a k) s) s t T .steep 0 ∧
      TrapsS (exec (.steepGrad d a k) s) s t T .steep 0) ∧
    (∀ (set : Nat) (c : Caddy), namesCaddy s T k set c →
      (c.tv = false → TrapsS (exec (.steepGrad d a k) s) s t T .steep 0) ∧
      (c.tv = true → (T.rdp a).toNat % 64 = 0 → releasedS s t 3 → c.walker = some t →
        ¬(1 ≤ (c.steep - T.rd d).toNat ∧ (c.steep - T.rd d).toNat < c.tdepth) →
          TrapsS (exec (.steepGrad d a k) s) s t T .steep (c.segAddr (T.rd d))) ∧
      ((∀ z, (s.launch T.launch).circles[c.circle]? = some z → T.tid ∉ z.members) →
        TrapsS (exec (.steepClose k) s) s t T .membership 0))

namespace Sys2Proof.Claims

/-! ## Privilege (15/R383 to R393) -/

/-- A team runs as a supervisor: its launch sets SUP (15/R383). -/
def supervisor (s : State) (T : Team) : Prop := (s.launch T.launch).desc.sup = true

/-- The privileged registers as `sysr` reads them: width and value (15/R386). -/
def privRead (P : Part) (r : Nat) : Option (Nat × Nat) :=
  match r with
  | 0x010 => some (64, P.fq.base.toNat)
  | 0x011 => some (32, P.fq.ctl.toNat)
  | 0x012 => some (32, P.fq.tail.toNat)
  | 0x013 => some (32, P.fq.head.toNat)
  | 0x018 => some (64, P.el.base.toNat)
  | 0x019 => some (32, P.el.ctl.toNat)
  | 0x01A => some (32, P.el.tail.toNat)
  | 0x01B => some (32, P.el.head.toNat)
  | 0x020 => some (64, P.saveBase.toNat)
  | 0x021 => some (32, P.saveCtl.toNat)
  | 0x028 => some (64, P.ptroot.toNat)
  | _ => none

/-- The privileged registers as `sysw` writes them, where it does not fault: width and the partition's registers
(15/R385 to R387). The rings' bases are taken while the ring is off. -/
def privWrite (P : Part) (r : Nat) (x : Word) (p : DWord) : Option (Nat × Part) :=
  match r with
  | 0x010 => if P.fq.ctl.getLsbD 31 = false ∧ p.toNat % (64 * 2 ^ (P.fq.ctl.toNat % 32)) = 0 then
      some (64, { P with fq := { P.fq with base := p } }) else none
  | 0x013 => some (32, { P with fq := { P.fq with head := x } })
  | 0x018 => if P.el.ctl.getLsbD 31 = false ∧ p.toNat % (64 * 2 ^ (P.el.ctl.toNat % 32)) = 0 then
      some (64, { P with el := { P.el with base := p } }) else none
  | 0x01B => some (32, { P with el := { P.el with head := x } })
  | 0x020 => if p.toNat % 65536 = 0 then some (64, { P with saveBase := p }) else none
  | 0x021 => if bitsOf x.toNat 19 12 = 0 then some (32, { P with saveCtl := x }) else none
  | 0x028 => if bitsOf p.toNat 63 52 = 0 ∧ bitsOf p.toNat 15 1 = 0 then some (64, { P with ptroot := p }) else none
  | _ => none

/-- What the resolution of an open entry does, RESOL and RESULT standing in the entry's bytes (15/R389, R394 to R396): the held
S access of another team whose gang has not been removed, or its `svc`, has the answer; KILL removes the gang of a resident S hold. -/
def resolved (s s' : State) (t : Nat) (o : FqOpen) (seq : Word) (bs : List Byte) : Prop :=
  (∀ r, (bitsOf (natAt bs 12 4) 1 0 = 0 ∧ r = Resol.retry) ∨ (bitsOf (natAt bs 12 4) 1 0 = 1 ∧ r = Resol.fail) →
    (∀ (u : Nat) (V : Team) (h : Hold), o.who = .s u → u ≠ t → s.teams[u]? = some V → V.shold = some h →
      (s.gang V.gang).phase ≠ .removed → h.seq = some seq → h.res = none → ∃ W, s'.teams[u]? = some W ∧ W.shold = some { h with res := some r }) ∧
    (∀ (u : Nat) (V : Team) (n : BitVec 20), o.who = .svc u → u ≠ t → s.teams[u]? = some V →
      (s.gang V.gang).phase ≠ .removed → V.wait = .svc n (some seq) → ∃ W, s'.teams[u]? = some W ∧ W.wait = .svcDone r (dwordAt bs 0x30))) ∧
  (bitsOf (natAt bs 12 4) 1 0 = 2 → ∀ (u : Nat) (V : Team) (G : Gang), o.who = .s u → s.teams[u]? = some V →
    s.gangs[V.gang]? = some G → G.phase = .resident → (s'.gang V.gang).phase = .removed)

/-- The instructions of majors 0x3C and 0x3D, with the registers they name (15/R383). -/
def privilegedNames (i : Instr) : Option (List (BitVec 6)) :=
  match i with
  | .sysr d _ | .fqpop d => some [d, d + 1]
  | .sysw a _ | .tinval a | .ctxsave a | .ctxload a => some [a, a + 1]
  | .eret | .tsync => some []
  | _ => none

end Sys2Proof.Claims

/-- 15/R383: a privileged instruction whose operand fields decode in a team that is no supervisor traps with PRIVILEGED; TADDR
is the instruction's address, and nothing else happens. That a `sysr` or `sysw` of an unlisted register does so too, and not
ILLEGAL, is the model's reading (log entry 24). -/
def Sys2Proof.Claims.PrivilegedInUserModeTraps : Prop :=
  ∀ (i : Instr) (s : State) (t : Nat) (T : Team) (rs : List (BitVec 6)), privilegedNames i = some rs → i.wellFormed = true → s.runsS t T rs →
    ¬supervisor s T → T.hasHandler → TrapsS (exec i s) s t T .privileged T.spc

/-- 15/R385, R386: `sysr` of every listed register completes with its value in a register or a pair; an unlisted number traps
with ILLEGAL. -/
def Sys2Proof.Claims.PrivilegedReads : Prop :=
  ∀ (s : State) (t : Nat) (T : Team) (d : BitVec 6) (r : BitVec 12), s.runsS t T [d, d + 1] → supervisor s T →
    (∀ w v, privRead (s.part (s.partOf t)) r.toNat = some (w, v) → (w = 64 → d.toNat % 2 = 0) →
      exec (.sysr d r) s = .next (s.sNext t
        (if w = 64 then (T.wr d (BitVec.ofNat 32 v)).wr (d + 1) (BitVec.ofNat 32 (v / 2 ^ 32))
         else T.wr d (BitVec.ofNat 32 v)))) ∧
    (privRead (s.part (s.partOf t)) r.toNat = none → T.hasHandler → TrapsS (exec (.sysr d r) s) s t T .illegal T.spc)

/-- 15/R385 to R387: `sysw`, once the team's earlier accesses are performed at system scope, writes the register; a base of a
ring that is on, a misaligned base and a reserved bit fault, and ring controls have a statement of their own. -/
def Sys2Proof.Claims.PrivilegedWrites : Prop :=
  ∀ (s : State) (t : Nat) (T : Team) (a : BitVec 6) (r : BitVec 12) (w : Nat) (Q : Part), s.runsS t T [a, a + 1] →
    supervisor s T → s.partOf t < 8 → releasedS s t 4 →
    privWrite (s.part (s.partOf t)) r.toNat (T.rd a) (T.rdp a) = some (w, Q) → (w = 64 → a.toNat % 2 = 0) →
      exec (.sysw a r) s = .next (s.sDone (s.modPart (s.partOf t) (fun _ => Q)) t (T.spc + 4))

/-- 15/R385, R386: where `sysw` faults, and writes nothing: an unlisted register, a read-only one, an odd register for a
64-bit one, and the base of a ring that is on are ILLEGAL; a misaligned base, pool or page-table root and a reserved bit are
RESERVED_FIELD. -/
def Sys2Proof.Claims.PrivilegedWriteFaults : Prop :=
  ∀ (s : State) (t : Nat) (T : Team) (a : BitVec 6) (r : BitVec 12), s.runsS t T [a, a + 1] → supervisor s T → T.hasHandler →
    let P := s.part (s.partOf t)
    (privRead P r.toNat = none ∨ r = 0x012 ∨ r = 0x01A → TrapsS (exec (.sysw a r) s) s t T .illegal T.spc) ∧
    (r = 0x010 ∨ r = 0x018 ∨ r = 0x020 ∨ r = 0x028 →
      (a.toNat % 2 = 1 → TrapsS (exec (.sysw a r) s) s t T .illegal T.spc) ∧
      (a.toNat % 2 = 0 →
        (∀ R : Ring, (r = 0x010 ∧ R = P.fq) ∨ (r = 0x018 ∧ R = P.el) →
          (R.ctl.getLsbD 31 = true → TrapsS (exec (.sysw a r) s) s t T .illegal T.spc) ∧
          (R.ctl.getLsbD 31 = false → (T.rdp a).toNat % (64 * 2 ^ (R.ctl.toNat % 32)) ≠ 0 →
            TrapsS (exec (.sysw a r) s) s t T .reservedField T.spc)) ∧
        ((r = 0x020 ∧ (T.rdp a).toNat % 65536 ≠ 0) ∨
          (r = 0x028 ∧ (bitsOf (T.rdp a).toNat 63 52 ≠ 0 ∨ bitsOf (T.rdp a).toNat 15 1 ≠ 0)) →
            TrapsS (exec (.sysw a r) s) s t T .reservedField T.spc))) ∧
    (r = 0x021 → bitsOf (T.rd a).toNat 19 12 ≠ 0 → TrapsS (exec (.sysw a r) s) s t T .reservedField T.spc)

namespace Sys2Proof.Claims

/-- The value of a ring control that a ring cannot take with RESERVED_FIELD (15/R385 to R387): a reserved bit; with EN, a size
outside 4 to 16, a base that it makes misaligned, or a ring that lies where its consumer does not reach it. -/
def ringRefused (P : Part) (R : Ring) (x : Word) (reserved : Nat) (hostOnly : Bool) : Prop :=
  x.toNat &&& reserved ≠ 0 ∨ (x.getLsbD 31 = true ∧
    (x.toNat % 32 < 4 ∨ 16 < x.toNat % 32 ∨ R.base.toNat % (64 * 2 ^ (x.toNat % 32)) ≠ 0 ∨
      P.ringPlaced R.base.toNat (64 * 2 ^ (x.toNat % 32)) hostOnly = false))

end Sys2Proof.Claims

/-- 15/R385 to R387: turning a ring on through `sysw` zeroes its TAIL and HEAD; its size, and FQCTL's mode bit, stay while it
is on (ILLEGAL); a reserved bit, a size outside 4 to 16 with EN, and a base that the size misaligns or that lies where no ring
may are RESERVED_FIELD; a control written without turning the ring on leaves its other registers. -/
def Sys2Proof.Claims.RingControl : Prop :=
  ∀ (s : State) (t : Nat) (T : Team) (a : BitVec 6), s.runsS t T [a] → supervisor s T → s.partOf t < 8 → releasedS s t 4 →
    let P := s.part (s.partOf t)
    let x := T.rd a
    let fixed (R : Ring) (mode : Bool) : Prop :=
      R.ctl.getLsbD 31 = true ∧ (x.toNat % 32 ≠ R.ctl.toNat % 32 ∨ (mode = true ∧ x.getLsbD 30 ≠ R.ctl.getLsbD 30))
    (P.fq.ctl.getLsbD 31 = false → x.getLsbD 31 = true → ¬ringRefused P P.fq x 0x3FFFFFE0 (!x.getLsbD 30) →
        exec (.sysw a 0x011) s = .next (s.sDone (s.modPart (s.partOf t)
          (fun P => { P with fq := { P.fq with ctl := x, tail := 0, head := 0 }, fqGen := P.fqGen + 1 })) t (T.spc + 4))) ∧
    (P.el.ctl.getLsbD 31 = false → x.getLsbD 31 = true → ¬ringRefused P P.el x 0x7FFFFFE0 false →
        exec (.sysw a 0x019) s = .next (s.sDone (s.modPart (s.partOf t)
          (fun P => { P with el := { P.el with ctl := x, tail := 0, head := 0 } })) t (T.spc + 4))) ∧
    ((P.fq.ctl.getLsbD 31 = true ∨ x.getLsbD 31 = false → ¬fixed P.fq true →
        ¬ringRefused P P.fq x 0x3FFFFFE0 (!x.getLsbD 30) →
        exec (.sysw a 0x011) s = .next (s.sDone (s.modPart (s.partOf t)
          (fun P => { P with fq := { P.fq with ctl := x } })) t (T.spc + 4))) ∧
      (P.el.ctl.getLsbD 31 = true ∨ x.getLsbD 31 = false → ¬fixed P.el false →
        ¬ringRefused P P.el x 0x7FFFFFE0 false →
        exec (.sysw a 0x019) s = .next (s.sDone (s.modPart (s.partOf t)
          (fun P => { P with el := { P.el with ctl := x } })) t (T.spc + 4)))) ∧
    (T.hasHandler →
      (fixed P.fq true → TrapsS (exec (.sysw a 0x011) s) s t T .illegal T.spc) ∧
      (fixed P.el false → TrapsS (exec (.sysw a 0x019) s) s t T .illegal T.spc) ∧
      (¬fixed P.fq true → ringRefused P P.fq x 0x3FFFFFE0 (!x.getLsbD 30) →
        TrapsS (exec (.sysw a 0x011) s) s t T .reservedField T.spc) ∧
      (¬fixed P.el false → ringRefused P P.el x 0x7FFFFFE0 false →
        TrapsS (exec (.sysw a 0x019) s) s t T .reservedField T.spc))

/-- 15/R388 to R390: `fqpop` gives the address of the oldest entry, or 0; `eret` reads RESOL of the entry that the team holds,
applies it, closes the entry when it is open, and releases it (of entries of one SEQ, that which was posted under the enabling
of the queue under which the team took it, the model's choice, log entry 129); `eret` by a team that holds none, and `fqpop` by
one that holds one, trap with ILLEGAL; `tinval` starts a sweep of the address, which waits for the team's earlier stores (the
model's reading, log entry 30), and `tsync` completes once no sweep of the team is left. -/
def Sys2Proof.Claims.FaultQueueInstructions : Prop :=
  ∀ (s : State) (t : Nat) (T : Team), supervisor s T → s.partOf t < 8 →
    let P := s.part (s.partOf t)
    (∀ d : BitVec 6, s.runsS t T [d, d + 1] → T.fqHeld = none →
      (P.fq.ctl.getLsbD 31 = true → P.fq.ctl.getLsbD 30 = true → P.fq.tail ≠ P.fq.head →
        completesS (exec (.fqpop d) s) t T (T.wrp d (BitVec.ofNat 64
            (P.fq.base.toNat + 64 * (P.fq.head.toNat % 2 ^ (P.fq.ctl.toNat % 32))))).s (fun s' U =>
          U.fqHeld = some (BitVec.ofNat 64 (P.fq.base.toNat + 64 * (P.fq.head.toNat % 2 ^ (P.fq.ctl.toNat % 32))), P.fq.head) ∧
          U.fqGen = P.fqGen ∧ (s'.part (s.partOf t)).fq.head = P.fq.head + 1 ∧ s.sameMemory s')) ∧
      (P.fq.ctl.getLsbD 31 = false ∨ P.fq.ctl.getLsbD 30 = false ∨ P.fq.tail = P.fq.head →
        exec (.fqpop d) s = .next (s.sNext t (T.wrp d 0)))) ∧
    (∀ (a : DWord) (seq : BitVec 32), s.runsS t T [] → T.fqHeld = some (a, seq) → releasedS s t 4 →
      s.crossHeld (s.partOf t) (fun z => z.resolveAt (s.partOf t) a.toNat (P.openOf seq (some T.fqGen))) = false →
      ((∀ o ∈ P.fqOpen, o.seq ≠ seq ∨ o.gen ≠ T.fqGen) →
        completesS (exec .eret s) t T T.s (fun s' U => U.fqHeld = none ∧ s.sameMemory s')) ∧
      (∀ o, P.openOf seq (some T.fqGen) = some o →
        completesS (exec .eret s) t T T.s (fun s' U => U.fqHeld = none ∧
          (s'.part (s.partOf t)).fqOpen = P.fqOpen.filter (fun x => x != o) ∧
          resolved s s' t o seq (s.readAt (s.partOf t) (P.place a.toNat 64).1 (P.place a.toNat 64).2 64)))) ∧
    (T.hasHandler → (T.fqHeld = none → s.runsS t T [] → TrapsS (exec .eret s) s t T .illegal T.spc) ∧
      ∀ d : BitVec 6, T.fqHeld.isSome = true → s.runsS t T [d, d + 1] →
        TrapsS (exec (.fqpop d) s) s t T .illegal T.spc) ∧
    (∀ a : BitVec 6, s.runsS t T [a, a + 1] → completesS (exec (.tinval a) s) t T T.s (fun s' _ =>
      (s'.part (s.partOf t)).sweeps =
        P.sweeps ++ [{ team := some t, va := T.rdp a, removed := false,
                       waits := ((s.sEarlier t).filter (fun e => !e.op.isLoad)).map (·.id) }] ∧ s.sameMemory s')) ∧
    (s.runsS t T [] → (∀ w ∈ P.sweeps, w.team ≠ some t) → exec .tsync s = .next (s.sNext t T))

/-- 15/R391 to R393: `ctxsave` whose image has been written completes, and so does one that names no resident gang, with
STATUS 1 in its request block (and NEED 0, the model's choice, log entry 109); `ctxload` of the readable image of a gang that waits
saved under software's control queues that gang for placement, and of one that has retired or was removed a gang made anew from
the image (the model's choice, log entry 128); `svc` whose entry was resolved RETRY completes with RESULT
in `s4` and `s5`. -/
def Sys2Proof.Claims.ContextAndServiceInstructions : Prop :=
  ∀ (s : State) (t : Nat) (T : Team),
    (∀ a : BitVec 6, s.runsS t T [a, a + 1] → supervisor s T →
      (T.wait = .ctxDone → exec (.ctxsave a) s = .next (s.sNext t T)) ∧
      (∀ (bs : List Byte) (s1 s2 s3 : State), T.wait = .none → (T.rdp a).toNat % 64 = 0 →
        s.sPending t (T.rdp a) 64 = false → mayRead s t T (T.rdp a) 64 →
        s.unitRead (s.partOf t) (some T.core) (T.core / 36) (T.rdp a) 64 (some t) = (.ok bs, s1) →
        (s1.saveReq (s.partOf t) bs).ok = true → (s1.saveReq (s.partOf t) bs).gang = none →
        s1.unitWrite (s.partOf t) (some T.core) (T.core / 36) (walkSrc t) (T.rdp a + 0x14) (zeros 8) (some t) = (.ok (), s2) →
        s1.unitWrite (s.partOf t) (some T.core) (T.core / 36) (walkSrc t) (T.rdp a + 0x14)
          (leBytes 4 1 ++ leBytes 4 0) (some t) = (.ok (), s3) →
          exec (.ctxsave a) s = .next (s.sDone s3 t (T.spc + 4)))) ∧
    (∀ (a : BitVec 6) (hdr img : List Byte) (s1 s2 : State) (g : Nat), s.runsS t T [a, a + 1] → supervisor s T →
      (T.rdp a).toNat % 64 = 0 → s.sPending t (T.rdp a) 256 = false → mayRead s t T (T.rdp a) 256 →
      s.unitRead (s.partOf t) (some T.core) (T.core / 36) (T.rdp a) 256 (some t) = (.ok hdr, s1) → headerOk hdr = true →
      s1.unitRead (s.partOf t) (some T.core) (T.core / 36) (T.rdp a) (natAt hdr 8 4) (some t) = (.ok img, s2) →
      s2.loadCheck (s.partOf t) (T.rdp a) img = .ok g → g < s.gangs.length → (s.gang g).launch < s.launches.length →
        completesS (exec (.ctxload a) s) t T T.s (fun s' _ => ∃ g',
          g' = (if (s.gang g).phase = .saved then g else s.gangs.length) ∧ (s'.gang g').phase = .saved ∧
          (s'.gang g').num = (s.gang g).num ∧
          (∃ loc, (s'.gang g').image = some loc ∧ loc.addr = T.rdp a ∧ loc.software = true) ∧
          g' ∈ (s'.launch (s.gang g).launch).resumed)) ∧
    (∀ (imm : BitVec 20) (x : DWord), s.runsS t T [4, 5, 6, 7] → T.wait = .svcDone .retry x →
      exec (.svc imm) s = .next (s.sNext t (T.wrp 4 x)))

/-- 15/R393: `svc` with the fault queue on waits to be posted, once the team's earlier accesses are performed at system scope;
with the queue off it traps with ILLEGAL; resolved FAIL it traps with USER and its number. -/
def Sys2Proof.Claims.ServiceWaits : Prop :=
  ∀ (s : State) (t : Nat) (T : Team) (imm : BitVec 20), s.runsS t T [4, 5, 6, 7] →
    ((s.part (s.partOf t)).fq.ctl.getLsbD 31 = true → T.wait = .none → releasedS s t 4 →
      ∃ s' U, exec (.svc imm) s = .next s' ∧ s'.teams[t]? = some U ∧ U.wait = .svc imm none ∧ U.blocked = true ∧
        U.spc = T.spc) ∧
    ((s.part (s.partOf t)).fq.ctl.getLsbD 31 = false → T.wait = .none → T.hasHandler →
      TrapsS (exec (.svc imm) s) s t T .illegal T.spc) ∧
    (∀ x : DWord, T.wait = .svcDone .fail x → T.hasHandler → TrapsS (exec (.svc imm) s) s t T .user (imm.setWidth 64))

namespace Sys2Proof.Claims

/-! ## Lane instructions: what the rules give each lane -/

/-- Elements of three lane values, read as their type has them, through a function, back into a lane: each result is reduced
modulo 2^w (08/R190, 04/R82). -/
def onElems (ty : LType) (g : Int → Int → Int → Int) (a b c : Nat) : Nat :=
  let w := LType.width ty
  let x (v k : Nat) : Int := intOf w (LType.signed ty) (elemAt w v k)
  packElems w ((List.range (LType.count ty)).map (fun k => (g (x a k) (x b k) (x c k) % 2 ^ w).toNat))

/-- The same on the elements' bits. -/
def onBits (ty : LType) (g : Nat → Nat → Nat) (a b : Nat) : Nat :=
  let w := LType.width ty
  packElems w ((List.range (LType.count ty)).map (fun k => g (elemAt w a k) (elemAt w b k) % 2 ^ w))

/-- What an integer or move instruction gives a lane, as a number of 32 or 64 bits (08/R190 to R202): its fields, how many
registers it writes, and the value; a division by 0 gives none. -/
def laneInt (i : Instr) : Option (LF × Nat × (LCtx → Nat → Option Nat)) :=
  let ints (f : LF) (g : Int → Int → Int → Int) : Option (LF × Nat × (LCtx → Nat → Option Nat)) :=
    if f.ty.isInt then
      some (f, if f.ty.isW64 then 2 else 1, fun C l =>
        some (onElems f.ty g (C.val f.ty f.a l) (C.valB f l) (C.val f.ty f.c l)))
    else none
  let bits (f : LF) (g : Nat → Nat → Nat) : Option (LF × Nat × (LCtx → Nat → Option Nat)) :=
    some (f, if f.ty.isW64 then 2 else 1, fun C l => some (onBits f.ty g (C.val f.ty f.a l) (C.valB f l)))
  let quot (f : LF) (g : Int → Int → Int) : Option (LF × Nat × (LCtx → Nat → Option Nat)) :=
    if f.ty.isW then
      some (f, if f.ty.isW64 then 2 else 1, fun C l =>
        let x (v : Nat) : Int := intOf (LType.width f.ty) (LType.signed f.ty) v
        if C.valB f l = 0 then none
        else some ((g (x (C.val f.ty f.a l)) (x (C.valB f l)) % 2 ^ LType.width f.ty).toNat))
    else none
  let word (f : LF) (g : LCtx → Nat → Nat) : Option (LF × Nat × (LCtx → Nat → Option Nat)) :=
    some (f, 1, fun C l => some (g C l))
  match i with
  | .vadd f => ints f (fun a b _ => a + b)
  | .vsub f => ints f (fun a b _ => a - b)
  | .vmul f => ints f (fun a b _ => a * b)
  | .vmulh f => if f.ty.isInt then ints f (fun a b _ => a * b / 2 ^ LType.width f.ty) else none
  | .vmad f => ints f (fun a b c => a * b + c)
  | .vdiv f => quot f (fun a b => a.tdiv b)
  | .vrem f => quot f (fun a b => a.tmod b)
  | .vneg f => ints f (fun a _ _ => -a)
  | .vabs f => ints f (fun a _ _ => if a < 0 then -a else a)
  | .vmin f => ints f (fun a b _ => if a ≤ b then a else b)
  | .vmax f => ints f (fun a b _ => if a ≤ b then b else a)
  | .vand f => bits f Nat.land
  | .vor f => bits f Nat.lor
  | .vxor f => bits f Nat.xor
  | .vandn f => bits f (fun a b => Nat.land a (2 ^ LType.width f.ty - 1 - b))
  | .vshl f => bits f (fun a b => a * 2 ^ (b % LType.width f.ty))
  | .vshr f => bits f (fun a b => a / 2 ^ (b % LType.width f.ty))
  | .vsra f =>
    bits f (fun a b => (signedOf (LType.width f.ty) a / 2 ^ (b % LType.width f.ty) % 2 ^ LType.width f.ty).toNat)
  | .vrot f => bits f (fun a b =>
      let k := b % LType.width f.ty
      a * 2 ^ k % 2 ^ LType.width f.ty + a / 2 ^ (LType.width f.ty - k))
  | .vclz f => bits f (fun a _ => LType.width f.ty - (if a = 0 then 0 else Nat.log2 a + 1))
  | .vpopc f => bits f (fun a _ => ((List.range (LType.width f.ty)).map (fun k => a / 2 ^ k % 2)).sum)
  | .vsel f => if f.ty = .ef then none else
      some (f, if f.ty.isW64 then 2 else 1, fun C l =>
        some (C.val f.ty (if (C.mask f.c).getLsbD l then f.a else f.b) l))
  | .vmov f => if f.ty = .ef then none else some (f, if f.ty.isW64 then 2 else 1, fun C l => some (C.val f.ty f.a l))
  | .vmovImm ty ms d imm =>
    some ({ ty := ty, ms := ms, d := d }, if ty.isW64 then 2 else 1, fun _ _ => some imm.toNat)
  | .vlea f => some (f, 2, fun C l =>
      let x : Int := if f.ty = .i32 then (C.src f.b l).toInt else (C.src f.b l).toNat
      some ((((C.pair f.a l).toNat + x * 2 ^ (f.md.toNat % 8) + f.imm.toInt) % 2 ^ 64).toNat))
  | .vbfx f => word f (fun C l =>
      let w := bitsOf f.imm.toNat 10 5 + 1
      let x := (C.src f.a l).toNat / 2 ^ bitsOf f.imm.toNat 4 0 % 2 ^ w
      if f.ty = .i32 ∧ 2 ^ (w - 1) ≤ x then (((x : Int) - 2 ^ w) % 2 ^ 32).toNat else x)
  | .vbfi f => word f (fun C l =>
      let p := bitsOf f.imm.toNat 4 0
      let w := bitsOf f.imm.toNat 10 5 + 1
      let y := (C.src f.b l).toNat
      y % 2 ^ p + (C.src f.a l).toNat % 2 ^ w * 2 ^ p + y / 2 ^ (p + w) * 2 ^ (p + w))
  | .vrank f => word f (fun C l =>
      ((C.src f.b l).toNat + ((C.lanes.filter (fun k => k < l && C.src f.a k != 0)).length)) % 2 ^ 32)
  | .vswz f => some (f, if f.ty.isW64 then 2 else 1, fun C l =>
      let k := (C.src f.b l).toNat
      some (if C.w ≤ k ∨ (C.visiting = true ∧ C.away.getLsbD k = true) then 0 else C.val f.ty f.a k))
  | .vbcast f => some (f, if f.ty.isW64 then 2 else 1, fun C _ =>
      let k := f.imm.toNat
      some (if C.w ≤ k ∨ (C.visiting = true ∧ C.away.getLsbD k = true) then 0 else C.val f.ty f.a k))
  | _ => none

/-- The words of a lane's value. -/
def wordsOfNat (cnt x : Nat) : List Word := (List.range cnt).map (fun j => BitVec.ofNat 32 (x / 2 ^ (32 * j)))

/-- What an instruction on elements, on floating values or on elastic registers gives a lane: its words, its flags, the count of
replacements, or the fault that keeps it from completing (09/R233 to R260, 08/R218, R219, R221). -/
def laneValue (s : State) (i : Instr) : Option (LF × Nat × (LCtx → Nat → LOut)) :=
  let flt (f : LF) (g : LCtx → FV → FV → FV → FV × Flags) : Option (LF × Nat × (LCtx → Nat → LOut)) :=
    if f.ty.isInt ∨ f.ty = .ef then none
    else
      some (f, 1, fun C l =>
        let w := LType.width f.ty
        let v (x : Src) (k : Nat) : FV := C.inVal f.ty (elemAt w (C.src x l).toNat k)
        packOut w ((List.range (LType.count f.ty)).map (fun k =>
          let r := g C (v f.a k) (v f.b k) (v f.c k)
          let o := (fmtOf f.ty).round 0 false (C.flush f.ty) r.1
          (o.1, r.2 ||| o.2))))
  let codes (f : LF) (g : LCtx → Nat → Nat → Nat × Flags) : Option (LF × Nat × (LCtx → Nat → LOut)) :=
    if f.ty.isInt ∨ f.ty = .ef then none
    else
      some (f, 1, fun C l =>
        let w := LType.width f.ty
        packOut w ((List.range (LType.count f.ty)).map (fun k =>
          g C (elemAt w (C.src f.a l).toNat k) (elemAt w (C.src f.b l).toNat k))))
  match i with
  | .vadd f => flt f (fun _ a b _ => addFV 0 a b)
  | .vsub f => flt f (fun _ a b _ => addFV 0 a b.flip)
  | .vmul f => flt f (fun _ a b _ => mulFV a b)
  | .vmad f => flt f (fun _ a b c => fmaFV 0 a b c)
  | .vdiv f => flt f (fun _ a b _ => divFV (fnBits f.ty) a b)
  | .vsqrt f => flt f (fun _ a _ _ => sqrtFV (fnBits f.ty) a)
  | .vrcp f => flt f (fun _ a _ _ => rcpFV (fnBits f.ty) a)
  | .vrsq f => flt f (fun _ a _ _ => rsqrtFV (fnBits f.ty) a)
  | .vexp2 f => flt f (fun _ a _ _ => exp2FV (fnBits f.ty) a)
  | .vlog2 f => flt f (fun _ a _ _ => log2FV (fnBits f.ty) a)
  | .vneg f => codes f (fun _ a _ => (Nat.xor a (2 ^ (LType.width f.ty - 1)), 0))
  | .vabs f => codes f (fun _ a _ => (a % 2 ^ (LType.width f.ty - 1), 0))
  | .vmin f => codes f (fun C a b => pickCode (fmtOf f.ty) false (C.inCode f.ty a) (C.inCode f.ty b))
  | .vmax f => codes f (fun C a b => pickCode (fmtOf f.ty) true (C.inCode f.ty a) (C.inCode f.ty b))
  | .vcls f => if f.ty = .ef then none else
      some (f, 1, fun C l => { xs := [BitVec.ofNat 32 (packElems (LType.width f.ty)
        ((List.range (LType.count f.ty)).map (fun k =>
          classOf (fmtOf f.ty) (elemAt (LType.width f.ty) (C.src f.a l).toNat k))))] })
  | .vfinq f => if f.ty = .ef then none else
      some (f, 1, fun C l =>
        let w := LType.width f.ty
        let bad (k : Nat) : Bool :=
          let v := (fmtOf f.ty).decode (elemAt w (C.src f.a l).toNat k)
          v.isNan || v.isInf
        { xs := [BitVec.ofNat 32 (packElems w ((List.range (LType.count f.ty)).map (fun k =>
            elemAt w (C.src (if bad k then f.b else f.a) l).toNat k)))],
          nf := ((List.range (LType.count f.ty)).filter bad).length })
  | .vprune f => some (f, 1, fun C l =>
      let w := LType.width f.ty
      packOut w ((List.range (LType.count f.ty)).map (fun k =>
        let u := bitsOf (gen C.blk.lq.rkey (genCtr (f.imm.extractLsb' 0 16) (C.pair f.b l + BitVec.ofNat 64 k))).toNat 63 40
        prune (fmtOf f.ty) (C.inCode f.ty (elemAt w (C.src f.a l).toNat k))
          (C.inCode f.ty (elemAt w (C.src f.c l).toNat k)) u)))
  | .vrng f => if bitsOf f.imm.toNat 20 16 = 0 ∧ f.ty ≠ .f32 then
      some (f, 1, fun C l => { xs := [(gen C.blk.lq.rkey (genCtr (f.imm.extractLsb' 0 16) (C.pair f.a l))).extractLsb' 32 32] })
    else some (f, 1, fun C l =>
      let g := (gen C.blk.lq.rkey (genCtr (f.imm.extractLsb' 0 16) (C.pair f.a l))).toNat
      let k := bitsOf f.imm.toNat 20 16
      { xs := [BitVec.ofNat 32 (if f.ty = .f32 then (fmtF32.roundFin 0 false false false (g / 2 ^ 40) (-24)).1
          else k * 2 ^ 24 + g / 2 ^ (64 - k) * 2 ^ (24 - k))] })
  | .vcvt f => if f.ty = .ef then none else
      let st := LType.ofCode f.md
      let n := cvtCount f.ty st
      some (f, if f.ty.isW64 then 2 else cvtRegs f.ty n, fun C l =>
        cvtPack f.ty n ((List.range n).map (fun k => C.cvtOut f.ty (C.cvtIn st f.a l k))))
  | .vcvtSr f =>
    let st := LType.ofCode f.md
    let n := cvtCount f.ty st
    let op (C : LCtx) (l k : Nat) : Nat := (C.src (srcPlus f.b k) l).toNat
    some (f, cvtRegs f.ty n, fun C l =>
      if (List.range n).any (fun k => bitsOf (op C l k) 31 29 != 0 || bitsOf (op C l k) 28 24 == 0 || 24 < bitsOf (op C l k) 28 24)
      then { bad := some (.reservedField, s.lAddr C) }
      else
        cvtPack f.ty n ((List.range n).map (fun k =>
          let v := C.cvtIn st f.a l k
          let b := bitsOf (op C l k) 28 24
          let r := (fmtOf f.ty).roundSr b (bitsOf (op C l k) 23 (24 - b)) C.sat (C.flush f.ty) v
          (r.1, r.2 ||| sigNV [v]))))
  | .vmxd f => some (f, 1, fun C l =>
      let words := (List.range 9).map (fun j =>
        if C.visiting && C.away.getLsbD (32 * (l / 32) + j) then (s.freeWord (32 * (l / 32) + j)).toNat % 2 ^ 32
        else (C.src f.a (32 * (l / 32) + j)).toNat)
      let v := (blockValue C.bfmt words (l % 32)).1
      let r := fmtF32.round 0 false false v
      { xs := [BitVec.ofNat 32 r.1], fl := r.2 ||| (if v.isNan then flNV else 0) })
  | .eprec f => some (f, 1, fun C l =>
      let p := (C.regs.prc.at l).toNat
      let x := f.imm.toNat
      let pick (on hi lo : Nat) : Nat := bitsOf (if bitsOf x on on = 1 then x else p) hi lo * 2 ^ lo
      { xs := [BitVec.ofNat 32 (pick 22 15 12 + pick 21 11 4 + pick 20 3 0)] })
  | .vrdx f => some (f, if f.imm.toNat % 256 = 6 then 2 else 1, fun C _ =>
      let x : Nat := match f.imm.toNat % 256 with
        | 0 => C.tid
        | 1 => (s.gang (s.team C.t).gang).num
        | 2 => (s.team C.t).rank
        | 3 => s.logicalCore C.part C.core
        | 4 => C.die - (s.part C.part).dieFirst
        | 5 => C.w
        | 6 => s.time.toNat
        | _ => C.blk.fmt.toNat
      { xs := wordsOfNat (if f.imm.toNat % 256 = 6 then 2 else 1) x })
  | _ => none

/-- What an elastic instruction gives a lane under its PRC: the working length and mode, the checks of 09/R253 on what it stores,
or the move of an encoding (09/R253 to R256, R259, R260). -/
def laneElastic (i : Instr) : Option (LF × (LCtx → Nat → LOut)) :=
  let ar (f : LF) (g : Nat → Nat → EV → EV → EV → EOut) : Option (LF × (LCtx → Nat → LOut)) :=
    if f.ty = .ef then
      some (f, fun C l =>
        let p := (C.regs.prc.at l).toNat
        let len := bitsOf p 3 0 + 2
        C.eStore f.d l len (g (bitsOf p 14 12) len (C.eVal f.a l) (C.eVal f.b l) (C.eVal f.c l)))
    else none
  let fn (f : LF) (g : Nat → FV → FV × Flags) (sg : EV → Nat → Int → Int) : Option (LF × (LCtx → Nat → LOut)) :=
    ar f (fun m len x _ _ => eFinish m len (g (ePrec len + 3) x.v) (sg x (ePrec len)) false)
  let mv (f : LF) (g : LCtx → Nat → List Nat × Flags) : Option (LF × (LCtx → Nat → LOut)) :=
    if f.ty = .ef then some (f, fun C l => C.eMove f.d l (g C l).1 (g C l).2) else none
  match i with
  | .vadd f => ar f (fun m len x y _ => eAdd m len x y)
  | .vsub f => ar f (fun m len x y _ => eAdd m len x y.flip)
  | .vmul f => ar f (fun m len x y _ => eMul m len x y)
  | .vmad f => ar f (fun m len x y z => eFma m len x y z)
  | .vdiv f => ar f (fun m len x y _ => eDiv m len x y)
  | .vsqrt f => fn f sqrtFV (fun x _ _ => x.sig)
  | .vrcp f => fn f rcpFV (fun x _ _ => x.sig)
  | .vrsq f => fn f rsqrtFV (fun x _ _ => x.sig)
  | .vexp2 f => fn f exp2FV (fun x p _ => match x.lsbTerm with | some l => -l | none => p)
  | .vlog2 f => fn f log2FV (fun x _ e => e + x.sig - 1)
  | .vmin f => mv f (fun C l => ePick false (C.eRaw f.a l) (C.eRaw f.b l))
  | .vmax f => mv f (fun C l => ePick true (C.eRaw f.a l) (C.eRaw f.b l))
  | .vsel f => mv f (fun C l => (C.eRaw (if (C.mask f.c).getLsbD l then f.a else f.b) l, 0))
  | .vmov f => mv f (fun C l => (C.eRaw f.a l, 0))
  | .eround f => some (f, fun C l =>
      let p := (C.regs.prc.at l).toNat
      let n := if bitsOf f.imm.toNat 4 0 = 0 then bitsOf p 3 0 + 2 else bitsOf f.imm.toNat 4 0
      let x := C.eVal f.a l
      if x.v.isNan = true ∧ x.c ≤ n then { bad := some (.illegal, 0) }
      else
        let r := eRound (bitsOf p 14 12) n x
        C.eStore f.d l n { r with fl := r.fl ||| sigNV [x.v] })
  | .esig f => if bitsOf f.imm.toNat 9 8 = 0 then some (f, fun C l => { xs := [BitVec.ofNat 32 (C.eVal f.a l).sig] })
    else
      some (f, fun C l =>
        let r := eNarrow (bitsOf (C.regs.prc.at l).toNat 14 12) (C.dstCap f.d) (C.eRaw f.a l)
        let x := EV.read r.1
        let sg := if x.v.isNum then min (bitsOf f.imm.toNat 7 0) (ePrec x.c) else 0
        let h0 := (r.1[0]?).getD 0
        { xs := C.eMerge f.d l ((h0 % 16 + sg % 256 * 16 + h0 / 4096 * 4096) :: r.1.drop 1), fl := r.2 })
  | .vneg f => mv f (fun C l =>
      let hs := C.eRaw f.a l
      let h := (hs[1]?).getD 0
      (hs.take 1 ++ [if h.testBit 11 then h - 2048 else h + 2048] ++ hs.drop 2, 0))
  | .vabs f => mv f (fun C l =>
      let hs := C.eRaw f.a l
      let h := (hs[1]?).getD 0
      (hs.take 1 ++ [if h.testBit 11 then h - 2048 else h] ++ hs.drop 2, 0))
  | .vcls f => if f.ty = .ef then
      some (f, fun C l =>
        let x := C.eVal f.a l
        let low := x.v.isNum && x.sig < bitsOf (C.regs.prc.at l).toNat 11 4
        { xs := [BitVec.ofNat 32 (classBit x.v false + (if low then 2 ^ 10 else 0))] })
    else none
  | .vfinq f => if f.ty = .ef then
      some (f, fun C l =>
        let v := (C.eVal f.a l).v
        let bad := v.isNan || v.isInf
        { C.eMove f.d l (C.eRaw (if bad then f.b else f.a) l) 0 with nf := if bad then 1 else 0 })
    else none
  | .vcvt f => if f.ty = .ef ∧ cvtCount .ef (LType.ofCode f.md) = 1 then
      some (f, fun C l => C.cvtElastic f.d l (C.cvtIn (LType.ofCode f.md) f.a l 0))
    else none
  | _ => none

/-- Every lane of the effective mask completes. -/
def allComplete (C : LCtx) (out : Nat → LOut) : Prop := ∀ l ∈ C.lanes, (out l).bad = none

/-- An L instruction, issued with the context `C`, completes with `D` in its place. -/
def completesL (i : Instr) (s : State) (C : LCtx) (p : LCtx → Prop) : Prop :=
  ∃ D, exec i s = .next (s.lEnds i C D) ∧ p D

/-- An L instruction some of whose lanes fault, at home in team `t`, which is RUNNING: those lanes wait to be trapped, with the
lowest cause and its lowest lane's address (03/R54), and write nothing; the others hold their results in `D`. -/
def trapsLanes (i : Instr) (s : State) (C : LCtx) (t : Nat) (d : Dst) (cnt : Nat) (bad : Nat → Option (Cause × DWord))
    (val : Nat → List Word) : Prop :=
  ∃ s' U p D, exec i s = .next s' ∧ s'.teams[t]? = some U ∧ U.pendL = some p ∧ U.regs = D.regs ∧ U.blk = some D.blk ∧
    p.tlpc = C.blk.lpc ∧ (∀ k < 1024, p.lanes.getLsbD k = (C.lanes.contains k && (bad k).isSome)) ∧
    (∃ k ∈ C.lanes, bad k = some (p.cause, p.taddr) ∧
      ∀ j ∈ C.lanes, ∀ c a, bad j = some (c, a) → causeCode p.cause ≤ causeCode c ∧ (c = p.cause → k ≤ j)) ∧
    LFrame C D d cnt ∧
    (∀ k ∈ C.lanes, bad k = none → ∀ j < D.dstWords d cnt, D.dstHolds d j k (((val k)[j]?).getD 0)) ∧
    (∀ k ∈ C.lanes, (bad k).isSome → ∀ (n : Nat) (r r' : VReg), C.regs.v[n]? = some r → D.regs.v[n]? = some r' →
      r'.at k = r.at k)

end Sys2Proof.Claims

/-- 08/R190 to R202, R215 to R217, 02/R29, 03/R66, R67: an integer, move or cross-lane instruction that is issued with a mask
that is not empty completes; every active lane's destination holds the exact result of its own operands modulo the element's
width, whatever shapes the registers have; and nothing else of the lane state changes, flags and counts included. -/
def Obligations.LaneIntegerResults : Prop :=
  ∀ (i : Instr) (s : State) (C : LCtx) (f : LF) (cnt : Nat) (val : LCtx → Nat → Option Nat), laneInt i = some (f, cnt, val) →
    s.actsL i f.ms C → (∀ l ∈ C.lanes, (val C l).isSome) →
    C.prcFits f.d (fun l => wordsOfNat cnt ((val C l).getD 0)) →
      completesL i s C (fun D => D.wrote f.d cnt (fun l => wordsOfNat cnt ((val C l).getD 0)) ∧ LFrame C D f.d cnt ∧
        D.flags = C.flags ∧ D.nfcAdd = C.nfcAdd)

/-- 08/R197: a lane division with a divisor of 0 in some lane does not complete: those lanes trap with ARITH at home, which waits
to be delivered while the team is RUNNING, and write nothing; the other lanes have their quotients or remainders. -/
def Sys2Proof.Claims.LaneDivisionByZero : Prop :=
  ∀ (i : Instr) (s : State) (C : LCtx) (f : LF) (cnt : Nat) (val : LCtx → Nat → Option Nat) (t : Nat) (T : Team) (l : Nat),
    i = .vdiv f ∨ i = .vrem f → laneInt i = some (f, cnt, val) →
    s.actsL i f.ms C → C.who = .l t → s.teams[t]? = some T → T.phase = .running → l ∈ C.lanes → C.valB f l = 0 →
    dstReg f.d ≠ some .prc →
      trapsLanes i s C t f.d cnt (fun k => if C.valB f k = 0 then some (.arith, 0) else none)
        (fun k => wordsOfNat cnt ((val C k).getD 0))

/-- 09/R233 to R250, 08/R221, 09/R251: a floating, conversion, block-format, pruning or generator instruction, `eprec` or `vrdx`
that is issued with a mask that is not empty, and of which no lane faults, completes with each lane's words; the flags of
the lanes are added to the block's, and the replacements counted. -/
def Sys2Proof.Claims.LaneFloatResults : Prop :=
  ∀ (i : Instr) (s : State) (C : LCtx) (f : LF) (cnt : Nat) (out : LCtx → Nat → LOut), laneValue s i = some (f, cnt, out) →
    s.actsL i f.ms C → allComplete C (out C) → C.prcFits f.d (fun l => (out C l).xs) →
      completesL i s C (fun D => D.wrote f.d cnt (fun l => (out C l).xs) ∧ LFrame C D f.d cnt ∧
        D.flags = C.lanes.foldl (fun a l => a ||| (out C l).fl) C.flags ∧
        D.nfcAdd = C.nfcAdd + (C.lanes.map (fun l => (out C l).nf)).sum)

/-- 09/R253 to R256, R259, R260: an elastic instruction of which no lane fails the checks of R253 completes; every active lane's
elastic register holds the encoding, and the halfwords beyond it keep their bits (this last is the model's reading, log entry
71); overflow of `vexp2` under a rounding towards zero, and the flags of a narrowed copy of `vfinq`, are as the model chose (log
entries 131 and 132). -/
def Obligations.LaneElasticResults : Prop :=
  ∀ (i : Instr) (s : State) (C : LCtx) (f : LF) (out : LCtx → Nat → LOut), laneElastic i = some (f, out) →
    s.actsL i f.ms C → allComplete C (out C) → C.prcFits f.d (fun l => (out C l).xs) →
      completesL i s C (fun D => D.wrote f.d 1 (fun l => (out C l).xs) ∧ LFrame C D f.d 1 ∧
        D.flags = C.lanes.foldl (fun a l => a ||| (out C l).fl) C.flags ∧
        D.nfcAdd = C.nfcAdd + (C.lanes.map (fun l => (out C l).nf)).sum)

/-- 09/R253: an elastic result longer than its destination's capacity faults its lane with CAPACITY before its significance is
looked at, and one that PRC's floor refuses with PRECISION; and an elastic, floating or conversion instruction of which some
lanes fault traps those lanes at home, with the lowest cause: they write nothing, the others have their results. -/
def Sys2Proof.Claims.ElasticStoreChecks : Prop :=
  (∀ (i : Instr) (s : State) (C : LCtx) (f : LF) (out : LCtx → Nat → LOut) (t : Nat) (T : Team),
    laneElastic i = some (f, out) → s.actsL i f.ms C → C.who = .l t → s.teams[t]? = some T → T.phase = .running →
    dstReg f.d ≠ some .prc → ¬allComplete C (out C) →
      trapsLanes i s C t f.d 1 (fun k => (out C k).bad) (fun k => (out C k).xs)) ∧
  (∀ (i : Instr) (s : State) (C : LCtx) (f : LF) (cnt : Nat) (out : LCtx → Nat → LOut) (t : Nat) (T : Team),
    laneValue s i = some (f, cnt, out) → s.actsL i f.ms C → C.who = .l t → s.teams[t]? = some T → T.phase = .running →
    dstReg f.d ≠ some .prc → ¬allComplete C (out C) →
      trapsLanes i s C t f.d cnt (fun k => (out C k).bad) (fun k => (out C k).xs)) ∧
  ∀ (C : LCtx) (d : Dst) (l len : Nat) (r : EOut),
    (C.dstCap d < len → (C.eStore d l len r).bad = some (.capacity, 0)) ∧
    (len ≤ C.dstCap d → prcPxe (C.prc l) = true → r.checked = true → r.x.sig < prcFloor (C.prc l) →
      (C.eStore d l len r).bad = some (.precision, 0) ∧ (C.eStore d l len r).xs = []) ∧
    (len ≤ C.dstCap d → prcPxe (C.prc l) = false → (C.eStore d l len r).bad = none ∧ (C.eStore d l len r).fl = r.fl)

namespace Sys2Proof.Claims

/-! ## Reductions, masks, result slots -/

/-- The exact reduction of integers (08/R218). -/
def foldInts (w : Nat) (sg : Bool) (op : Nat) (xs : List Nat) : Nat :=
  let sum : Nat := xs.sum % 2 ^ w
  let lo : Option Nat := xs.foldl (fun m x => match m with
    | none => some x
    | some y => if intOf w sg x < intOf w sg y then some x else some y) none
  let hi : Option Nat := xs.foldl (fun m x => match m with
    | none => some x
    | some y => if intOf w sg y < intOf w sg x then some x else some y) none
  match op with
  | 0 => sum
  | 1 => lo.getD (if sg then 2 ^ (w - 1) - 1 else 2 ^ w - 1)
  | 2 => hi.getD (if sg then 2 ^ (w - 1) else 0)
  | 3 => xs.foldl Nat.land (2 ^ w - 1)
  | 4 => xs.foldl Nat.lor 0
  | _ => xs.foldl Nat.xor 0

/-- The test that an instruction writes to a mask register, by lane, with its flags (08/R202, R214, R224, R225). -/
def laneTest (i : Instr) : Option (LF × (LCtx → Nat → Bool)) :=
  match i with
  | .vcmp f => if f.ty.isInt = false then
      some (f, fun C l =>
        let v (x : Src) : FV := if f.ty = .ef then (C.eVal x l).v else C.inVal f.ty (C.src x l).toNat
        let o := cmpNum (v f.a) (v f.b)
        let un := (v f.a).isNan || (v f.b).isNan
        match f.sub.toNat with
        | 0 => !un && o = .eq
        | 1 => un || o ≠ .eq
        | 2 => !un && o = .lt
        | 3 => !un && o ≠ .gt
        | 4 => !un && o = .gt
        | 5 => !un && o ≠ .lt
        | 6 => un
        | _ => !un)
    else
      some (f, fun C l =>
        let a := intOf (LType.width f.ty) (LType.signed f.ty) (C.val f.ty f.a l)
        let b := intOf (LType.width f.ty) (LType.signed f.ty) (C.valB f l)
        match f.sub.toNat with
        | 0 => a = b
        | 1 => a ≠ b
        | 2 => a < b
        | 3 => a ≤ b
        | 4 => b < a
        | _ => b ≤ a)
  | .vballot f => if hasSlot f then none else some (f, fun C l => C.src f.a l ≠ 0)
  | .mand f => some (f, fun C l => (C.mask f.a).getLsbD l && (C.mask f.b).getLsbD l)
  | .mor f => some (f, fun C l => (C.mask f.a).getLsbD l || (C.mask f.b).getLsbD l)
  | .mxor f => some (f, fun C l => (C.mask f.a).getLsbD l ^^ (C.mask f.b).getLsbD l)
  | .mnot f => some (f, fun C l => !(C.mask f.a).getLsbD l)
  | .mmov f => if isMaskDst f.d then
      some (f, fun C l => if isMaskSrc f.a then (C.mask f.a).getLsbD l else C.src f.a l ≠ 0)
    else none
  | _ => none

/-- The flags that a lane's test raises (09/R238): NV for a signalling NaN, and in an ordered comparison for any NaN. -/
def testFlags (i : Instr) (C : LCtx) (l : Nat) : Flags :=
  match i with
  | .vcmp f => if f.ty.isInt then 0 else
      let v (x : Src) : FV := if f.ty = .ef then (C.eVal x l).v else C.inVal f.ty (C.src x l).toNat
      let ordered := 2 ≤ f.sub.toNat ∧ f.sub.toNat ≤ 5
      if (ordered ∧ ((v f.a).isNan = true ∨ (v f.b).isNan = true)) ∨ v f.a = .nan true ∨ v f.b = .nan true then flNV else 0
  | _ => 0

/-- The bits of a mask register after a write under C.eff: a lane's test where it is active, 0 where it is not; a visitor keeps
the bits of lanes that it does not carry (08/R223, 14/R368). -/
def maskWritten (C D : LCtx) (k : BitVec 3) (p : Nat → Bool) : Prop :=
  ∀ l < C.w, l < 1024 → D.regs.m[k.toNat].getLsbD l =
    ((C.eff.getLsbD l && p l) || (C.visiting && C.away.getLsbD l && C.regs.m[k.toNat].getLsbD l))

end Sys2Proof.Claims

/-- 08/R202, R214, R223 to R225: an instruction that writes a mask register completes with the lane tests in the active lanes'
bits and 0 in the others; no vector register, and no other mask register, changes. -/
def Obligations.MaskResults : Prop :=
  ∀ (i : Instr) (s : State) (C : LCtx) (f : LF) (k : BitVec 3) (p : LCtx → Nat → Bool), laneTest i = some (f, p) →
    dstReg f.d = some (.m k) → s.actsL i f.ms C →
      completesL i s C (fun D => maskWritten C D k (p C) ∧ D.regs.v = C.regs.v ∧ D.regs.prc = C.regs.prc ∧
        (∀ j : Fin 8, j.val ≠ k.toNat → D.regs.m[j] = C.regs.m[j]) ∧ D.blk = C.blk ∧ D.wcodes = C.wcodes ∧
        D.slots = C.slots ∧ D.flags = C.lanes.foldl (fun a l => a ||| testFlags i C l) C.flags)

namespace Sys2Proof.Claims

/-- A context with the result slot of imm24 [2:0] written. -/
def slotWritten (C : LCtx) (f : LF) (x : Nat) : LCtx :=
  { C with slots := C.slots.set (f.imm.toNat % 8) (BitVec.ofNat 64 x) (Nat.mod_lt _ (by decide)) }

/-- The same, when the instruction names a slot. -/
def slotted (C : LCtx) (f : LF) (x : Nat) : LCtx := if hasSlot f then slotWritten C f x else C

end Sys2Proof.Claims

/-- 08/R213, R214, R218 to R220, R225, 14/R376: `vred` of integers gives every active lane, and the slot if it names one (then
also under an empty mask), the exact reduction of the active lanes; `vscan` gives each lane that of the lanes up to it, or before
it; `vput` and `vballot` write a result slot, and `vballot`, which acts on the team, writes its mask or its slot also under an
empty mask (that the mask is then empty is the model's reading, log entry 77); `mmov` from a mask gives 0 or 1; `vaway` gives the
away mask, or in a visitor 0 in the lanes that it carries; nothing else of the lane state changes. -/
def Obligations.CrossLaneResults : Prop :=
  ∀ (s : State) (C : LCtx) (f : LF),
    (f.ty.isW = true → f.sub.toNat < 6 → s.runsL (.vred f) f.ms C → (C.eff ≠ 0 ∨ hasSlot f = true) →
      (hasSlot f = true → C.visiting = false) → dstReg f.d ≠ some .prc →
      let w := LType.width f.ty
      let n := if f.ty.isW64 then 2 else 1
      let acc := foldInts w (LType.signed f.ty) f.sub.toNat (C.lanes.map (C.val f.ty f.a))
      completesL (.vred f) s C (fun D => LFrame (slotted C f acc) D f.d n ∧ D.wrote f.d n (fun _ => wordsOfNat n acc) ∧
        D.flags = C.flags ∧ D.nfcAdd = C.nfcAdd)) ∧
    (f.ty.isW = true → f.sub.toNat % 8 < 6 → s.actsL (.vscan f) f.ms C → dstReg f.d ≠ some .prc →
      let w := LType.width f.ty
      let n := if f.ty.isW64 then 2 else 1
      let part (l : Nat) : Nat := foldInts w (LType.signed f.ty) (f.sub.toNat % 8)
        ((C.lanes.filter (fun k => if f.sub.getLsbD 3 then k < l else k ≤ l)).map (C.val f.ty f.a))
      completesL (.vscan f) s C (fun D => LFrame C D f.d n ∧ D.wrote f.d n (fun l => wordsOfNat n (part l)) ∧
        D.flags = C.flags ∧ D.nfcAdd = C.nfcAdd)) ∧
    (s.actsL (.vput f) f.ms C → C.visiting = false →
      exec (.vput f) s = .next (s.lEnds (.vput f) C (slotWritten C f (C.val f.ty f.a (C.lanes.headD 0))))) ∧
    (s.runsL (.vballot f) f.ms C → hasSlot f = true → C.visiting = false →
      completesL (.vballot f) s C (fun D =>
        let on := C.lanes.filter (fun l => C.src f.a l != 0)
        D = { slotted C f (on.length + on.headD 0xFFFFFFFF * 2 ^ 32) with regs := { C.regs with m := D.regs.m } } ∧
        ∀ j : Fin 8, dstReg f.d ≠ some (.m (BitVec.ofNat 3 j.val)) → D.regs.m[j] = C.regs.m[j])) ∧
    (s.actsL (.mmov f) f.ms C → isMaskDst f.d = false → dstReg f.d ≠ some .prc →
      completesL (.mmov f) s C (fun D =>
        D.wrote f.d 1 (fun l => [if (C.mask f.a).getLsbD l then 1 else 0]) ∧ LFrame C D f.d 1)) ∧
    (∀ k, dstReg f.d = some (.m k) → s.runsL (.vballot f) f.ms C → C.eff = 0 →
      hasSlot f = false → completesL (.vballot f) s C (fun D => maskWritten C D k (fun _ => false) ∧
        D = { C with regs := { C.regs with m := D.regs.m } } ∧
        ∀ j : Fin 8, j.val ≠ k.toNat → D.regs.m[j] = C.regs.m[j])) ∧
    (∀ k, dstReg f.d = some (.m k) → s.runsL (.vaway f) 0 C →
      exec (.vaway f) s = .next (s.lEnds (.vaway f) C { C with regs := { C.regs with
        m := C.regs.m.set k.toNat (if C.visiting then C.regs.m[k.toNat] &&& C.away else C.away) } }))

/-- 02/R30, 08/R213: an instruction that acts per lane, `vballot` not among them, issued under an empty mask, completes without
effect and without a check on its registers: the block goes on, and no register, mask, slot or memory changes. -/
def Obligations.EmptyMaskHasNoEffect : Prop :=
  ∀ (i : Instr) (s : State) (C : LCtx) (f : LF),
    ((laneInt i).map (·.1) = some f ∨ (laneValue s i).map (·.1) = some f ∨ (laneElastic i).map (·.1) = some f ∨
      ((laneTest i).map (·.1) = some f ∧ i ≠ .vballot f) ∨ i = .vld f ∨ i = .vst f ∨ i = .vatom f ∨ i = .vlds f ∨ i = .vsts f ∨ i = .vatoms f ∨
      i = .eld f ∨ i = .eldn f ∨ i = .est f ∨ i = .vprf f ∨ i = .vmxq f ∨ i = .vput f) →
    s.issuesL i f.ms C → C.eff = 0 → exec i s = .next (s.lDone C)

/-- 03/R65, R78: an instruction that names a `v` register that the team does not have is ILLEGAL for its active lanes, with the
instruction's address in TADDR, and writes nothing. -/
def Sys2Proof.Claims.AbsentRegisterTraps : Prop :=
  ∀ (i : Instr) (s : State) (C : LCtx) (f : LF) (t : Nat) (T : Team),
    ((laneInt i).map (·.1) = some f ∨ (laneTest i).map (·.1) = some f) →
    s.issuesL i f.ms C → C.eff ≠ 0 → C.who = .l t → C.visiting = false → s.teams[t]? = some T → T.phase = .running →
    (touch i (s.softD C.t i)).v.any (fun n => C.n ≤ n) = true →
      ∃ s' U p, exec i s = .next s' ∧ s'.teams[t]? = some U ∧ U.pendL = some p ∧ p.cause = .illegal ∧
        p.taddr = (s.descOf t).lbase + BitVec.ofNat 64 (12 * C.blk.lpc.toNat) ∧ p.lanes = C.eff ∧ p.tlpc = C.blk.lpc ∧
        U.regs = C.regs ∧ s.sameMemory s'


namespace Sys2Proof.Claims

/-! ## Lane memory -/

/-- The entry of one line part of a lane's access (08/R203, R204, 10/R262, R264): its issue point, lane and address, what it
does, where its value returns, and where it is performed. -/
def laneEntry (k : State) (C : LCtx) (m : MemOp) (slot : Nat) (o : LaneOp) (p : Nat × Nat × Tlb) (e : Entry) : Prop :=
  e.owner = C.who ∧ e.team = some C.t ∧ e.part = C.part ∧ e.die = C.die ∧ e.lane = some o.lane ∧
    e.va = o.addr m.i + BitVec.ofNat 64 p.1 ∧ e.op = m.acc o p.1 p.2.1 ∧
    e.ret = (if m.returns then .slot C.t slot o.lane p.1 else .none) ∧
    match m.space with
    | .global => (e.dest, e.addr) = (k.part C.part).place (p.2.2.pa e.va) e.op.len
    | .spad => e.dest = .bank (k.team C.t).gang ∧ e.addr = (o.addr m.i).toNat + p.1
    | .mcast => False

/-- The lane's address of a memory instruction: pair A plus the signed immediate (08/R203). -/
def laneAddr (C : LCtx) (f : LF) (l : Nat) : DWord := C.pair f.a l + f.imm.signExtend 64

/-- The cause for which a lane's access is turned away before any translation (08/R203): the lowest. -/
def laneBad (s : State) (C : LCtx) (m : MemOp) (f : LF) (l : Nat) : Option Cause :=
  let a := (laneAddr C f l).toNat
  let g := (s.team C.t).gang
  if a % m.align ≠ 0 then some .align
  else if m.space = .spad ∧ s.spadBytes g < a + m.n then some .scratchRange
  else if m.space = .spad ∧ m.load = false ∧ (s.gang g).live.any (fun b => overlaps b 8 a m.n) then some .barrierStore
  else none

/-- The team of a home L-stream has taken an L trap that waits for its S-stream: cause, TADDR, lane-PC and lanes (03/R54). -/
def pendsL (o : Host.Outcome State Fault Refusal) (s : State) (t : Nat) (c : Cause) (a : DWord) (pc : BitVec 26)
    (lanes : Nat → Bool) (p : State → Team → Prop) : Prop :=
  ∃ s' U x, o = .next s' ∧ s'.teams[t]? = some U ∧ U.pendL = some x ∧ x.cause = c ∧ x.taddr = a ∧ x.tlpc = pc ∧
    (∀ k < 1024, x.lanes.getLsbD k = lanes k) ∧ s.sameMemory s' ∧ p s' U

end Sys2Proof.Claims

/-- 08/R203 to R206, 03/R79, R80, 09/R258: a lane load, store or atomic at home, whose orders let it enter, whose every active
lane passes the checks and reads no storage with an error, and for which an operand-log slot is free where it returns a value,
completes: one entry stands at
the end of its forward queue for every line part of every active lane, and no other; nothing is performed yet, so every
byte of memory and every register reads as before; and what returns a value holds a slot with every active lane in flight. -/
def Sys2Proof.Claims.LaneAccessesEntered : Prop :=
  ∀ (i : Instr) (m : MemOp) (s : State) (C : LCtx) (t kk : Nat) (T : Team) (ws : List (LaneOp × Want)) (k : Chk),
    memOpOf i = some m → s.actsL i (lCode i).2.ms C → C.who = .l t → s.teams[t]? = some T → s.lMay C m = true →
    (m.returns = true → T.freeSlot = some kk) →
    (Chk.mk s (s.lastPages (.l t)) []).lanes C (s.teamQueue C.t C.die) m C.blk.lq.migctl (C.lanes.map (C.operands i)) = (ws, k) →
    (∀ w ∈ ws, ∃ ps, w.2 = .go ps ∧ k.s.brokenPart C m (w.1.addr m.i) ps = none ∧ ∀ p ∈ ps, p.2.2.replica = false) →
      ∃ s' U es b, exec i s = .next s' ∧ s'.teams[t]? = some U ∧ s'.fwd = s.fwd ++ es ∧
        (∀ w ∈ ws, ∀ ps, w.2 = .go ps → ∀ p ∈ ps, ∃ e ∈ es, laneEntry k.s C m kk w.1 p e) ∧
        (∀ e ∈ es, ∃ w ∈ ws, ∃ ps, w.2 = .go ps ∧ ∃ p ∈ ps, laneEntry k.s C m kk w.1 p e) ∧
        U.blk = some b ∧ b.lpc = C.blk.lpc + 1 ∧ b.path = C.blk.path ∧ b.stack = C.blk.stack ∧ b.fmt = C.blk.fmt ∧
        U.regs = C.regs ∧ U.wcodes = C.wcodes ∧ U.slots = C.slots ∧ s.sameMemory s' ∧
        (m.returns = true → C.lanes ≠ [] → ∃ x, U.oplog[kk]? = some (some x) ∧ x.i = i ∧ x.lpc = C.blk.lpc ∧ x.eff = C.eff ∧
          x.done = 0 ∧ ∀ l < 1024, x.flying.getLsbD l = C.lanes.contains l)

/-- 08/R203, R204, 07/R188: a lane access at home whose every active lane breaks the same check (alignment; the scratchpad's
range; a store or atomic to a live barrier word) is performed in no lane: its lanes trap with that cause and the address
of the lowest of them. -/
def Sys2Proof.Claims.LaneAccessFaults : Prop :=
  ∀ (i : Instr) (m : MemOp) (s : State) (C : LCtx) (t : Nat) (T : Team) (c : Cause) (l : Nat) (r : List Nat), memOpOf i = some m →
    s.actsL i (lCode i).2.ms C → C.who = .l t → s.teams[t]? = some T → T.phase = .running → s.lMay C m = true →
    C.lanes = l :: r → (∀ n ∈ C.lanes, laneBad s C m (lCode i).2 n = some c) →
      pendsL (exec i s) s t c (laneAddr C (lCode i).2 l) C.blk.lpc C.lanes.contains (fun s' U =>
        s'.fwd = s.fwd ∧ U.regs = C.regs ∧ U.oplog = T.oplog)

/-- 08/R208: a `vmcast` whose every active lane names an aligned word inside the scratchpad, and gang numbers below 2^21, enters
one write for every gang that each lane names. -/
def Sys2Proof.Claims.MulticastEntered : Prop :=
  ∀ (f : LF) (s : State) (C : LCtx) (t : Nat) (T : Team), s.actsL (.vmcast f) f.ms C → C.who = .l t → s.teams[t]? = some T →
    s.lMay C (mcastOp (.vmcast f) f) = true →
    (∀ l ∈ C.lanes, (laneAddr C f l).toNat % 4 = 0 ∧ (laneAddr C f l).toNat + 4 ≤ s.spadBytes T.gang ∧
      (C.src f.c l).toNat < 2 ^ 21) →
      ∃ s' U es, exec (.vmcast f) s = .next s' ∧ s'.teams[t]? = some U ∧ s'.fwd = s.fwd ++ es ∧
        (∀ l ∈ C.lanes, ∀ g, (C.src f.c l).toNat % 2 ^ 16 ≤ g → g ≤ (C.src f.c l).toNat % 2 ^ 16 + (C.src f.c l).toNat / 2 ^ 16 →
          ∃ e ∈ es, e.owner = .l t ∧ e.lane = some l ∧ e.addr = (laneAddr C f l).toNat ∧
            e.op = .mcast (leBytes 4 (C.src f.b l).toNat) ∧
            e.dest = (if (s.gang T.gang).num = g then .bank T.gang else .mcast T.launch g)) ∧
        (∀ e ∈ es, ∃ l ∈ C.lanes, e.lane = some l) ∧ U.regs = C.regs ∧ s.sameMemory s'

/-- 08/R209, R210, R222, 10/R272: `vprf` changes nothing; `vfence` leaves, for the later accesses of its issue point, an order
that waits for its earlier ones, the S accesses before the block's `lrun` among them (the model's reading of R272 and R274, log
entry 117): all, or for an acquire the loads and atomics; `vsync` of lanes that are all at home leaves a full order at gang scope over the accesses of those lanes, and
one whose active lanes are not all in its mask, or whose mask holds a lane that is neither active nor away, traps with
MEMBERSHIP. -/
def Obligations.LaneOrders : Prop :=
  ∀ (f : LF) (s : State) (C : LCtx) (t : Nat) (T : Team), C.who = .l t → s.teams[t]? = some T →
    (s.actsL (.vprf f) f.ms C → exec (.vprf f) s = .next (s.lDone C)) ∧
    (s.runsL (.vfence f) 0 C → f.md.toNat / 4 ∈ [1, 2, 3] →
      ∃ s' U o os, exec (.vfence f) s = .next s' ∧ s'.teams[t]? = some U ∧ U.lOrd = o :: os ∧ o.scope = f.sub.toNat ∧
        o.stores = true ∧ (o.loads = true ↔ f.md.toNat / 4 ≠ 2) ∧ U.regs = C.regs ∧ s.sameMemory s' ∧ s'.flight = s.flight ∧
        ∀ n, n ∈ o.waits ↔ ∃ e ∈ s.flight, e.id = n ∧ (e.owner = .l t ∨ e.owner = .s t ∧ e.id < C.blk.lq.sMark) ∧
          (f.md.toNat / 4 = 1 → e.op.isStore = false)) ∧
    (s.runsL (.vsync f) 0 C → C.visiting = false →
      (C.eff = C.mask f.a → s.blockRoaming C.t C.blk.lq.sMark (C.mask f.a) = false → T.returned = [] →
        ∃ s' U o os, exec (.vsync f) s = .next s' ∧ s'.teams[t]? = some U ∧ U.lOrd = o :: os ∧ o.scope = 1 ∧ o.loads = true ∧
          o.stores = true ∧ U.regs = C.regs ∧ s.sameMemory s' ∧
          ∀ n, n ∈ o.waits ↔ ∃ e ∈ s.flight, e.id = n ∧ e.owner = .l t ∧ ∃ l, e.lane = some l ∧ (C.mask f.a).getLsbD l = true) ∧
      (C.eff &&& ~~~ C.mask f.a ≠ 0 ∨ C.mask f.a &&& ~~~ (C.eff ||| C.away) ≠ 0 → T.phase = .running →
        pendsL (exec (.vsync f) s) s t .membership 0 C.blk.lpc (fun k => C.eff.getLsbD k) (fun _ U => U.regs = C.regs)))

namespace Sys2Proof.Claims

/-! ## Soft memory -/

/-- The K indices or weights of a pointer group at a lane (13/R342). -/
def groupAt (C : LCtx) (f : LF) (lo n l : Nat) : List Word := (List.range n).map (fun j => C.src (srcPlus f.a (lo + j)) l)

/-- A pointer group as its entries, index and weight. -/
def entriesAt (C : LCtx) (f : LF) (l : Nat) : List (Word × Word) :=
  let k := f.sub.toNat % 8 + 1
  (groupAt C f 0 k l).zip (groupAt C f k k l)

/-- Every index of every active lane is below SLOTS (13/R344). -/
def softInRange (C : LCtx) (f : LF) (c : Caddy) : Prop := ∀ l ∈ C.lanes, ∀ e ∈ entriesAt C f l, e.1.toNat < c.slots

/-- A visitor, or a name of no caddy, stops a soft instruction (13/R344). -/
def softFault (s : State) (C : LCtx) (f : LF) (twin : Bool) : Option Cause :=
  if C.visiting then some .notCarried
  else
    match s.caddyOf C.t (f.imm.toNat % 64) with
    | none => some .steep
    | some (_, c) => if twin && !c.tv then some .steep else none

end Sys2Proof.Claims

/-- 13/R344, R345, R347: `soft.st` whose indices are in range, and which the orders let enter, sends one record for every active
lane to the steep buffer of the caddy: the launch's LSEQ, TID, the store sequence number, the lane, the entries and the D
values; the store sequence counter goes on by one unless the instruction re-executes; nothing else of the team changes. -/
def Sys2Proof.Claims.SoftStoreSendsRecords : Prop :=
  ∀ (f : LF) (s : State) (C : LCtx) (t set : Nat) (T : Team) (c : Caddy), s.runsL (.softSt f) f.ms C → C.who = .l t → C.visiting = false → s.teams[t]? = some T →
    s.caddyOf C.t (f.imm.toNat % 64) = some (set, c) → softInRange C f c → (s.takeSseq C).1.mayEnter t T.lOrd false true = true →
      ∃ s' U es, exec (.softSt f) s = .next s' ∧ s'.teams[t]? = some U ∧ s'.fwd = s.fwd ++ es ∧
        es.length = C.lanes.length ∧
        (∀ (j l : Nat), C.lanes[j]? = some l → ∃ e, es[j]? = some e ∧ e.owner = .l t ∧ e.dest = .home c.home ∧
          e.op = .record set (f.imm.toNat % 64) { lseq := (s.launch T.launch).lseq, tid := BitVec.ofNat 32 T.tid, sseq := C.blk.redoSseq.getD T.softSeq, lane := l, ents := entriesAt C f l, x := (List.range c.d).map (fun d => C.src (srcPlus f.b d) l) }) ∧
        U.softSeq = (if C.blk.redoSseq.isSome then T.softSeq else T.softSeq + 1) ∧ U.regs = C.regs ∧ s.sameMemory s' ∧
        ∃ b, U.blk = some b ∧ b.lpc = C.blk.lpc + 1

/-- 13/R344 to R346, R349: `soft.ld` and `soft.ldg` whose lanes pass the checks enter, for every active lane, one load for each
element of its K entries, in order of entry and element, each at the home of its own page, and hold a slot until the values
return; `soft.ldg` also sends each lane's record to the twin. -/
def Sys2Proof.Claims.SoftLoadsEntered : Prop :=
  ∀ (i : Instr) (f : LF) (s : State) (C : LCtx) (t set kk : Nat) (T : Team) (c : Caddy) (ws : List (LaneOp × SWant)) (k : Chk),
    let z := if i = .softLdg f then s.takeSseq C else (s, C)
    (i = .softLd f ∨ i = .softLdg f) → s.runsL i f.ms C → C.who = .l t → C.visiting = false →
    s.teams[t]? = some T → s.caddyOf C.t (f.imm.toNat % 64) = some (set, c) → (i = .softLdg f → c.tv = true) →
    z.1.mayEnter t T.lOrd true (decide (i = .softLdg f)) = true → T.freeSlot = some kk → C.lanes ≠ [] →
    (Chk.mk z.1 T.lastPage []).softs z.2 (z.1.teamQueue C.t C.die) c (f.sub.toNat % 8 + 1) (C.lanes.map (C.softOperands i c.d)) = (ws, k) →
    (∀ w ∈ ws, ∃ es, w.2 = .go es) →
      ∃ s' U es x, exec i s = .next s' ∧ s'.teams[t]? = some U ∧ s'.fwd = s.fwd ++ es ∧
        (∀ w ∈ ws, ∀ els, w.2 = .go els →
          els.map (·.1) = (entriesAt C f w.1.lane).flatMap (fun e =>
            (List.range c.d).map (fun d => c.base + BitVec.ofNat 64 (4 * (c.d * e.1.toNat + d)))) ∧
          ∀ (j : Nat) (va : DWord) (tl : Tlb), els[j]? = some (va, tl) → ∃ e ∈ es, e.owner = .l t ∧ e.lane = some w.1.lane ∧
            e.va = va ∧ e.op = .softLd set (f.imm.toNat % 64) ∧ e.ret = .soft t kk w.1.lane j ∧
            (tl.replica = false → (e.dest, e.addr) = (k.s.part C.part).place (tl.pa va) 4)) ∧
        (i = .softLdg f → ∀ l ∈ C.lanes, ∃ e ∈ es, ∃ r, e.op = .record set c.twin r ∧ r.lane = l ∧ r.ents = entriesAt C f l) ∧
        U.oplog[kk]? = some (some x) ∧ x.i = i ∧ (∀ l < 1024, x.flying.getLsbD l = C.lanes.contains l) ∧
        U.regs = C.regs ∧ s.sameMemory s' ∧ ∃ b, U.blk = some b ∧ b.lpc = C.blk.lpc + 1

/-- 13/R344, R348: `soft.harden` whose indices are in range completes: every active lane's pointer group at B holds the indices of
A, and weight 1.0 at the chosen entry and 0 at the others; the entry that ARGMAX chooses has a weight that no other's
exceeds. -/
def Sys2Proof.Claims.SoftHardenPoints : Prop :=
  ∀ (f : LF) (s : State) (C : LCtx) (set : Nat) (c : Caddy) (n : BitVec 7), s.runsL (.softHarden f) f.ms C → C.visiting = false → s.caddyOf C.t (f.imm.toNat % 64) = some (set, c) →
    softInRange C f c → f.b = .reg (.v n) → (∀ k, dstReg f.d = some (.v k) → k.toNat < n.toNat ∨ n.toNat + 2 * (f.sub.toNat % 8 + 1) ≤ k.toNat) →
      completesL (.softHarden f) s C (fun D => D.regs.m = C.regs.m ∧ D.flags = C.flags ∧
        ∀ l ∈ C.lanes, ∃ e, e < f.sub.toNat % 8 + 1 ∧
          (∀ j < f.sub.toNat % 8 + 1, ∀ r, D.regs.v[n.toNat + j]? = some r → r.at l = C.src (srcPlus f.a j) l) ∧
          (∀ j < f.sub.toNat % 8 + 1, ∀ r, D.regs.v[n.toNat + (f.sub.toNat % 8 + 1) + j]? = some r →
            r.at l = if j = e then 0x3F800000 else 0) ∧
          (f.sub.toNat < 8 → ∀ j < f.sub.toNat % 8 + 1,
            let w (x : Nat) : FV := fmtF32.decode (C.src (srcPlus f.a (f.sub.toNat % 8 + 1 + x)) l).toNat
            (w j).isNan = false → (w e).isNan = false → cmpNum (w j) (w e) ≠ .gt))

/-- 13/R344, 14/R377: a soft instruction that a visitor executes traps with NOT_CARRIED: its lanes go home with that cause; at
home one that names no caddy of its launch, or
whose adjoint form names one without a twin, traps with STEEP, even under an empty mask, and sends nothing. -/
def Sys2Proof.Claims.SoftFaults : Prop :=
  (∀ (i : Instr) (f : LF) (s : State) (C : LCtx) (t : Nat) (T : Team),
    (i = .softLd f ∨ i = .softSt f ∨ i = .softLdg f ∨ i = .softHarden f) → s.issuesL i f.ms C → C.who = .l t →
    C.visiting = false → s.teams[t]? = some T → T.phase = .running → softFault s C f (decide (i = .softLdg f)) = some .steep →
      pendsL (exec i s) s t .steep 0 C.blk.lpc (fun k => C.eff.getLsbD k) (fun s' U => s'.fwd = s.fwd ∧ U.regs = C.regs)) ∧
  (∀ (i : Instr) (f : LF) (s : State) (C : LCtx) (v : Nat) (V : Visitor),
    (i = .softLd f ∨ i = .softSt f ∨ i = .softLdg f ∨ i = .softHarden f) → s.issuesL i f.ms C → C.who = .v v →
    s.visitors[v]? = some V →
      ∃ s' V' c, exec i s = .next s' ∧ s'.channel = s.channel ++ [c] ∧ c.kind = 4 ∧ c.cause = some .notCarried ∧ c.taddr = 0 ∧
        c.team = V.cont.team ∧ c.lanes = V.cont.lanes ∧ c.redo = C.eff ∧ c.tidx = C.blk.lpc ∧ c.regs = V.cont.regs ∧
        s'.visitors[v]? = some V' ∧ V'.alive = false ∧ s'.fwd = s.fwd ∧ s.sameMemory s')

namespace Sys2Proof.Claims

/-! ## Lane control -/

/-- What a lane-control instruction makes of the path mask, FMT and the reconvergence stack, and where control goes (02/R38,
08/R227, R230, R231). -/
def ctlOut (i : Instr) (C : LCtx) : Option (Mask × Word × List REntry × BitVec 26) :=
  let b := C.blk
  let target (f : LF) : BitVec 26 := b.lpc + f.imm.signExtend 26
  let next := b.lpc + 1
  match i, b.stack with
  | .lif f, st => if 32 ≤ st.length then none else
      let a := b.path &&& C.mask f.a
      some (a, b.fmt, ⟨b.path, b.fmt, target f + 1, .ifK⟩ :: st, if a = 0 then target f else next)
  | .lelse f, t :: st => if t.kind ≠ .ifK then none else
      let a := t.mask &&& ~~~ b.path
      some (a, t.fmt, ⟨t.mask, t.fmt, target f + 1, .elseK⟩ :: st, if a = 0 then target f else next)
  | .lfi _, t :: st => if t.kind = .loopK then none else some (t.mask, t.fmt, st, next)
  | .ldo f, st => if 32 ≤ st.length then none else some (b.path, b.fmt, ⟨b.path, b.fmt, target f + 1, .loopK⟩ :: st, next)
  | .lwhile f, t :: st => if t.kind ≠ .loopK then none else
      let a := b.path &&& C.mask f.a
      if a = 0 then some (t.mask, t.fmt, st, t.rpc) else some (a, b.fmt, t :: st, next)
  | .lod f, t :: st => if t.kind ≠ .loopK then none else some (b.path, b.fmt, t :: st, target f + 1)
  | .lnop _, st => some (b.path, b.fmt, st, next)
  | .lfmt f, st =>
    let x := f.imm.toNat % 256
    if x / 8 % 8 < 5 ∧ x % 8 < 5 then some (b.path, BitVec.ofNat 32 x, st, next) else none
  | _, _ => none

/-- The fields that a construct instruction has, and the fault of one that cannot be executed (02/R39, 08/R230). -/
def ctlFault (i : Instr) (s : State) (C : LCtx) : Option (Cause × DWord) :=
  let here := (s.descOf C.t).lbase + BitVec.ofNat 64 (12 * C.blk.lpc.toNat)
  match i with
  | .lif _ | .ldo _ => if 32 ≤ C.blk.stack.length then some (.reconvergenceOverflow, 0) else none
  | .lelse _ | .lfi _ | .lwhile _ | .lod _ => if (ctlOut i C).isNone then some (.illegal, here) else none
  | .lfmt _ => if (ctlOut i C).isNone then some (.reservedField, here) else none
  | _ => none

end Sys2Proof.Claims

/-- 02/R37, R38, 08/R226, R227, R230, R231: `lif`, `lelse`, `lfi`, `ldo`, `lwhile`, `lod`, `lfmt` and `lnop` complete where the
stack allows them, under any mask; the path mask, FMT and the stack become what the construct says, away lanes counted, and
control goes where it says; no register, mask register, latch, slot or memory changes. -/
def Obligations.LaneControlTransfers : Prop :=
  ∀ (i : Instr) (s : State) (C : LCtx) (m : Mask) (fmt : Word) (st : List REntry) (pc : BitVec 26),
    ctlOut i C = some (m, fmt, st, pc) → s.runsL i 0 C →
      exec i s = .next (s.lGoto { C with blk := { C.blk with path := m, fmt := fmt, stack := st } } pc)

/-- 02/R39, 08/R230: a construct instruction whose stack entry is of the wrong kind, or missing, is ILLEGAL, a `lif` or `ldo` at
depth 32 is RECONVERGENCE_OVERFLOW, and a reserved FMT is RESERVED_FIELD; path mask, FMT and stack stay as they are. That they
fault under an empty effective mask too is the model's reading (log entry 19). -/
def Sys2Proof.Claims.LaneControlFaults : Prop :=
  ∀ (i : Instr) (s : State) (C : LCtx) (t : Nat) (T : Team) (c : Cause) (a : DWord), ctlFault i s C = some (c, a) →
    s.runsL i 0 C → C.who = .l t → s.teams[t]? = some T → T.phase = .running →
      pendsL (exec i s) s t c a C.blk.lpc (fun k => C.eff.getLsbD k) (fun _ U => U.regs = C.regs ∧
        ∃ b, U.blk = some b ∧ b.path = C.blk.path ∧ b.fmt = C.blk.fmt ∧ b.stack = C.blk.stack ∧ b.lpc = C.blk.lpc)

/-- 08/R211, R228, R229, R231, 03/R77, R78, 09/R252: `vstage` replaces the staged set and EW; `ewin` releases the old window and
gives each register of the new one +0 with LEN = C - 2 in every lane; `lhome` and `lret` of a block of which no lane roams
complete, `lret` ending the block with its FMT kept; `ltrap` traps the active lanes with USER and its code, the block
standing after it (the model's reading, log entry 78), and has no effect under an empty mask. -/
def Obligations.LaneTeamInstructions : Prop :=
  ∀ (f : LF) (s : State) (C : LCtx) (t : Nat) (T : Team), C.who = .l t → C.visiting = false → s.teams[t]? = some T →
    (∀ (ew : Bool) (set : BitVec 64), let k := windowCells C.wcodes; let l := (List.range 64).filter (fun n => set.getLsbD n)
      s.runsL (.vstage ew set) 0 C → (∀ n ∈ l, n < C.n) → l.length ≤ 16 →
      (k = 0 ∨ ∀ n ∈ l, n < C.n - k) → (ew = true → l.length + k ≤ 32) →
        exec (.vstage ew set) s = .next (s.lDone { C with blk := { C.blk with staged := set, ew := ew } })) ∧
    (s.runsL (.ewin f) 0 C →
      let codes := C.pair f.a 0
      let k := windowCells codes
      k ≤ 64 → k ≤ C.n → C.n = C.regs.v.length → (∀ n < 64, C.blk.staged.getLsbD n = true → n < C.n - k ∨ C.n ≤ n) →
      C.blk.ew = false →
        completesL (.ewin f) s C (fun D => D.wcodes = codes ∧ D.regs.m = C.regs.m ∧ D.regs.prc = C.regs.prc ∧
          D.regs.v.length = C.n ∧
          (∀ j, j < C.n - k → j < C.n - windowCells C.wcodes → D.regs.v[j]? = C.regs.v[j]?) ∧
          (∀ j, C.n - windowCells C.wcodes ≤ j → j < C.n - k → D.regs.v[j]? = some (.u 0)) ∧
          ∀ e < 16, capOf codes e ≠ 0 → ∀ l < C.w, D.eRaw (.reg (.e (BitVec.ofNat 4 e))) l =
            [0, 4096 * (capOf codes e - 2)] ++ List.replicate (2 * ((capOf codes e + 1) / 2) - 2) 0)) ∧
    (s.runsL (.lhome f) 0 C → s.blockRoaming t C.blk.lq.sMark (~~~ 0) = false → T.returned = [] →
      exec (.lhome f) s = .next (s.lDone C)) ∧
    (s.runsL (.lret f) 0 C → s.blockRoaming t C.blk.lq.sMark (~~~ 0) = false → T.returned = [] →
      ∃ s' U, exec (.lret f) s = .next s' ∧ s'.teams[t]? = some U ∧ U.blk = none ∧ U.fmt = C.blk.fmt ∧ U.laneQ = T.laneQ ∧
        U.away = T.away ∧ U.regs.m = T.regs.m ∧ U.regs.prc = T.regs.prc ∧ U.spc = T.spc ∧ U.s = T.s ∧
        (T.regs.v.length ≤ T.n → U.regs = T.regs) ∧ s.sameMemory s') ∧
    (s.runsL (.ltrap f) 0 C → C.eff = 0 → exec (.ltrap f) s = .next (s.lDone C)) ∧
    (s.runsL (.ltrap f) 0 C → C.eff ≠ 0 → T.phase = .running →
      pendsL (exec (.ltrap f) s) s t .user (f.imm.setWidth 64) C.blk.lpc (fun k => C.eff.getLsbD k) (fun _ U =>
        U.regs = C.regs ∧ ∃ b, U.blk = some b ∧ b.lpc = C.blk.lpc + 1))

namespace Sys2Proof.Claims

/-- The fault of a `vstage` at home, the lowest of those that hold (08/R211). -/
def stageFault (s : State) (C : LCtx) (ew : Bool) (set : BitVec 64) : Option (Cause × DWord) :=
  let l := (List.range 64).filter (fun n => set.getLsbD n)
  let k := windowCells C.wcodes
  if l.any (fun n => C.n ≤ n) then some (.illegal, (s.descOf C.t).lbase + BitVec.ofNat 64 (12 * C.blk.lpc.toNat))
  else if 16 < l.length then some (.reservedField, (s.descOf C.t).lbase + BitVec.ofNat 64 (12 * C.blk.lpc.toNat))
  else if (k ≠ 0 && l.any (fun n => C.n - k ≤ n)) || (ew && 32 < l.length + k) then some (.window, 0)
  else none

/-- Whether an `ewin` at home faults with WINDOW (09/R252). -/
def windowRefused (C : LCtx) (f : LF) : Bool :=
  let k := windowCells (C.pair f.a 0)
  let staged := (List.range 64).filter (fun n => C.blk.staged.getLsbD n)
  64 < k || C.n < k || staged.any (fun n => C.n - k ≤ n && n < C.n) || (C.blk.ew && 32 < staged.length + k)

/-- The instructions that a visitor does not carry, with their mask selects (14/R369). -/
def uncarried (i : Instr) : Option (BitVec 3) :=
  match i with
  | .vlds f | .vsts f | .vatoms f | .vmcast f | .vput f => some f.ms
  | .vballot f | .vred f => if hasSlot f then some f.ms else none
  | .vstage _ _ | .ewin _ => some 0
  | _ => none

end Sys2Proof.Claims

/-- 08/R211, 09/R252: `vstage` at home faults with the lowest cause of its checks, and `ewin` with WINDOW, whatever the mask;
both change nothing. -/
def Sys2Proof.Claims.WindowFaults : Prop :=
  ∀ (s : State) (C : LCtx) (t : Nat) (T : Team), C.who = .l t → C.visiting = false → s.teams[t]? = some T → T.phase = .running →
    let unchanged (U : Team) : Prop := U.regs = C.regs ∧ U.wcodes = C.wcodes ∧
      ∃ b, U.blk = some b ∧ b.staged = C.blk.staged ∧ b.ew = C.blk.ew
    (∀ (ew : Bool) (set : BitVec 64) (c : Cause) (a : DWord), s.runsL (.vstage ew set) 0 C → stageFault s C ew set = some (c, a) →
      pendsL (exec (.vstage ew set) s) s t c a C.blk.lpc (fun k => C.eff.getLsbD k) (fun _ U => unchanged U)) ∧
    (∀ f : LF, s.runsL (.ewin f) 0 C → windowRefused C f = true →
      pendsL (exec (.ewin f) s) s t .window 0 C.blk.lpc (fun k => C.eff.getLsbD k) (fun _ U => unchanged U))

/-- 14/R369, R377: an instruction that is not carried, executed by a visitor, traps with NOT_CARRIED: its lanes go home with that
cause, TADDR 0, and nothing else of them has changed. -/
def Sys2Proof.Claims.NotCarriedTraps : Prop :=
  ∀ (i : Instr) (ms : BitVec 3) (s : State) (C : LCtx) (v : Nat) (V : Visitor), uncarried i = some ms → s.actsL i ms C →
    C.who = .v v → s.visitors[v]? = some V →
      ∃ s' V' c, exec i s = .next s' ∧ s'.channel = s.channel ++ [c] ∧ c.kind = 4 ∧ c.cause = some .notCarried ∧ c.taddr = 0 ∧
        c.team = V.cont.team ∧ c.lanes = V.cont.lanes ∧ c.redo = C.eff ∧ c.tidx = C.blk.lpc ∧ c.regs = V.cont.regs ∧
        s'.visitors[v]? = some V' ∧ V'.alive = false ∧ s'.fwd = s.fwd ∧ s.sameMemory s'

/-- 14/R371: a visitor that reaches `lhome`, `lret` or `vsync` goes home whole: one continuation of the visitor's lanes departs
from its die to the team's, at that instruction, with KIND 1, 2 or 3, and the visitor is over. -/
def Sys2Proof.Claims.VisitorReturns : Prop :=
  ∀ (i : Instr) (f : LF) (k : Nat) (s : State) (C : LCtx) (v : Nat) (V : Visitor), (i, k) ∈ [(.lhome f, 1), (.lret f, 2), (.vsync f, 3)] →
    s.runsL i 0 C → C.who = .v v → s.visitors[v]? = some V →
      ∃ s' V' c, exec i s = .next s' ∧ s'.channel = s.channel ++ [c] ∧ c.kind = k ∧ c.team = V.cont.team ∧
        c.lanes = V.cont.lanes ∧ c.redo = 0 ∧ c.cause = none ∧ c.hops = V.cont.hops ∧ c.blk.lpc = C.blk.lpc ∧
        c.regs = V.cont.regs ∧ c.src = dieOfCore V.core ∧ c.dst = dieOfCore (s.team V.cont.team).core ∧
        s'.visitors[v]? = some V' ∧ V'.alive = false ∧ s.sameMemory s' ∧ s'.teams = s.teams

/-- 09/R248, R249: `vmxq` gives the lanes of each 32-lane block the packed codes and the scale of its quantisation, in which a lane
that is not active counts as 0; a block that holds a NaN or an infinity becomes a NaN block, whose scale is 0xFF. -/
def Sys2Proof.Claims.BlockQuantisation : Prop :=
  ∀ (f : LF) (s : State) (C : LCtx), s.actsL (.vmxq f) f.ms C → dstReg f.d ≠ some .prc →
    let v (l : Nat) : FV := if C.eff.getLsbD l then fmtF32.decode (C.src f.a l).toNat else .fin false 0 0
    let q (l : Nat) : Nat × List Nat × Flags := quantise C.bfmt C.rnd ((List.range 32).map (fun j => v (32 * (l / 32) + j)))
    let w := blockBits C.bfmt
    let word (l : Nat) : Nat := if l % 32 < w then packElems w (((q l).2.1.drop (32 / w * (l % 32))).take (32 / w))
      else if l % 32 = 8 then (q l).1 else 0
    C.w % 32 = 0 →
      completesL (.vmxq f) s C (fun D => D.wrote f.d 1 (fun l => [BitVec.ofNat 32 (word l)]) ∧ LFrame C D f.d 1 ∧
        (∀ l ∈ C.lanes, ∀ j < 32, ((v (32 * (l / 32) + j)).isNan = true ∨ (v (32 * (l / 32) + j)).isInf = true) → (q l).1 % 256 = 0xFF))

namespace Sys2Proof.Claims

/-! ## The ordering machine's steps (10/R261 to R267) -/

/-- An integer atomic's new value (07/R161, R162, 08/R206), in exact arithmetic on numbers of `n` bytes. -/
def atomNew (op : AOp) (n old b c : Nat) : Option Nat :=
  let m := 2 ^ (8 * n)
  let sg (x : Nat) : Int := if 2 * x < m then x else (x : Int) - m
  match op with
  | .add => some ((old + b) % m)
  | .min => some (if sg old ≤ sg b then old else b)
  | .max => some (if sg old ≤ sg b then b else old)
  | .minu => some (min old b)
  | .maxu => some (max old b)
  | .and => some (old &&& b)
  | .or => some (old ||| b)
  | .xor => some (old ^^^ b)
  | .xchg => some b
  | .cas => some (if old = c then b else old)
  | _ => none

/-- The memory that an entry is performed at: HBM4E, host memory or a gang's scratchpad. -/
def memAt (s : State) (d : Dest) : Memory :=
  match d with
  | .bank g => (s.gang g).spad
  | .host => s.hostMem
  | _ => s.mem

/-- A place that holds memory: a die's home, host memory, or the scratchpad of a gang there is. -/
def isPlace (s : State) (d : Dest) : Prop := (∃ k, d = .home k) ∨ d = .host ∨ ∃ g, d = .bank g ∧ (s.gangs[g]?).isSome

/-- Bytes are written at a place and at no other address of it, and no other memory changes. -/
def storedAt (s s' : State) (d : Dest) (addr : Nat) (bs : List Byte) : Prop :=
  (∀ a, (memAt s' d).read a = if addr ≤ a ∧ a < addr + bs.length then (bs[a - addr]?).getD 0 else (memAt s d).read a) ∧
    (memAt s (.home 0) ≠ memAt s' (.home 0) → ∃ k, d = .home k) ∧ (s'.hostMem ≠ s.hostMem → d = .host) ∧
    ∀ g, (s'.gang g).spad ≠ (s.gang g).spad → d = .bank g

/-- The entry at place `n` of the arrived entries may be performed: nothing that must come before it is left (10/R266), and an
access to host memory has budget and its turn at the link (17/R445, R447). -/
def ready (s : State) (n : Nat) (e : Entry) : Prop :=
  s.arr[n]? = some e ∧ s.mayPerform n e = true ∧ s.hostSpent e = false ∧ s.linkTurn e = true

end Sys2Proof.Claims

/-- 10/R265: the head entry of a forward queue, an access at a home, a scratchpad or host memory, leaves it and stands last among
the arrived ones, with nothing else changed; an entry that is not the head of its queue stays. Records and closes of steeps,
which take effect as they arrive, have a statement of their own (13/R350). -/
def Obligations.DeliverStep : Prop :=
  ∀ (n : Nat) (s : State) (e : Entry), s.fwd[n]? = some e →
    ((s.fwd.take n).any (fun x => x.sameQueue e) = false → isPlace s e.dest → e.op.isSteep = false →
      exec (.deliver n) s = .next { s with fwd := s.fwd.filter (fun x => x.id != e.id), arr := s.arr ++ [e] }) ∧
    ((s.fwd.take n).any (fun x => x.sameQueue e) = true → exec (.deliver n) s = .next s)

/-- 10/R266, R267, 07/R159, R161, R162, 08/R206: performing a load of an `s` register or pair writes it with the bytes at its
place, least significant first, and changes no memory; performing a store writes its bytes and no others; performing an
integer atomic replaces the number at its place by the operation's result, and the `s` register or pair that it returns to, if
any, takes the old one. An entry that may not be performed yet stays. -/
def Sys2Proof.Claims.PerformStep : Prop :=
  ∀ (n : Nat) (s : State) (e : Entry), s.arr[n]? = some e → isPlace s e.dest →
    (∀ (k t d : Nat) (T : Team) (wide : Bool), ready s n e → e.op = .load k → e.ret = .sreg t d wide → s.teams[t]? = some T →
      T.pend.any (fun p => p.1 == e.id) = true → 0 < d → d < 64 → (wide = true → d % 2 = 0) →
      k ∈ [1, 2, 4] ∧ wide = false ∨ k = 8 ∧ wide = true → (∀ q, e.dest = .home q → e.addr + k ≤ infoBase) →
        ∃ s' U, exec (.perform n) s = .next s' ∧ s'.teams[t]? = some U ∧ s.sameMemory s' ∧ s.sameOthers s' t ∧
          s'.arr = s.arr.filter (fun x => x.id != e.id) ∧
          let x := leNat ((memAt s e.dest).readN e.addr k)
          U.s = (if wide then T.wrp (BitVec.ofNat 6 d) (BitVec.ofNat 64 x) else T.wr (BitVec.ofNat 6 d) (BitVec.ofNat 32 x)).s ∧
          U.pend = T.pend.filter (fun p => p.1 != e.id) ∧ U.regs = T.regs ∧ U.spc = T.spc) ∧
    (∀ bs : List Byte, ready s n e → (memAt s e.dest).wf = true → e.op = .store bs → e.ret = .none →
      (∀ g, e.dest = .bank g → (s.gang g).liveAt e.addr bs.length = false) →
        ∃ s', exec (.perform n) s = .next s' ∧ storedAt s s' e.dest e.addr bs ∧ s'.teams = s.teams) ∧
    (∀ (op : AOp) (k : Nat) (b c : DWord) (x : Nat), ready s n e → (memAt s e.dest).wf = true → e.op = .atom op k b c → k = 4 ∨ k = 8 →
      (∀ q, e.dest = .home q → e.addr + k ≤ infoBase) →
      (∀ g, e.dest = .bank g → (s.gang g).liveAt e.addr k = false) →
      let old := leNat ((memAt s e.dest).readN e.addr k)
      atomNew op k old (b.toNat % 2 ^ (8 * k)) (c.toNat % 2 ^ (8 * k)) = some x →
        (e.ret = .none → ∃ s', exec (.perform n) s = .next s' ∧ storedAt s s' e.dest e.addr (leBytes k x) ∧ s'.teams = s.teams) ∧
        (∀ (t d : Nat) (T : Team) (wide : Bool), e.ret = .sreg t d wide → s.teams[t]? = some T →
          T.pend.any (fun p => p.1 == e.id) = true → 0 < d → d < 64 → (wide = true → d % 2 = 0) → (wide = true ↔ k = 8) →
            ∃ s' U, exec (.perform n) s = .next s' ∧ storedAt s s' e.dest e.addr (leBytes k x) ∧ s'.teams[t]? = some U ∧
              s.sameOthers s' t ∧
              U.s = (if wide then T.wrp (BitVec.ofNat 6 d) (BitVec.ofNat 64 old)
                     else T.wr (BitVec.ofNat 6 d) (BitVec.ofNat 32 old)).s ∧
              U.pend = T.pend.filter (fun p => p.1 != e.id) ∧ U.regs = T.regs ∧ U.spc = T.spc)) ∧
    (s.mayPerform n e = false → exec (.perform n) s = .next s)

namespace Sys2Proof.Claims

/-- What the return of a lane of a pending instruction leaves (03/R79 to R81): the lane's destination holds the words, every other
lane and register of the team is as before, and the lane counts as finished in the slot, which frees with the last. -/
def laneReturned (s : State) (o : Host.Outcome State Fault Refusal) (t j lane : Nat) (T : Team) (x : Slot) (C : LCtx) (d : Dst)
    (cnt : Nat) (words : List Word) : Prop :=
  ∃ s' U D, o = .next s' ∧ s'.teams[t]? = some U ∧ s.sameOthers s' t ∧ U.regs = D.regs ∧ U.s = T.s ∧ U.spc = T.spc ∧
    LFrame { C with eff := Mask.one lane } D d cnt ∧ D.wrote d cnt (fun _ => words) ∧
    let y : Slot := { x with flying := x.flying &&& ~~~ Mask.one lane, done := x.done ||| Mask.one lane,
                             parts := x.parts.filter (fun p => p.lane != lane) }
    U.oplog[j]? = some (if y.eff &&& ~~~ y.done = 0 ∧ y.traps = [] then none else some y)

/-- A chain of fused f32 multiply-adds from +0 (13/R346, R349). -/
def fusedChain (l : List (Nat × Nat)) : Nat := l.foldl (fun acc p => fused p.1 p.2 acc) 0

/-- What a lane's soft load gives from the weights of its entries and the elements it read: an element of each position, or for
its adjoint a weight for each entry (13/R346, R349). -/
def softResult (d : Nat) (ws els : List Word) (dy : Option (List Word)) : List Word :=
  let m (e j : Nat) : Nat := ((els[e * d + j]?).getD 0).toNat
  match dy with
  | none => (List.range d).map (fun j =>
      BitVec.ofNat 32 (fusedChain ((List.range ws.length).map (fun e => (((ws[e]?).getD 0).toNat, m e j)))))
  | some ys => (List.range ws.length).map (fun e =>
      BitVec.ofNat 32 (fusedChain ((List.range d).map (fun j => (m e j, ((ys[j]?).getD 0).toNat)))))

end Sys2Proof.Claims

/-- 08/R203 to R206, 09/R258, 13/R346, R349, 03/R79: an access that returns to an operand-log slot, performed, finishes its lane:
a lane load with the bytes of its parts, a lane atomic with the old number, an elastic load with the value that its first L
halfwords hold, narrowed as its destination needs, and `eldn` also with its cursor moved on by 2L, a soft load, with its last
element, with the chains of its elements and weights. -/
def Sys2Proof.Claims.LaneReturns : Prop :=
  ∀ (n : Nat) (s : State) (e : Entry) (t j lane : Nat) (T : Team) (x : Slot) (o : LaneOp) (C : LCtx),
    s.arr[n]? = some e → ready s n e → isPlace s e.dest → s.teams[t]? = some T → j < 4 → T.oplog[j]? = some (some x) →
    x.ops.find? (fun y => y.lane == lane) = some o → s.retCtx (.l t) x = some C → lane < C.w → lane < 1024 →
    x.eff.getLsbD lane = true → x.done.getLsbD lane = false →
    C.regCheck (touch x.i (s.softD t x.i)) = none → dstReg (lCode x.i).2.d ≠ some .prc → s.bad = [] →
    let f := (lCode x.i).2
    let read (k : Nat) : List Byte := (memAt s e.dest).readN e.addr k
    (∀ (m : MemOp) (off k : Nat), memOpOf x.i = some m → m.elastic = false → e.ret = .slot t j lane off →
      e.op = .load k ∨ (∃ op b c, e.op = .atom op k b c) → (∀ q, e.dest = .home q → e.addr + k ≤ infoBase) →
      let bs := partsOf (x.parts ++ [{ lane := lane, off := off, bytes := read k }]) lane
      m.n ≤ bs.length →
        laneReturned s (exec (.perform n) s) t j lane T x C f.d (m.n / 4)
          ((List.range (m.n / 4)).map (fun i => wordAt bs (4 * i)))) ∧
    (∀ k : Nat, x.i = .eld f ∨ x.i = .eldn f → e.ret = .slot t j lane 0 → e.op = .load k → 4 ≤ k →
      (∀ q, e.dest = .home q → e.addr + k ≤ infoBase) → (∀ p ∈ x.parts, p.lane ≠ lane) →
      let hs := (List.range 16).map (fun i => natAt (read k) (2 * i) 2)
      let l := eLen hs
      let words := C.eMerge f.d lane (eNarrow (bitsOf (o.data.headD 0).toNat 14 12) (C.dstCap f.d) (hs.take l)).1
      l ≤ 16 → 2 * l ≤ k →
        (x.i = .eld f → laneReturned s (exec (.perform n) s) t j lane T x C f.d 0 words) ∧
        (∀ a : BitVec 7, x.i = .eldn f → f.a = .reg (.v a) →
          ∃ s' U, exec (.perform n) s = .next s' ∧ s'.teams[t]? = some U ∧
            ∀ r r', U.regs.v[a.toNat]? = some r → U.regs.v[a.toNat + 1]? = some r' →
              r'.at lane ++ r.at lane = o.a + BitVec.ofNat 64 (2 * l))) ∧
    (∀ (set set' k i : Nat) (c : Caddy), x.i = .softLd f ∨ x.i = .softLdg f → e.ret = .soft t j lane i → e.op = .softLd set k →
      (∀ q, e.dest = .home q → e.addr + 4 ≤ infoBase) → s.caddyOf t (f.imm.toNat % 64) = some (set', c) →
      let kk := f.sub.toNat % 8 + 1
      let bs := partsOf (x.parts ++ [{ lane := lane, off := 4 * i, bytes := read 4 }]) lane
      4 * kk * c.d ≤ bs.length → o.data.length = 2 * kk + (if x.i = .softLdg f then c.d else 0) →
      let words := softResult c.d ((o.data.drop kk).take kk) ((List.range (kk * c.d)).map (fun i => wordAt bs (4 * i)))
        (if x.i = .softLdg f then some (o.data.drop (2 * kk)) else none)
      laneReturned s (exec (.perform n) s) t j lane T x C f.d words.length words)

/-- 02/R32 to R34: the next queued block of a team with no block starts at its index, with the whole team's path mask, an empty
stack and staged set, EW clear, and the FMT that the team last left. Masks and `prc` keep their values, and so do the registers
that have stayed since the `lrun` before; those added since read as zero (02/R50), and a block that a trap holds has the ones
of its own put by (the model's reading, log entry 74). -/
def Sys2Proof.Claims.BlockStarts : Prop :=
  ∀ (s : State) (t : Nat) (T : Team) (q : LQ) (r : List LQ), s.teams[t]? = some T → T.blk = none → T.laneQ = q :: r →
    T.trapDue = false → s.onCore t = true →
      ∃ (b : Blk) (h : Option Blk), exec (.blockStart t) s = .next (s.setTeam t
          { T with blk := some b, laneQ := r, held := h,
                   regs := { T.regs with v := T.regs.v.take q.low ++ List.replicate (T.regs.v.length - q.low) (.u 0) } }) ∧
        (T.held = none → h = none) ∧
        (∀ x, T.held = some x → ∃ y, h = some y ∧ y = { x with stash := y.stash } ∧
          (x.stash = [] → q.low < x.lq.n → x.lq.n ≤ T.regs.v.length →
            y.unstash (T.regs.v.take q.low ++ List.replicate (T.regs.v.length - q.low) (.u 0)) = T.regs.v.take x.lq.n)) ∧
        b.lq = q ∧
        b.lpc = q.index ∧ b.fmt = T.fmt ∧ b.stack = [] ∧ b.staged = 0 ∧ b.ew = false ∧ b.chainCount = 0 ∧ b.redo = [] ∧
        ∀ l < 1024, b.path.getLsbD l = decide (l < T.w)

namespace Sys2Proof.Claims

/-! ## Continuations -/

/-- A register as a return leaves it: carried lanes hold the visitor's values, the others the team's (14/R372). -/
def mergedReg (w : Nat) (lanes : Mask) (old new out : VReg) : Prop :=
  ∀ l < w, l < 1024 → out.at l = if lanes.getLsbD l then new.at l else old.at l

end Sys2Proof.Claims

/-- 14/R362, R367, R371, R372, 10/R281: an outbound continuation at the head of its channel goes to the inbox of its die; one of
the inbox that may start becomes a visitor on a core with a free slot and rows; a returning one whose accesses have been
performed (as far as the run's observer lies within the die) is merged: carried lanes of staged registers, `prc` and mask bits take its values, its flags and counts are
added, and its record awaits the team's waiting point, where its lanes rejoin. Each needs its partition's turn at the channel
(17/R447; what the arbiter compares is the model's choice, log entry 118). -/
def Sys2Proof.Claims.ContinuationSteps : Prop :=
  ∀ (n : Nat) (s : State) (c : Cont),
    (s.channel[n]? = some c → (s.channel.take n).any (fun x => x.src == c.src && x.dst == c.dst) = false → c.kind = 0 → c.dst < 8 →
      s.channelTurn n c = true →
      c.reserved = true ∨ (s.die c.dst).inbox.length + (s.die c.dst).reserved < 64 →
        ∃ s', exec (.continuationDeliver n) s = .next s' ∧ s'.channel = s.channel.take n ++ s.channel.drop (n + 1) ∧
          (s'.die c.dst).inbox = (s.die c.dst).inbox ++ [c] ∧ s'.teams = s.teams ∧ s'.visitors = s.visitors ∧ s.sameMemory s') ∧
    (∀ (die core : Nat), (s.die die).inbox[s.choice]? = some c → die < 8 → dieOfCore core = die → s.works core = true →
      s.mayStart die ((s.die die).inbox.take s.choice) c = true → 0 < s.freeSlots core → c.rows ≤ s.freeRows core →
      (s.gangOf c.team).phase = .resident → (s.part c.part).state = .ready →
        ∃ s' V, exec (.visitorStart die core) s = .next s' ∧ s'.visitors = s.visitors ++ [V] ∧ V.cont = { c with held := none } ∧ V.hold = c.held ∧ V.alive = true ∧
          V.core = core ∧ V.rows = c.rows ∧ V.fly = none ∧ V.ord = [] ∧ s'.teams = s.teams ∧
          (s'.die die).inbox = (s.die die).inbox.take s.choice ++ (s.die die).inbox.drop (s.choice + 1) ∧ s.sameMemory s') ∧
    (∀ T : Team, s.channel[n]? = some c → (s.channel.take n).any (fun x => x.src == c.src && x.dst == c.dst) = false → c.kind ≠ 0 →
      s.channelTurn n c = true → s.teams[c.team]? = some T → (∀ e ∈ s.flight, e.id ∈ c.waits → e.counts 2 = false ∨ s.binds 2 c.team e.die = false) →
        ∃ s' U r, exec (.returnMerge n) s = .next s' ∧ s'.teams[c.team]? = some U ∧ s.sameOthers s' c.team ∧
          U.returned = T.returned ++ [r] ∧ r.block = c.blk.lq.sMark ∧ r.kind = c.kind ∧ r.lpc = c.blk.lpc ∧ r.lanes = c.lanes ∧
          r.redo = c.redo ∧ r.cause = c.cause ∧ r.taddr = c.taddr ∧ r.staged = c.blk.staged ∧ r.ew = c.blk.ew ∧ U.away = T.away ∧ U.fpstat = T.fpstat ||| c.flags ∧
          (∀ j x y, c.blk.staged.getLsbD j = true → T.regs.v[j]? = some x → c.regs.v[j]? = some y →
            ∃ z, U.regs.v[j]? = some z ∧ mergedReg T.w c.lanes x y z) ∧
          (∀ j, c.blk.staged.getLsbD j = false → c.blk.ew = false → U.regs.v[j]? = T.regs.v[j]?) ∧
          mergedReg T.w c.lanes T.regs.prc c.regs.prc U.regs.prc ∧
          (∀ (k : Fin 8) (l : Nat), l < 1024 → U.regs.m[k].getLsbD l =
            if c.lanes.getLsbD l then c.regs.m[k].getLsbD l else T.regs.m[k].getLsbD l) ∧ s.sameMemory s')

namespace Sys2Proof.Claims

/-- The lane state from which the lanes of a slot are issued again (03/R81): its team's registers, and the lanes that are left. -/
def replayCtx (s : State) (t : Nat) (k : Slot) (C : LCtx) : Prop :=
  ∃ D, s.retCtx (.l t) k = some D ∧ C = { D with eff := k.eff &&& ~~~ k.done }

end Sys2Proof.Claims

/-- 03/R54, R81, 15/R395, R396: a slot whose hold was answered with RETRY, or that nothing holds, enters the accesses of its
unfinished lanes again from the logged operands; a slot of which lanes have faulted, or whose hold was answered with FAIL, traps
once none is in flight, with the lowest cause and its lowest lane's address, its own lane-PC and its unfinished lanes; the trap names the slot, which
keeps them and their operands (03/R79). -/
def Sys2Proof.Claims.OperandLogReplays : Prop :=
  ∀ (s : State) (t j : Nat) (T : Team) (k : Slot), s.teams[t]? = some T → j < 4 → T.oplog[j]? = some (some k) →
    s.onCore t = true → T.trapDue = false → k.flying = 0 →
    (∀ (m : MemOp) (C : LCtx) (ws : List (LaneOp × Want)) (c : Chk), k.traps = [] →
      (k.hold.isSome = true ∧ k.hold.bind (·.res) = some .retry) ∨ (k.hold = none ∧ k.faulted = 0) → memOpOf k.i = some m →
      m.space = .spad ∨ k.migctl.getLsbD 5 = true ∨ T.mayLeave k = true → replayCtx s t k C →
      s.lMay C m = true →
      (Chk.mk s (s.lastPages (.l t)) []).lanes C (s.teamQueue C.t C.die) m k.migctl
        (k.ops.filter (fun o => C.eff.getLsbD o.lane)) = (ws, c) →
      (∀ w ∈ ws, ∃ ps, w.2 = .go ps ∧ c.s.brokenPart C m (w.1.addr m.i) ps = none ∧ ∀ p ∈ ps, p.2.2.replica = false) →
        ∃ s' U es, exec (.operandLogReplay t j) s = .next s' ∧ s'.teams[t]? = some U ∧ s'.fwd = s.fwd ++ es ∧
          (∀ w ∈ ws, ∀ ps, w.2 = .go ps → ∀ p ∈ ps, ∃ e ∈ es, laneEntry c.s C m j w.1 p e) ∧
          (∀ e ∈ es, ∃ w ∈ ws, ∃ ps, w.2 = .go ps ∧ ∃ p ∈ ps, laneEntry c.s C m j w.1 p e) ∧ U.regs = T.regs ∧ U.blk = T.blk ∧
          (m.returns = true → k.eff &&& ~~~ k.done ≠ 0 → ∃ x, U.oplog[j]? = some (some x) ∧ x.hold = none ∧ x.done = k.done ∧
            ∀ l < 1024, x.flying.getLsbD l = ws.any (fun w => w.1.lane == l)) ∧ s.sameMemory s') ∧
    (∀ bad : Bads, bad ≠ [] → T.phase = .running → (k.traps = bad ∨ (k.traps = [] ∧ ∃ h, k.hold = some h ∧
        h.res = some .fail ∧ bad = [(0, h.cause, h.addr)])) →
      ∃ s' U p, exec (.operandLogReplay t j) s = .next s' ∧ s'.teams[t]? = some U ∧ U.pendL = some p ∧
        (∃ x ∈ bad, x.2.1 = p.cause ∧ x.2.2 = p.taddr ∧ ∀ y ∈ bad, causeCode p.cause ≤ causeCode y.2.1 ∧ (y.2.1 = p.cause → x.1 ≤ y.1)) ∧
        p.tlpc = k.lpc ∧ p.lanes = k.eff &&& ~~~ k.done ∧ U.regs = T.regs ∧ s.sameMemory s' ∧
        p.slot = some (BitVec.ofNat 3 j) ∧ p.redoFrom = none ∧
        (k.eff &&& ~~~ k.done ≠ 0 → ∃ x, U.oplog[j]? = some (some x) ∧ x.i = k.i ∧ x.ops = k.ops ∧ x.eff = k.eff ∧
          x.done = k.done))

namespace Sys2Proof.Claims

/-! ## The kettle (11/R283 to R310) -/

/-- Bytes of a record's data at an address of the scratchpad: of each line those that a step of its own has read, or those that
stand there. -/
def linesOf (z : KRec) (m : Memory) (off : Nat) (a : DWord) (n : Nat) : List Byte :=
  (lineParts (n / 64 + 2) a.toNat 0 n).flatMap (fun p => (z.ahead (off + p.1) p.2).getD (m.readN (a.toNat + p.1) p.2))

/-- Each line has been read, or lies in a scratchpad of a size. -/
def linesReadable (z : KRec) (size off sp : Nat) (a : DWord) (n : Nat) : Prop :=
  ∀ p ∈ lineParts (n / 64 + 2) a.toNat 0 n, (z.ahead (off + p.1) p.2).isSome = true ∨ sp = 1 ∧ a.toNat + p.1 + p.2 ≤ size

/-- The bytes that a record's unit copies within the gang's scratchpad (11/R292 to R294), and where they go; a TILE element on a
filled side, and a GATHER row of index 0xFFFFFFFF, copy zeros. A line of the source, or an index, that a step of its own has
read (10/R263, R276) is as it was read then. A GATHER's row moves in parts of 4 bytes. -/
def unitOf (z : KRec) (m : Memory) (lo n : Nat) : List Byte × DWord :=
  let b := z.image
  let read (off : Nat) (a : DWord) (n : Nat) : List Byte := linesOf z m off a n
  let at_ (a : DWord) (n : Nat) : List Byte := read (kOffset b lo) a n
  let e := kElem b
  match kType b with
  | 0 => (at_ (kSrc b + BitVec.ofNat 64 lo) n, kDst b + BitVec.ofNat 64 lo)
  | 4 => ((List.range n).map (fun i => (b[0x28 + (lo + i) % 8]?).getD 0), kDst b + BitVec.ofNat 64 lo)
  | 1 =>
    let r := lo / kCt b
    let c := lo % kCt b
    let src := kSrc b + BitVec.ofInt 64 (((r : Int) - kHalo b) * kSstride b + ((c : Int) - kHalo b) * e)
    (if kBorder b r c then List.replicate e 0 else at_ src e, kDst b + BitVec.ofNat 64 (r * kDstride b + c * e))
  | _ =>
    let row := lo / (e / 4)
    let x := leNat (read (kIndexOffset b row) (kIndex b + BitVec.ofNat 64 (4 * row)) 4)
    (if x = 0xFFFFFFFF then List.replicate 4 0 else at_ (kSrc b + BitVec.ofNat 64 (x * kSstride b + 4 * (lo % (e / 4)))) 4,
      kDst b + BitVec.ofNat 64 (4 * lo))

/-- The bytes that the unit reads have been read, or lie in a scratchpad of a size, and a GATHER index is below SLIMIT. -/
def unitReadable (z : KRec) (m : Memory) (size lo n : Nat) : Prop :=
  let b := z.image
  let e := kElem b
  let from_ (a : DWord) (n : Nat) : Prop := linesReadable z size (kOffset b lo) (kSsp b) a n
  match kType b with
  | 0 => from_ (kSrc b + BitVec.ofNat 64 lo) n
  | 4 => True
  | 1 =>
    let r := lo / kCt b
    let c := lo % kCt b
    kBorder b r c = true ∨
      from_ (kSrc b + BitVec.ofInt 64 (((r : Int) - kHalo b) * kSstride b + ((c : Int) - kHalo b) * e)) e
  | 2 =>
    let row := lo / (e / 4)
    let a := kIndex b + BitVec.ofNat 64 (4 * row)
    let x := leNat (linesOf z m (kIndexOffset b row) a 4)
    linesReadable z size (kIndexOffset b row) (kIsp b) a 4 ∧
      (x = 0xFFFFFFFF ∨ x < kSlimit b ∧ from_ (kSrc b + BitVec.ofNat 64 (x * kSstride b + 4 * (lo % (e / 4)))) 4)
  | _ => False

/-- The record at place `r` of the chain that a channel walks, released, not held and with work left. -/
def workingRec (s : State) (c ch r : Nat) (k : Chain) (x : KRec) : Prop :=
  s.kRec c ch r = some (k, x) ∧ x.released = true ∧ x.hold = none ∧ c < 72 ∧ ch < 8

end Sys2Proof.Claims

/-- 11/R283, R284, R296: a channel that walks no chain starts the first that it holds; fetching the record at the next address
of the chain it walks appends it as read, and goes on at its NEXT, or ends the fetching where that is 0; a record that
breaks a rule of R296 stops the fetching for good, fails the chain and marks its token with RECORD and the record's address. -/
def Sys2Proof.Claims.ChainFetching : Prop :=
  ∀ (s : State) (c ch : Nat), c < 72 → ch < 8 →
    (∀ k, s.walking c ch = none → (s.chan c ch).find? (fun x => !x.stopped) = some k →
      ∃ s' k', exec (.chainStart c ch) s = .next s' ∧ s'.walking c ch = some k' ∧ k'.arrived = k.arrived ∧
        (s'.chan c ch).length = (s.chan c ch).length ∧ s'.teams = s.teams ∧ s.sameMemory s') ∧
    (∀ k b s1, s.walking c ch = some k → k.hold = none → s.mayFetch c k = true →
      s.unitRead (s.partOf k.team) none (dieOfCluster c) k.next 64 (some k.team) = (.ok b, s1) →
      (kOk b (s1.spadBytes k.gang) = true →
        ∃ s' k' r, exec (.kettleFetch c ch) s = .next s' ∧ s'.walking c ch = some k' ∧ k'.recs = k.recs ++ [r] ∧ r.addr = k.next ∧
          r.image = b ∧ r.released = false ∧ r.todo = [(0, kUnits b)] ∧ k'.next = dwordAt b 0 ∧
          (k'.fetched = true ↔ dwordAt b 0 = 0) ∧ s'.teams = s.teams) ∧
      (kOk b (s1.spadBytes k.gang) = false → k.failed = false → ∀ T : Team, s.teams[k.team]? = some T →
        T.tok[k.tok.toNat].err = false →
          ∃ s' U, exec (.kettleFetch c ch) s = .next s' ∧ s'.teams[k.team]? = some U ∧ U.tok[k.tok.toNat].err = true ∧
            U.tok[k.tok.toNat].cause = some .record ∧ U.tok[k.tok.toNat].taddr = k.next ∧ U.tok[k.tok.toNat].tspc = k.spc ∧
            U.tok[k.tok.toNat].tseq = k.tag ∧
            ∀ k' ∈ s'.chan c ch, k'.arrived = k.arrived → k'.failed = true ∧ k'.fetched = true))

/-- 11/R292 to R294, R297, R305: a step of a LINEAR, FILL, TILE or GATHER record within the scratchpad moves its unit's bytes and
no others: the source's, the FILL pattern's, or zeros; and the unit is no longer to be done. A LINEAR part whose source or
destination, or both, are global or the scratchpad moves what its space gives to where its space takes it, and counts
against the kettle's budget. -/
def Sys2Proof.Claims.KettleCopies : Prop :=
  (∀ (s s1 s2 : State) (c ch r lo n : Nat) (k : Chain) (x : KRec) (bs : List Byte), workingRec s c ch r k x →
    kType x.image = 0 → 0 < n → inIntervals x.todo lo (lo + n) = true → ((kDst x.image).toNat + lo) % 64 + n ≤ 64 →
    s.spent (s.partOf k.team) 2 = false →
    s.crossHeld (s.partOf k.team) (fun z => (z.kUnit c k x lo (lo + n)).2) = false →
    s.kFrom c k x lo (kSsp x.image) (kSrc x.image + BitVec.ofNat 64 lo) n = (.ok bs, s1) →
    s1.jobWrite (s.partOf k.team) k.gang (dieOfCluster c) (2 * k.arrived) (kDsp x.image) (kDst x.image + BitVec.ofNat 64 lo) bs
      (some k.team) = (.ok (), s2) →
      exec (.linear c ch r lo n) s = .next ((s2.charge (s.partOf k.team) 2 bs.length).modRec c ch k.arrived r (fun y =>
        { y with todo := cutInterval y.todo lo (lo + n) }))) ∧
  ∀ (s : State) (c ch r lo n : Nat) (k : Chain) (x : KRec) (i : Instr), workingRec s c ch r k x →
    (i, kType x.image) ∈ [(.linear c ch r lo n, 0), (.fill c ch r lo n, 4), (.tile c ch r lo n, 1), (.gather c ch r lo n, 2)] →
    0 < n → inIntervals x.todo lo (lo + n) = true → kDsp x.image = 1 →
    (kType x.image ∈ [0, 4] → ((kDst x.image).toNat + lo) % 64 + n ≤ 64) → (kType x.image ∈ [1, 2] → n = 1) →
    s.spent (s.partOf k.team) 2 = false →
    s.crossHeld (s.partOf k.team) (fun z => (z.kUnit c k x lo (lo + n)).2) = false → (s.gangs[k.gang]?).isSome → (s.gang k.gang).spad.wf = true →
    (∀ b ∈ s.bad, b.unit ≠ 2) → unitReadable x (s.gang k.gang).spad (s.spadBytes k.gang) lo n →
    let u := unitOf x (s.gang k.gang).spad lo n
    u.2.toNat + u.1.length ≤ s.spadBytes k.gang → (s.gang k.gang).liveAt u.2.toNat u.1.length = false →
    (∀ p ∈ lineParts (u.1.length / 64 + 2) u.2.toNat 0 u.1.length, (s.gang k.gang).liveAt (u.2.toNat + p.1) p.2 = false) →
      ∃ s' x', exec i s = .next s' ∧ storedAt s s' (.bank k.gang) u.2.toNat u.1 ∧ (s'.kRec c ch r).map (·.2) = some x' ∧
        x'.todo = cutInterval x.todo lo (lo + n) ∧ s'.teams = s.teams

/-- 11/R295, R303, R304, R286: ARRIVE makes its COUNT arrivals at a live barrier word; a record whose work is done
retires once its control doubleword is written with OWN clear and STATUS 0; one with BAR = 1 first pays its bytes at its live
barrier word, or fails with BARRIER_STATE when the word is not live; a chain that was its last record ends, and its
token's OUT falls. -/
def Sys2Proof.Claims.ArriveAndRetire : Prop :=
  ∀ (s : State) (c ch r : Nat) (k : Chain) (x : KRec), workingRec s c ch r k x →
    (∀ (e n g : Nat) (o : Int), kType x.image = 3 → x.todo ≠ [] → s.isBad 2 k.gang (kBarrier x.image) 8 = false →
      (s.gangs[k.gang]?).isSome → (s.gang k.gang).spad.wf = true → liveIn s k.gang (kBarrier x.image) e n g o →
      0 < kCount x.image → g + kCount x.image ≤ n →
        ∃ s' x', exec (.arrive c ch r) s = .next s' ∧ checkedIn s' k.gang (kBarrier x.image) e n (g + kCount x.image) o ∧
          (s'.kRec c ch r).map (·.2) = some x' ∧ x'.todo = []) ∧
    let put (y : State) : UOut Unit × State := y.unitWrite (s.partOf k.team) none (dieOfCluster c) (2 * k.arrived) (x.addr + 8)
      (leBytes 4 (natAt x.image 8 4 % 2 ^ 31) ++ leBytes 4 0) (some k.team)
    (∀ s1, x.todo = [] → k.failed = false → kBar x.image = false → s.spent (s.partOf k.team) 2 = false →
      let z := s.modRec c ch k.arrived r (fun y => { y with ranged := false, counted := true })
      z.crossHeld (s.partOf k.team) (fun y => (put y).2) = false → put z = (.ok (), s1) →
      (k.fetched = false → ∃ s' k' y, exec (.recordRetire c ch r) s = .next s' ∧ s'.walking c ch = some k' ∧
        k'.recs[r]? = some y ∧ y.retired = true ∧ y.ranged = false ∧ s'.teams = s1.teams) ∧
      (k.fetched = true → k.hold = none → (∀ j y, j ≠ r → k.recs[j]? = some y → y.going = false) → ∀ T : Team,
        s.teams[k.team]? = some T → 0 < T.tok[k.tok.toNat].out →
          ∃ s' U, exec (.recordRetire c ch r) s = .next s' ∧ s'.teams[k.team]? = some U ∧
            U.tok[k.tok.toNat].out = T.tok[k.tok.toNat].out - 1 ∧ (∀ y ∈ s'.chan c ch, y.arrived ≠ k.arrived))) ∧
    (x.todo = [] → k.failed = false → kBar x.image = true → kType x.image ≠ 3 → x.counted = false →
      (s.gangs[k.gang]?).isSome → (s.gang k.gang).spad.wf = true →
      let z := s.modRec c ch k.arrived r (fun y => { y with ranged := false, counted := true })
      (∀ (e n g : Nat) (o : Int) (z1 s1 : State), liveIn s k.gang (kBarrier x.image) e n g o →
        -2 ^ 31 ≤ o - (kBytes x.image : Int) → s.spent (s.partOf k.team) 2 = false →
        z.payAt k.gang (kBarrier x.image) (kBytes x.image) = some z1 →
        z1.crossHeld (s.partOf k.team) (fun y => (put y).2) = false → put z1 = (.ok (), s1) → k.fetched = false →
          ∃ s' k' y, exec (.recordRetire c ch r) s = .next s' ∧ s'.walking c ch = some k' ∧ k'.recs[r]? = some y ∧
            y.retired = true ∧ checkedIn s' k.gang (kBarrier x.image) e n g (o - (kBytes x.image : Int))) ∧
      (kBarrier x.image ∉ (s.gang k.gang).live → ∀ T : Team, s.teams[k.team]? = some T → T.tok[k.tok.toNat].err = false →
        ∃ s' U, exec (.recordRetire c ch r) s = .next s' ∧ s'.teams[k.team]? = some U ∧ U.tok[k.tok.toNat].err = true ∧
          U.tok[k.tok.toNat].cause = some .barrierState ∧ U.tok[k.tok.toNat].taddr = x.addr))

namespace Sys2Proof.Claims

/-! ## Matrix engines (10/R277, 12/R311 to R336) -/

/-- Nothing of a gang that was accepted on a cluster before a number clashes with a footprint: each earlier job has its
records read and a footprint apart, or failed before they were read; each earlier chain has been fetched up to its null
pointer and has a footprint apart (10/R277). -/
def independent (s : State) (c g a : Nat) (fp : List Extent) : Prop :=
  (∀ k ∈ (s.cluster c).jobs, k.gang = g → k.arrived < a →
    k.unread = [] ∧ clashes k.footprint fp = false ∨ k.unread ≠ [] ∧ k.failed = true) ∧
    ∀ l ∈ (s.cluster c).channels.toList, ∀ k ∈ l, k.gang = g → k.arrived < a →
      (k.fetched = true ∧ k.next = 0 ∧ k.stopped = false) ∧ clashes k.footprint fp = false

/-- `j` is the job at place `n` of a cluster's reservation table. -/
def jobAt (s : State) (c n : Nat) (j : Job) : Prop := c < 72 ∧ (s.cluster c).jobs[n]? = some j

/-- No job of the holder goes before `j`: each other one waits, has begun, failed or ended, or comes after `j` in PRIO and then
in order of acceptance (12/R322). -/
def turnOf (s : State) (c : Nat) (j : Job) : Prop :=
  j.begun = true ∨ ∀ k ∈ (s.cluster c).jobs, k.arrived = j.arrived ∨ k.released = false ∨ k.begun = true ∨ k.failed = true ∨
    k.gang ≠ j.gang ∨ k.prio < j.prio ∨ k.prio = j.prio ∧ j.arrived < k.arrived

/-- A released job of the holder that its engine may work on. -/
def workable (s : State) (c : Nat) (j : Job) : Prop :=
  j.failed = false ∧ j.hold = none ∧ j.released = true ∧ (s.cluster c).holder = some j.gang ∧
    (s.gang j.gang).phase = .resident ∧ turnOf s c j

/-- The pass of a job with one member (12/R313). -/
def passFor (s : State) (c : Nat) (j : Job) (m : JMember) : PassOut :=
  let a : TRec := j.operand (s.partOf m.team) c m (m.pairA, m.recA) s.choice
  let b : TRec := j.operand (s.partOf m.team) c m (j.pairB, j.recB) s.choice
  match j.kind with
  | .mma => s.mmaPass a b j.wide m.sc j.done
  | .bput => s.bputPass a m.sc.toNat j.done
  | .accld => s.accldPass a m.sc j.done
  | .accst => s.accstPass a m.sc j.fmt j.done
  | .mxreq => s.mxreqPass a b j.fmt j.done

/-- The event that steps a job of a kind once. -/
def jobEvent (c n : Nat) (k : JKind) : Instr :=
  match k with
  | .mma => .mmaJob c n 1
  | .bput => .bputJob c n 1
  | .accld => .accldJob c n 1
  | .accst => .accstJob c n 1
  | .mxreq => .mxreqJob c n 1

end Sys2Proof.Claims

/-- 10/R277, 11/R285, 12/R312, R322, R325: a job whose records have been read is released once it is independent of what its gang
had accepted before, and not earlier; so is a kettle record, whose destination range enters the scoreboard, once every earlier
record of its chain that still works has begun or might begin (this last is the model's choice, log entry 106); a free engine
goes to the gang whose oldest waiting job has the highest PRIO, and among those was accepted first, with its saved state, and
stays with its holder; a job that has failed, or whose passes have been run and their writes performed, leaves the table, its
flags are added to MSTAT of its team and OUT falls. -/
def Obligations.MatrixScheduling : Prop :=
  ∀ (s : State) (c n : Nat),
    (∀ j, jobAt s c n j → j.unread = [] → independent s c j.gang j.arrived j.footprint →
      ∃ s', exec (.jobRelease c n) s = .next s' ∧ jobAt s' c n { j with released := true } ∧ s'.teams = s.teams ∧ s.sameMemory s') ∧
    (∀ j, jobAt s c n j → j.unread ≠ [] ∨ ¬ independent s c j.gang j.arrived j.footprint → exec (.jobRelease c n) s = .next s) ∧
    (∀ ch k r x, c < 72 → (s.cluster c).jobs.length ≤ n → (s.kettleRecs c)[n - (s.cluster c).jobs.length]? = some (ch, k, r, x) →
      x.live = true → k.mayBegin r x = true → independent s c k.gang k.arrived (kFootprint x.image) →
      (∀ y ∈ k.recs.take r, y.live = true → y.released = true ∨ y.clear = true ∨
        independent s c k.gang k.arrived (kFootprint y.image)) →
        ∃ s' k', exec (.jobRelease c n) s = .next s' ∧
          s'.kRec c ch r = some (k', { x with released := true, clear := true, ranged := (kRange x.image).isSome }) ∧ s'.teams = s.teams) ∧
    (∀ j, jobAt s c n j → (s.cluster c).holder = none → (s.gang j.gang).phase = .resident →
      (∀ k ∈ (s.cluster c).jobs, k.gang = j.gang → j.arrived ≤ k.arrived) →
      (∀ k ∈ (s.cluster c).jobs, (s.gang k.gang).phase = .resident → k.gang ≠ j.gang →
        (∀ m ∈ (s.cluster c).jobs, m.gang = k.gang → k.arrived ≤ m.arrived) →
          k.prio < j.prio ∨ k.prio = j.prio ∧ j.arrived < k.arrived) →
        ∃ s', exec (.holderGrant c) s = .next s' ∧ (s'.cluster c).holder = some j.gang ∧ (s'.gang j.gang).engine = none ∧
          ((s'.cluster c).acc, (s'.cluster c).bstore) = (s.gang j.gang).engine.getD ([], []) ∧
          (s'.cluster c).jobs = (s.cluster c).jobs ∧ s'.teams = s.teams ∧ s.sameMemory s') ∧
    ((s.cluster c).holder ≠ none → exec (.holderGrant c) s = .next s) ∧
    (∀ j m T, jobAt s c n j → (s.cluster c).holder = some j.gang → j.failed = true ∨ j.begun = true ∧ j.passes ≤ j.done ∧ j.wbuf = [] →
      j.members = [m] → s.teams[m.team]? = some T →
        ∃ s' U, exec (.jobEnd c n) s = .next s' ∧ s'.teams[m.team]? = some U ∧ s.sameOthers s' m.team ∧
          U.mstat = T.mstat ||| j.flags ∧ U.tok[m.tok.toNat].out = T.tok[m.tok.toNat].out - 1 ∧ U.s = T.s ∧ U.regs = T.regs ∧
          (∀ k ∈ (s'.cluster c).jobs, k.arrived ≠ j.arrived ∧ k ∈ (s.cluster c).jobs) ∧ s.sameMemory s')

/-- 12/R313, R319, R322, R323: a released job of the holder whose checks pass begins and runs its next pass, its flags
accumulate, and what a pass has formed without performing it (10/R276) stays with the job; one whose checks fail is failed with
the first that holds, its token marked with that cause, the tile record's address, the command's S-PC and its tag, and so is one
whose pass meets a failure that is not resolvable; a resolvable one holds the job and leaves nothing of the pass behind (this
last is the model's choice, log entry 70; the order in which the checks are met, and the record that a failure of the
accumulator store names, are the model's choices too, log entries 126 and 127); a job of a gang that is not the holder, or not
released, waits. A crew's job runs each of its members' parts of a pass. -/
def Obligations.MatrixJobSteps : Prop :=
  ∀ (s : State) (c n : Nat) (j : Job) (m : JMember), jobAt s c n j →
    (∀ (f : BitVec 3) (w : List (DWord × Nat × DWord × List Byte)) (s1 : State), j.members.head? = some m → workable s c j →
      j.begun = true ∨ firstCheck j.checks = none → s.spent (s.partOf m.team) 1 = false → j.done < j.passes →
      let s0 := s.modJob c j.arrived (fun _ => { j with begun := true })
      let run (z : State) : PassOut := z.passOf c { j with begun := true } j.members j.done
      s0.crossHeld (s.partOf m.team) (fun z => (run z).2) = false → run s0 = (.ok f, s1) →
      jobAt s1 c n { j with begun := true, wbuf := w } →
        ∃ s', exec (jobEvent c n j.kind) s = .next s' ∧
          jobAt s' c n { j with begun := true, wbuf := w, done := j.done + 1, flags := j.flags ||| f } ∧
          (s'.cluster c).acc = (s1.cluster c).acc ∧ (s'.cluster c).bstore = (s1.cluster c).bstore ∧ s1.sameMemory s' ∧
          s'.teams = s1.teams) ∧
    (∀ out s1, j.members = [m] → workable s c j → j.begun = true ∨ firstCheck j.checks = none →
      s.spent (s.partOf m.team) 1 = false → j.done < j.passes →
      let s0 := s.modJob c j.arrived (fun _ => { j with begun := true })
      s0.crossHeld (s.partOf m.team) (fun z => (passFor z c { j with begun := true } m).2) = false →
      passFor s0 c { j with begun := true } m = (out, s1) →
        (∀ f w, out = .ok f → jobAt s1 c n { j with begun := true, wbuf := w } →
          ∃ s', exec (jobEvent c n j.kind) s = .next s' ∧
            jobAt s' c n { j with begun := true, wbuf := w, done := j.done + 1, flags := j.flags ||| f } ∧
            (s'.cluster c).acc = (s1.cluster c).acc ∧ (s'.cluster c).bstore = (s1.cluster c).bstore ∧ s1.sameMemory s' ∧
            s'.teams = s1.teams) ∧
        ∀ e, out = .error e →
          (e.res = true → s.canHold m.team = true →
            ∃ s', exec (jobEvent c n j.kind) s = .next s' ∧ s.sameMemory s' ∧ s'.teams = s.teams ∧
              jobAt s' c n { j with begun := true, hold := some (.on e.cause e.va e.write), heldRec := e.record } ∧
              (s'.cluster c).acc = (s.cluster c).acc ∧ (s'.cluster c).bstore = (s.cluster c).bstore) ∧
          (∀ T, e.res = false → s1.teams[m.team]? = some T → T.tok[m.tok.toNat].err = false →
            ∃ s' U, exec (jobEvent c n j.kind) s = .next s' ∧ s'.teams[m.team]? = some U ∧
              U.tok[m.tok.toNat].err = true ∧ U.tok[m.tok.toNat].cause = some e.cause ∧
              U.tok[m.tok.toNat].taddr = e.record ∧ U.tok[m.tok.toNat].tspc = m.spc ∧ s1.sameMemory s')) ∧
    (∀ cause a T, j.members = [m] → workable s c j → j.begun = false → firstCheck j.checks = some (cause, a) → s.teams[m.team]? = some T →
      T.tok[m.tok.toNat].err = false →
        ∃ s' U, exec (jobEvent c n j.kind) s = .next s' ∧ jobAt s' c n { j with failed := true, wbuf := [] } ∧
          s'.teams[m.team]? = some U ∧ U.tok[m.tok.toNat].err = true ∧ U.tok[m.tok.toNat].cause = some cause ∧
          U.tok[m.tok.toNat].taddr = a ∧ U.tok[m.tok.toNat].tspc = m.spc ∧ U.tok[m.tok.toNat].tseq = m.tag ∧
          s.sameOthers s' m.team ∧ s.sameMemory s') ∧
    (j.failed = false → j.hold = none → (s.gang j.gang).phase = .resident →
      j.released = false ∨ (s.cluster c).holder ≠ some j.gang ∨ ¬ turnOf s c j →
        exec (jobEvent c n j.kind) s = .next s)

namespace Sys2Proof.Claims

/-- An f32 code rounded to nearest, ties to even. -/
def round32 (v : FV) : Word := BitVec.ofNat 32 (fmtF32.round 0 false false v).1

/-- The accumulator after a block of 32 products (12/R327): the exact sum of the products of the elements that both operands
have, rounded once, then added with rounding; a NaN scale makes the block's value NaN; without a product nothing changes. -/
def dotCell (old : Word) (a b : TBlock) : Word :=
  let at_ (t : TBlock) (x : Nat) : FV := (tElem t.ty x).scale (tScaleExp t.ty t.scale x)
  let ps := (a.els.zip b.els).filterMap (fun p => match p with
    | (some x, some y) => some (mulFV (at_ a x) (at_ b y)).1
    | _ => none)
  let sum := ps.foldl (fun z v => (addFV 0 z v).1) (.fin false 0 0)
  let x := round32 (if tScaleNan a.ty a.scale || tScaleNan b.ty b.scale then .nan false else sum)
  if ps.isEmpty then old else round32 (addFV 0 (fmtF32.decode old.toNat) (fmtF32.decode x.toNat)).1

/-- The accumulator cells of a region hold `val`, and every other cell of the store is as before. -/
def accHolds (C C' : Cluster) (sc : Word) (rows cols : Nat) (val : Nat → Nat → Word) : Prop :=
  ∀ t r k : Nat, t < 8 → r < 256 → k < 256 →
    C'.accAt t r k =
      if t = scAcc sc ∧ scRow sc ≤ r ∧ r < scRow sc + rows ∧ scCol sc ≤ k ∧ k < scCol sc + cols then
        val (r - scRow sc) (k - scCol sc)
      else C.accAt t r k

/-- Only the model's record of the lines that a step has touched, which is no state of the machine, tells the states apart. -/
def touchedOnly (s z : State) : Prop := ∃ l, z = { s with touched := l }

/-- Element (row, column) of a record reads as `val`, whichever lines the step has touched before. -/
def elemReads (s : State) (t : TRec) (rc : Nat × Nat) (val : FV × Bool) : Prop :=
  ∀ z, touchedOnly s z → ∃ z', touchedOnly s z' ∧ z.tLoad t rc = (.ok val, z')

/-- A dense record in its gang's scratchpad, which is in canonical form with no bad units, and whose rows lie apart; nothing of
it has been read ahead, and writes are performed as they are formed. -/
def inSpad (s : State) (t : TRec) : Prop :=
  t.ahead = [] ∧ t.defer = false ∧ tSpace t.b = 1 ∧ tKind t.b = 0 ∧ t.clu < 72 ∧ s.bad = [] ∧ (s.gangs[t.gang]?).isSome ∧ (s.gang t.gang).spad.wf = true ∧
    tRowBytes t.b ≤ tRstride t.b ∧ (tBase t.b).toNat + tRows t.b * tRstride t.b ≤ s.spadBytes t.gang ∧ s.spadBytes t.gang < 2 ^ 32

end Sys2Proof.Claims

/-- 12/R313, R316, R327, R331 to R335: a pass of `mma` leaves in each cell of its region the accumulated block and changes no
other cell, or fails with DEVICE_ERROR when a cell of the region that it reads has an uncorrectable error; the scale of a block
that forms no product is not read; a group of `bput` copies rows of elements into the B-store, padded with zeros, and nothing else; a group of `accld`
leaves its elements in f32; a group of `accst` to f32 stores its cells and, where bit 19 says so, clears them; a group of
`mxreq` to an FP8 block format quantises each block of 32 and stores codes and scales. -/
def Obligations.MatrixResults : Prop :=
  ∀ (s : State) (a b : TRec) (sc : Word) (q : Nat),
    (∀ (wide : Bool) (R K : List TBlock) (s1 : State), a.clu < 72 → (s.cluster a.clu).acc.wf = true →
      let n := if wide then tCols b.b else tRows b.b
      let bad (r : Nat) : Bool := s.isBad 5 a.clu (accAddr (scAcc sc) (scRow sc + r) (scCol sc)) (n * 4)
      s.mmaBlocks a b wide (tRows a.b) n q = (.ok (R, K), s1) → touchedOnly s s1 → scRow sc + tRows a.b ≤ 256 → scCol sc + n ≤ 256 →
        ((q = 0 ∧ scBit sc = true ∨ ∀ r < tRows a.b, bad r = false) →
          ∃ f s', s.mmaPass a b wide sc q = (.ok f, s') ∧
            accHolds (s.cluster a.clu) (s'.cluster a.clu) sc (tRows a.b) n (fun i j =>
              dotCell (if q = 0 ∧ scBit sc = true then 0
                else (s.cluster a.clu).accAt (scAcc sc) (scRow sc + i) (scCol sc + j))
                ((R[i]?).getD ⟨0, [], 0⟩) ((K[j]?).getD ⟨0, [], 0⟩)) ∧
            s.sameMemory s') ∧
        (¬ (q = 0 ∧ scBit sc = true) → (∃ r < tRows a.b, bad r = true) →
          ∃ s', s.mmaPass a b wide sc q = (.error ⟨.deviceError, false, 0, false, a.addr⟩, s'))) ∧
    (∀ (place : Nat → Nat × Nat) (els : List (Option Nat)) (others : List (List (Option Nat))),
      (∀ l ∈ others, ∀ p ∈ els.zip l, p.1 = none ∨ p.2 = none) →
        s.tBlock a place q els others = (.ok ⟨tType a.b, els, 0⟩, s)) ∧
    (∀ o : Nat, inSpad s a → tScaled (tType a.b) = false → (s.cluster a.clu).bstore.wf = true →
      ∃ s', s.bputPass a o q = (.ok 0, s') ∧ s.sameMemory s' ∧
        (∀ r x, r ∈ groupRows (tRows a.b) q → x < tPr a.b → (s'.cluster a.clu).bstore.read (o + r * tPr a.b + x) =
          if x < tRowBytes a.b then (s.gang a.gang).spad.read ((tBase a.b).toNat + r * tRstride a.b + x) else 0) ∧
        ∀ y, (∀ r x, r ∈ groupRows (tRows a.b) q → x < tPr a.b → y ≠ o + r * tPr a.b + x) →
          (s'.cluster a.clu).bstore.read y = (s.cluster a.clu).bstore.read y) ∧
    (∀ val : Nat → Nat → FV × Bool, a.clu < 72 → (s.cluster a.clu).acc.wf = true →
      (∀ r ∈ groupRows (tRows a.b) q, ∀ c < tCols a.b, elemReads s a (r, c) (val r c)) →
      scRow sc + tRows a.b ≤ 256 → scCol sc + tCols a.b ≤ 256 →
        ∃ f s', s.accldPass a sc q = (.ok f, s') ∧ s.sameMemory s' ∧
          ∀ t r k : Nat, t < 8 → r < 256 → k < 256 → (s'.cluster a.clu).accAt t r k =
            if t = scAcc sc ∧ (∃ i ∈ groupRows (tRows a.b) q, r = scRow sc + i) ∧ scCol sc ≤ k ∧ k < scCol sc + tCols a.b then
              round32 (val (r - scRow sc) (k - scCol sc)).1
            else (s.cluster a.clu).accAt t r k) ∧
    (∀ fmt : Word, inSpad s a → tType a.b = 9 → (s.gang a.gang).live = [] → (s.cluster a.clu).acc.wf = true →
      scRow sc + tRows a.b ≤ 256 → scCol sc + tCols a.b ≤ 256 →
        ∃ s', s.accstPass a sc fmt q = (.ok 0, s') ∧
          (∀ r ∈ groupRows (tRows a.b) q, ∀ k < tCols a.b,
            BitVec.ofNat 32 (leNat ((s'.gang a.gang).spad.readN ((tBase a.b).toNat + r * tRstride a.b + 4 * k) 4)) =
              (s.cluster a.clu).accAt (scAcc sc) (scRow sc + r) (scCol sc + k)) ∧
          (∀ y, (∀ r ∈ groupRows (tRows a.b) q, ∀ k < 4 * tCols a.b, y ≠ (tBase a.b).toNat + r * tRstride a.b + k) →
            (s'.gang a.gang).spad.read y = (s.gang a.gang).spad.read y) ∧
          ∀ t r k : Nat, t < 8 → r < 256 → k < 256 → (s'.cluster a.clu).accAt t r k =
            if scBit sc = true ∧ t = scAcc sc ∧ (∃ i ∈ groupRows (tRows a.b) q, r = scRow sc + i) ∧ scCol sc ≤ k ∧
              k < scCol sc + tCols a.b then 0 else (s.cluster a.clu).accAt t r k) ∧
    (∀ (fmt : Word) (val : Nat → Nat → FV × Bool), inSpad s b → tType b.b ∈ [0, 1] → tAxis b.b = 0 → tCols b.b % 32 = 0 →
      tCols a.b = tCols b.b → tRows a.b = tRows b.b → (s.gang b.gang).live = [] → tCols b.b / 32 ≤ tSstride b.b →
      (tBase b.b).toNat + tRows b.b * tRstride b.b ≤ (tSbase b.b).toNat →
      (tSbase b.b).toNat + tRows b.b * tSstride b.b ≤ s.spadBytes b.gang →
      (∀ r ∈ groupRows (tRows a.b) q, ∀ c < tCols a.b, elemReads s a (r, c) (val r c)) →
        ∃ f s', s.mxreqPass a b fmt q = (.ok f, s') ∧ ∀ r ∈ groupRows (tRows b.b) q, ∀ k < tCols b.b / 32,
          let z := engineQuantise (tType b.b) (bitsOf fmt.toNat 5 3) ((List.range 32).map (fun i => (val r (32 * k + i)).1))
          (s'.gang b.gang).spad.read ((tSbase b.b).toNat + r * tSstride b.b + k) = BitVec.ofNat 8 z.1 ∧
          ∀ i < 32, (s'.gang b.gang).spad.read ((tBase b.b).toNat + r * tRstride b.b + 32 * k + i) =
            BitVec.ofNat 8 ((z.2[i]?).getD 0))

namespace Sys2Proof.Claims

/-- The canonical order of a steep's records: by the offset of LSEQ, then TID, SSEQ and lane, unsigned (13/R352). -/
def canonical (oldest : Word) (x y : SRec) : Prop :=
  let key (r : SRec) : List Nat := [(r.lseq - oldest).toNat, r.tid.toNat, r.sseq.toNat, r.lane]
  key x < key y

/-- The records of an apply as it works on them: once it has begun, as they stand; before, in canonical order. -/
def inOrder (a : Apply) (l : List SRec) : Prop :=
  a.begun = true ∧ l = a.recs ∨ a.begun = false ∧ l.Perm a.recs ∧ l.Pairwise (canonical a.oldest)

/-- An apply may go on: it has begun, or no walk and no soft load that has read a part of its slots excludes it (10/R280,
13/R355). -/
def mayApply (s : State) (S : CaddySet) (set k : Nat) (a : Apply) : Prop :=
  a.begun = true ∨ walkedOver S.caddies k = false ∧ s.softPartly set k = false

/-- Team `tid` of launch `l` is a current member of a caddy's circle, in a live launch that shares the caddy (13/R351). -/
def shares (s : State) (S : CaddySet) (circle : Nat) (q : Nat × Nat) : Prop :=
  q.1 ∈ S.launches ∧ (s.launch q.1).phase ≠ .complete ∧ ∃ z, (s.launch q.1).circles[circle]? = some z ∧ q.2 ∈ z.members

/-- The value that an apply writes to a slot element that holds `old` (13/R352). -/
def blended (c : Caddy) (r : SRec) (e d : Nat) (old : List Byte) : Word :=
  let y := fmtF32.decode ((r.x[d]?).getD 0).toNat
  let by_ := if c.accum then y else fmtF32.decode (round32 (addFV 0 y (fmtF32.decode (neg32 (leNat old)))).1).toNat
  round32 (fmaFV 0 (fmtF32.decode ((r.ents[e]?).getD (0, 0)).2.toNat) by_ (fmtF32.decode (leNat old))).1

/-- The address of the slot element that entry `e`, element `d` of a record names. -/
def blendAt (c : Caddy) (r : SRec) (e d : Nat) : DWord :=
  c.base + BitVec.ofNat 64 (4 * (c.d * ((r.ents[e]?).getD (0, 0)).1.toNat + d))

end Sys2Proof.Claims

/-- 13/R350 to R355: a record that arrives at the open steep is written to the next place of its segment and counted; beyond
the segment's size it is only counted, and marks the steep OVERFLOW; while the blend unit is held it waits. A close adds its team
to the closers; when the members of the caddy's circle over the live sharing launches lie within them, the open steep closes: it
waits for its apply, behind those that closed before it, and the next number opens, empty. An apply, which takes its records in
canonical order from its beginning on, reads in one step the slot element that comes next, keeps it as the pre-image and writes
the blended value (the second part of that clause gives it where the element's page is cached and lies in HBM4E); a steep with
the OVERFLOW or FAULT mark, or without records, changes no slot, for the writing of its segment header alone changes memory: its
number advances and the next closed steep is to be applied; so it does after a hold that is resolved FAIL; a hold without a
resolution, and, before the apply has begun, a walk or a soft load under way, keep it waiting. That an apply steps element by
element, with accesses between that no rule excludes, is 10/R280's; that a step waits while an entry that arrived earlier at the
line stands before it is read from 10/R266 and R267. -/
def Obligations.BlendUnit : Prop :=
  ∀ (s : State) (set k : Nat) (S : CaddySet) (c : Caddy), k < 64 → s.caddySets[set]? = some S → S.caddies[k]? = some c →
    (∀ (n : Nat) (e : Entry) (home : Nat) (r : SRec), s.headOf n = some e → e.dest = .home home → e.op = .record set k r →
      c.made = true → c.overflow = false →
      s.crossHeld S.part (fun z => (z.arriveRecord set k r).getD z) = false →
      let became (s' : State) (c' : Caddy) : Prop := ∃ S', exec (.deliver n) s = .next s' ∧ s'.caddySets[set]? = some S' ∧
        S'.caddies[k]? = some c' ∧ s'.fwd = s.fwd.filter (·.id != e.id) ∧ s'.teams = s.teams
      (∀ s1, c.count < c.segMax → c.fault = none → c.hold = none → c.holdOpen = false → c.opened = true →
        s.unitWrite S.part none c.home (caddySrc set k) (c.recAddr c.openSteep c.recs.length) (r.bytes c []) none = (.ok (), s1) →
        s1.fwd = s.fwd →
          ∃ s', became s' { c with recs := c.recs ++ [r], count := c.count + 1 } ∧ s'.mem = s1.mem) ∧
      (c.segMax ≤ c.count → s.recordHeld set k = false →
        ∃ s', became s' { c with count := c.count + 1, overflow := true } ∧ s'.mem = s.mem) ∧
      (∀ h, c.count < c.segMax → c.fault = none → c.hold = some h → h.res = none → exec (.deliver n) s = .next s)) ∧
    (∀ (n : Nat) (e : Entry) (home l tid : Nat), s.headOf n = some e → e.dest = .home home → e.op = .close set k l tid →
      (c.apply = none → c.later = []) →
      let closed (q : Nat × Nat) : Prop := q ∈ c.closers ∨ q = (l, tid)
      let z : Apply := ⟨c.openSteep, c.recs, false, c.count, c.overflow, c.fault, c.oldest, [], 0, false⟩
      ∃ s' S' c', exec (.deliver n) s = .next s' ∧ s'.caddySets[set]? = some S' ∧ S'.caddies[k]? = some c' ∧
        s'.teams = s.teams ∧ c'.steep = c.steep ∧
        (S.created = true → (∃ q, shares s S c.circle q) → (∀ q, shares s S c.circle q → closed q) →
          c'.openSteep = c.openSteep + 1 ∧ c'.closers = [] ∧ c'.recs = [] ∧ c'.count = 0 ∧ c'.overflow = false ∧
          (c'.fault = none ∨ c'.opened = false) ∧
          (c.apply = none → c'.apply = some z ∧ c'.later = []) ∧
          ∀ a, c.apply = some a → c'.apply = some a ∧ c'.later = c.later ++ [z]) ∧
        ((∀ q, ¬ shares s S c.circle q) ∨ (∃ q, shares s S c.circle q ∧ ¬ closed q) →
          c'.openSteep = c.openSteep ∧ c'.apply = c.apply ∧ c'.later = c.later ∧ c'.recs = c.recs ∧ c'.count = c.count ∧
            ∀ q, q ∈ c'.closers ↔ closed q)) ∧
    (∀ (a : Apply) (l : List SRec) (r : SRec) (e d : Nat), c.apply = some a → c.hold = none → c.holdOpen = false →
      a.overflow = false → a.fault = none → a.headerDue = false → s.choice = 1 → inOrder a l → mayApply s S set k a →
      applyAt c.d l a.pos = some (r, e, d) →
      let va := blendAt c r e d
      let begun : Apply := { a with begun := true, recs := l }
      let s0 := s.modCaddy set k (fun c => { c with apply := some begun })
      s0.lineHeld (fun z => (z.applyOne set k S.part c begun (r, e, d)).1) = false →
      let stepped (s' : State) (old : List Byte) : Prop := ∃ S' c', exec (.steepApply (64 * set + k)) s = .next s' ∧
        s'.caddySets[set]? = some S' ∧ S'.caddies[k]? = some c' ∧ c'.steep = c.steep ∧ c'.apply =
          some { begun with pre := a.pre ++ [BitVec.ofNat 32 (leNat old)], pos := a.pos + 1 }
      (∀ (old : List Byte) (s1 s2 : State), s0.unitRead S.part none c.home va 4 none = (.ok old, s1) →
        s1.unitWrite S.part none c.home (caddySrc set k) va (leBytes 4 (blended c r e d old).toNat) none = (.ok (), s2) →
          ∃ s', stepped s' old ∧ s'.mem = s2.mem ∧ s'.teams = s2.teams) ∧
      (∀ t : Tlb, findTlb (s.die c.home).l2 S.part va = some t → t.permits { r := true } = true → t.permits { w := true } = true →
        t.replica = false → t.away = false → va.toNat % 4 = 0 → t.pa va < infoBase → s.badMem (t.pa va) 4 = none →
        s.mem.wf = true →
          let old := s.readPhys S.part (t.pa va) 4
          ∃ s', stepped s' old ∧ storedAt s s' (.home 0) (t.pa va) (leBytes 4 (blended c r e d old).toNat) ∧
            s'.teams = s.teams)) ∧
    (∀ (a : Apply) (l : List SRec), c.apply = some a → c.holdOpen = false →
      let begun : Apply := { a with begun := true, recs := l }
      let s0 := s.modCaddy set k (fun c => { c with apply := some begun })
      let ends (fault : Option Cause) : Prop :=
        let header (z : State) : UOut Unit × State := z.unitWrite S.part none c.home (caddySrc set k) (c.segAddr a.steep)
          (segHeader a.steep a.count true (fault.map causeCode) a.overflow) none
        s0.lineHeld (fun z => (header z).2) = false →
        (∀ x res va s1, header s0 = (.fail x res va, s1) → s1.blendHolds S.part res = false) →
          ∃ s' S' c', exec (.steepApply (64 * set + k)) s = .next s' ∧ s'.caddySets[set]? = some S' ∧
            S'.caddies[k]? = some c' ∧ c'.steep = c.steep + 1 ∧ c'.apply = c.later.head? ∧ c'.later = c.later.tail ∧
            s'.teams = s.teams ∧ s'.mem = (header s0).2.mem
      (mayApply s S set k a → inOrder a l → (∃ l ∈ S.launches, (s.launch l).phase ≠ .complete) → a.headerDue = false →
        (c.hold = none → a.overflow = true ∨ a.fault.isSome = true ∨ a.recs = [] → ends a.fault) ∧
        (∀ h, c.hold = some h → h.res = some .fail → ends (some h.cause))) ∧
      (∀ h, c.hold = some h → h.res = none → ∃ s' S' c', exec (.steepApply (64 * set + k)) s = .next s' ∧
        s'.caddySets[set]? = some S' ∧ S'.caddies[k]? = some c' ∧ c'.steep = c.steep ∧ s.sameMemory s' ∧ s'.teams = s.teams) ∧
      (¬ mayApply s S set k a → exec (.steepApply (64 * set + k)) s = .next s))

/-- 15/R393 to R395: the entry of an S-stream that a resolvable fault holds goes to the ring's tail with the fields of R394,
the tail rises, the entry is open under its sequence number, and in host mode a vector is raised; a full ring takes none, and it
waits too while its transfer may not cross; a hold that still waits to be posted when the queue is off is resolved FAIL (this
last is the model's reading, log entry 32). -/
def Obligations.FaultQueueEvents : Prop :=
  ∀ (s : State) (p n t : Nat) (T : Team) (h : Hold), p < 8 → (s.pendingHolds p)[n]? = some (.s t, h) →
    s.teams[t]? = some T → T.shold = some h →
    let P := s.part p
    let d := P.place (P.fq.base.toNat + 64 * (P.fq.tail.toNat % 2 ^ P.fq.log)) 64
    (P.fq.on = true → P.fq.full = false → s.pcieHeld p d.1 = false → isPlace s d.1 → (memAt s d.1).wf = true →
      ∃ s' U, exec (.faultQueuePost p n) s = .next s' ∧ s'.teams[t]? = some U ∧ s.sameOthers s' t ∧
        U.shold = some { h with seq := some P.fq.tail } ∧ U.spc = T.spc ∧ U.s = T.s ∧
        (s'.part p).fq.tail = P.fq.tail + 1 ∧ (s'.part p).fqOpen = P.fqOpen ++ [⟨P.fq.tail, .s t, P.fqGen⟩] ∧
        s'.irqs = (if P.fq.ctl.getLsbD 30 then [] else [4 * p + 1]) ++ s.irqs ∧
        storedAt s s' d.1 d.2 (leBytes 4 (2 ^ 24 + causeCode h.cause * 2 ^ 8) ++ leBytes 4 T.tid ++
          w32le (s.launch T.launch).lseq ++ leBytes 4 0 ++ w64le h.addr ++ w64le T.spc ++
          leBytes 8 ((if h.write then 1 else 0) + (if h.exec then 2 else 0)) ++ leBytes 8 0 ++ leBytes 8 0 ++
          w32le P.fq.tail ++ leBytes 4 0)) ∧
    (P.fq.on = true → P.fq.full = true ∨ s.pcieHeld p d.1 = true → exec (.faultQueuePost p n) s = .next s) ∧
    (P.fq.on = false → ∃ s' U, exec (.faultQueuePost p n) s = .next s' ∧ s'.teams[t]? = some U ∧
      U.shold = some { h with res := some .fail } ∧ s.sameOthers s' t ∧ s.sameMemory s')

namespace Sys2Proof.Claims

/-! ## Sweeps and context images (15/R390, R405, R407, 16/R421, 11/R308) -/

/-- A cached translation that a sweep covers: of its partition, and of its page unless it sweeps everything. -/
def swept (w : Sweep) (p : Nat) (t : Tlb) : Prop :=
  t.part = p ∧ (w.va = 0 ∨ t.vbase ≤ w.va.toNat ∧ w.va.toNat < t.vbase + t.size)

/-- Of a list of translations, those that a sweep does not cover. -/
def unswept (w : Sweep) (p : Nat) (l l' : List Tlb) : Prop := ∀ t, t ∈ l' ↔ t ∈ l ∧ ¬ swept w p t

end Sys2Proof.Claims

/-- 15/R390, R391, R405, R407, 16/R421, 11/R308: once no access that it waits for first is left, a sweep removes what it covers
from every translation cache, and keeps everything else; it ends once no access that may have used one of them is left. A halted
gang whose streams rest and whose jobs, chains and accesses have come to an end is written where its image fits, is saved with its
jobs and engine state, and gives up its slots, its engine and its channels; one that a team waits for lets it go on; a gang whose
image does not fit runs on. A quarantined allocation is released once no chain of its gang, no pass of a removed gang's job and no
accepted access to its banks is left. What a sweep waits for (every access within the same 1 GiB, and before the removal the
stores of its team) is the model's reading (log entry 30), and so is that the size is compared before the gang's held records and
jobs fail, and that a gang whose image does not fit runs on (log entry 109). -/
def Obligations.ContextAndSweeps : Prop :=
  ∀ (s : State),
    (∀ (p n : Nat) (w : Sweep), p < 8 → (s.part p).sweeps[n]? = some w →
      (w.removed = false → w.waits.any s.isOut = true → exec (.sweepComplete p n) s = .next s) ∧
      (w.removed = false → w.waits.any s.isOut = false → ∃ s' ids, exec (.sweepComplete p n) s = .next s' ∧
        (s'.part p).sweeps[n]? = some { w with removed := true, waits := ids } ∧
        (∀ e ∈ s.flight, e.part = p → (∃ d, e.dest = .home d) ∨ e.dest = .host ∨ (∃ q l, e.dest = .peer q l) →
          w.va = 0 ∨ e.va.toNat / 2 ^ 30 = w.va.toNat / 2 ^ 30 → e.id ∈ ids) ∧
        (∀ k < 288, unswept w p (s.core k).l1 (s'.core k).l1) ∧ (∀ d < 8, unswept w p (s.die d).l2 (s'.die d).l2) ∧
        (∀ t : Nat, unswept w p ((s.team t).lastPage.map (·.2)) ((s'.team t).lastPage.map (·.2))) ∧
        (∀ t < s.teams.length, s.partOf t = p → (s'.team t).early = []) ∧ (∀ x, x ∈ s'.walks ↔ x ∈ s.walks ∧ x.part ≠ p) ∧
        s.sameMemory s') ∧
      (w.removed = true → w.waits.any s.isOut = false → ∃ s', exec (.sweepComplete p n) s = .next s' ∧
        (s'.part p).sweeps = (s.part p).sweeps.take n ++ (s.part p).sweeps.drop (n + 1) ∧ s'.teams = s.teams ∧ s.sameMemory s') ∧
      (w.removed = true → w.waits.any s.isOut = true → exec (.sweepComplete p n) s = .next s)) ∧
    (∀ (g : Nat) (G : Gang) (loc : ImageLoc), s.gangs[g]? = some G → G.phase = .halting → G.image = some loc → G.cluster < 72 →
      (s.streamsRest g = false → exec (.contextImageWrite g) s = .next s) ∧
      (s.streamsRest g = true →
      let img := s.imageBytes g (if loc.software then 1 else 0) loc.reason
      let goesOn (s' : State) : Prop := ∀ (w : Nat) (T : Team), loc.waiter = some w → s.teams[w]? = some T → T.wait = .ctx g →
        ∃ U, s'.teams[w]? = some U ∧ U.wait = .ctxDone ∧ U.spc = T.spc ∧ U.s = T.s
      (s.lastSize g ≤ loc.room → (∀ x ∈ s.chainsOf g, ∀ r ∈ x.2.recs, r.live = false ∧ r.hold = none) → s.heldJob g = none →
        s.imageReady g = true → s.lineHeld (fun z => z.writeImage g loc img) = false →
        ∃ s' G', exec (.contextImageWrite g) s = .next s' ∧ s'.gangs[g]? = some G' ∧ G'.phase = .saved ∧
          G'.image = some { loc with waiter := none } ∧
          G'.engine = (if (s.cluster G.cluster).holder = some g then
            some ((s.cluster G.cluster).acc, (s.cluster G.cluster).bstore) else G.engine) ∧
          G'.jobs = (s.cluster G.cluster).jobs.filter (fun j => j.gang == g) ∧
          (s'.cluster G.cluster).holder ≠ some g ∧ (∀ j ∈ (s'.cluster G.cluster).jobs, j.gang ≠ g) ∧
          (∀ l ∈ (s'.cluster G.cluster).channels.toList, ∀ k ∈ l, k.gang ≠ g) ∧
          (∀ (t : Nat) (U : Team), s'.teams[t]? = some U → U.gang = g → U.resident = false) ∧
          goesOn s' ∧ (loc.waiter = none → loc.software = false →
            s'.mem = (s.writeLines G.part (dieOfCluster G.cluster) loc.addr (img.length / 64 + 1) img).mem)) ∧
      (loc.room < s.lastSize g → loc.reason ≠ 2 → G.killed = false →
        ∃ s' G', exec (.contextImageWrite g) s = .next s' ∧ s'.gangs[g]? = some G' ∧ G'.phase = .resident ∧ G'.image = none ∧
          G'.spad = G.spad ∧ G'.teams = G.teams ∧ goesOn s'))) ∧
    (∀ c n g u : Nat, c < 72 → (s.cluster c).quarantine[n]? = some (g, u) →
      let passes : Prop := (s.gang g).phase = .removed ∧ ∃ j ∈ (s.cluster c).jobs, j.gang = g
      ((∀ l ∈ (s.cluster c).channels.toList, ∀ k ∈ l, k.gang ≠ g) → ¬ passes → (∀ e ∈ s.arr, e.dest ≠ .bank g) →
        ∃ s', exec (.quarantineRelease c n) s = .next s' ∧
          (s'.cluster c).quarantine = (s.cluster c).quarantine.take n ++ (s.cluster c).quarantine.drop (n + 1) ∧
          ((s.gang g).phase = .retired ∨ (s.gang g).phase = .removed → (s'.gang g).spad = []) ∧ s'.teams = s.teams ∧ s'.mem = s.mem) ∧
      ((∃ l ∈ (s.cluster c).channels.toList, ∃ k ∈ l, k.gang = g) ∨ passes ∨ (∃ e ∈ s.arr, e.dest = .bank g) →
        exec (.quarantineRelease c n) s = .next s))

namespace Sys2Proof.Claims

/-! ## The distributor (17/R433 to R447) -/

/-- A launch of a partition has a gang to place (17/R437, R442). -/
def hasGangs (L : Launch) (p : Nat) : Prop :=
  L.part = p ∧ (L.phase = .ready ∨ L.phase = .dealt) ∧ (L.resumed ≠ [] ∨ L.nextGang < L.desc.gangs)

/-- Launch `l` is the one that its distributor deals: no other with a gang to place has a higher PRIO, or the same and was
accepted before. -/
def dealt (s : State) (p l : Nat) (L : Launch) : Prop :=
  s.launches[l]? = some L ∧ hasGangs L p ∧
    ∀ (m : Nat) (M : Launch), s.launches[m]? = some M → hasGangs M p → M.desc.prio < L.desc.prio ∨ M.desc.prio = L.desc.prio ∧ l ≤ m

/-- A cluster has room for the next gang of a launch: SPAN cores that fit, and its scratchpad units. -/
def hasRoom (s : State) (l : Nat) (L : Launch) (clu : Nat) : Prop :=
  L.desc.span ≤ (s.coresFor L.desc (s.nextN l) clu).length ∧ (L.desc.spad = 0 ∨ L.desc.spad ≤ s.unitsAt clu)

/-- Something of a launch is still to be performed at system scope or to end (10/R282): an access of one of its teams, a chain
or a job of one, or the apply of a steep that holds a record of it. -/
def unfinished (s : State) (l : Nat) : Prop :=
  (∃ e ∈ s.flight, ∃ t, e.team = some t ∧ (s.team t).launch = l ∧ e.counts 4 = true) ∨
    (∃ (c : Nat) (q : List Chain) (k : Chain), c < 72 ∧ q ∈ (s.cluster c).channels.toList ∧ k ∈ q ∧ (s.team k.team).launch = l) ∨
    (∃ (c : Nat) (j : Job) (m : JMember), c < 72 ∧ j ∈ (s.cluster c).jobs ∧ m ∈ j.members ∧ (s.team m.team).launch = l) ∨
    ∃ (set : Nat) (c : Caddy) (a : Apply) (r : SRec), (s.launch l).caddySet = some set ∧ c ∈ s.caddies set ∧ c.apply = some a ∧
      r ∈ a.recs ∧ r.lseq = (s.launch l).lseq

/-- The next submission ring in rotation with an entry (17/R434). -/
def nextRing (P : Part) (q : Nat) : Prop :=
  ∃ k < 64, q = (P.rotation + k) % 64 ∧ (vget P.rings q).published = true ∧
    ∀ j < k, (vget P.rings ((P.rotation + j) % 64)).published = false

end Sys2Proof.Claims

/-- 17/R433 to R437, R440 to R442, R445, 18/R458: a die's report is what is free on it; a round of the first-accepted launch of the
highest PRIO places its next gang on the first cluster, when that has room, with its teams at their start values; without
room and without a gang of lower PRIO it changes nothing; a saved gang that is to be resumed comes before those never placed, with
its teams, chains and jobs as its image gives them; a submission is taken from the next ring in rotation, and a malformed
one completes with status MALFORMED; a completion is written to the ring with its phase bit, and raises its vector, once every
write of its launch has been performed; a budget period begins with counters of 0. That a gang whose image cannot be read is
resumed with the values that it was saved with is the model's choice (log entry 53), and so is that its jobs return whatever the
reservation table holds (log entry 110); TIME of a completion record is that at which the launch completed, and the record waits
for every write of its launch at system scope, as the model reads 17/R439 (log entry 57). Pre-emption for a launch of higher priority (17/R443) is not stated here. -/
def Obligations.Distributor : Prop :=
  ∀ (s : State) (p : Nat), p < 8 →
    (∀ d < 8, ∃ s', exec (.dieReport d) s = .next s' ∧ s'.teams = s.teams ∧ s'.gangs = s.gangs ∧ s.sameMemory s' ∧
      (∀ c < 288, (s'.core c).l1 = (s.core c).l1 ∧ ((s'.core c).freeSlots, (s'.core c).freeRows) =
        if dieOfCore c = d then (s.freeSlots c, s.freeRows c) else ((s.core c).freeSlots, (s.core c).freeRows)) ∧
      ∀ c < 72, (s'.cluster c).freeUnits = if dieOfCluster c = d then s.freeUnits c else (s.cluster c).freeUnits) ∧
    (∀ (l clu : Nat) (L : Launch) (rest : List Nat), (s.part p).state = .ready → dealt s p l L → L.resumed = [] → 0 < L.desc.span →
      s.clustersOf p = clu :: rest → hasRoom s l L clu →
        let cores := (s.coresFor L.desc L.desc.n0 clu).take L.desc.span
        ∃ s' G, exec (.dealRound p) s = .next s' ∧ s'.gangs[s.gangs.length]? = some G ∧ G.part = p ∧ G.launch = l ∧
          G.num = L.nextGang ∧ G.phase = .resident ∧ G.cluster = clu ∧ G.cores = cores ∧ (s'.launch l).nextGang > L.nextGang ∧
          ∀ r < L.desc.gsize, s'.teams[s.teams.length + r]? = some (Team.start l s.gangs.length (L.nextGang * L.desc.gsize + r) r
            (coreOfRank cores r) L.desc)) ∧
    (∀ (l clu g : Nat) (L : Launch) (rest wait : List Nat) (G : Gang), (s.part p).state = .ready → dealt s p l L →
      L.resumed = g :: wait → 0 < L.desc.span → s.clustersOf p = clu :: rest → hasRoom s l L clu → s.gangs[g]? = some G →
      G.phase = .saved → G.launch = l → G.unhandled = none →
        let cores := (s.coresFor L.desc (s.nextN l) clu).take L.desc.span
        let s1 : State := match s.imageOf g with
          | some img => s.loadImage g img
          | none => s
        (s1.gang g).killed = false →
        ∃ s' G', exec (.dealRound p) s = .next s' ∧ s'.gangs[g]? = some G' ∧ G'.phase = .resident ∧ G'.cluster = clu ∧
          G'.cores = cores ∧ G'.image = none ∧
          (∀ (t : Nat) (T : Team), s1.teams[t]? = some T → T.gang = g → T.phase ≠ .ended → ∃ U, s'.teams[t]? = some U ∧
            U.resident = true ∧ U.core = coreOfRank cores T.rank ∧ U.spc = T.spc ∧ U.s = T.s ∧ U.regs = T.regs ∧
            U.phase = T.phase) ∧
          (∀ x ∈ (s1.gang g).chains, x.1 < 8 → clu < 72 → x.2.gang = g → x.2 ∈ s'.chan clu x.1) ∧
          ((∀ j ∈ (s1.gang g).jobs, j.unread = []) → ∀ j ∈ (s1.gang g).jobs, clu < 72 → j.gang = g → j ∈ (s'.cluster clu).jobs)) ∧
    (∀ (l : Nat) (L : Launch), (s.part p).state = .ready → dealt s p l L → (∀ clu ∈ s.clustersOf p, ¬ hasRoom s l L clu) →
      (∀ G ∈ s.gangs, G.phase = .resident → L.desc.prio ≤ (s.launch G.launch).desc.prio) → exec (.dealRound p) s = .next s) ∧
    (∀ q : Nat, (s.part p).state = .ready → (s.part p).evbase.isSome → s.linkShut p = false → s.destroying p = false →
      (s.part p).taking = none →
      nextRing (s.part p) q →
      let r := vget (s.part p).rings q
      let bs := s.hostMem.readN (r.base.toNat + 128 * (r.head.toNat % 2 ^ r.log)) 128
      ∃ s', exec (.launchAccept p) s = .next s' ∧ (vget (s'.part p).rings q).head = r.head + 1 ∧
        (s'.part p).rotation = (q + 1) % 64 ∧ s'.teams = s.teams ∧ s'.hostMem = s.hostMem ∧
        (descMalformed bs = true → s'.launches = s.launches ∧ (s'.part p).compWait = (s.part p).compWait ++
          [{ lseq := 0xFFFFFFFF, tag := wordAt bs 0x2C, status := 1, queue := q, done := none, launch := none, time := s.time }]) ∧
        (descMalformed bs = false → (Desc.ofBytes bs).caddies = 0 →
          (s'.part p).lseqNext = (s.part p).lseqNext + 1 ∧ ∃ L, s'.launches = s.launches ++ [L] ∧ L.part = p ∧
            L.desc = Desc.ofBytes bs ∧ L.lseq = (s.part p).lseqNext ∧ L.queue = q ∧ L.nextGang = 0 ∧ L.resumed = [] ∧
            (L.phase = .ready ∨ L.phase = .waiting) ∧
            (L.phase = .ready ↔ ∀ n : BitVec 24, some n ∈ L.desc.deps → n.toNat ∈ (s.part p).events))) ∧
    (∀ (c : Completion) (r : List Completion), (s.part p).compWait = c :: r → (s.part p).state ≠ .absent →
      (s.part p).comp.on = true → (s.part p).comp.full = false → s.linkShut p = false → s.hostMem.wf = true →
      ((∃ l, c.launch = some l ∧ unfinished s l) → exec (.completionRecord p) s = .next s) ∧
      ((∀ l, c.launch = some l → s.writesDone l = true) →
        let R := (s.part p).comp
        let rec_ := w32le c.lseq ++ w32le c.tag ++ leBytes 4 ((if R.tail.toNat / 2 ^ R.log % 2 = 0 then 2 ^ 31 else 0) +
          c.status * 2 ^ 16 + c.queue * 2 ^ 8) ++ leBytes 4 0 ++ w64le c.time ++ leBytes 8 0
        let a := R.base.toNat + 32 * (R.tail.toNat % 2 ^ R.log)
        ∃ s', exec (.completionRecord p) s = .next s' ∧ (s'.part p).compWait = r ∧ (s'.part p).comp.tail = R.tail + 1 ∧
          s'.irqs = 4 * p :: s.irqs ∧ s'.teams = s.teams ∧
          (∀ x, s'.hostMem.read x = if a ≤ x ∧ x < a + 32 then (rec_[x - a]?).getD 0 else s.hostMem.read x) ∧
          (∀ n : BitVec 24, c.done = some n → (s.part p).evbase.isSome → n.toNat ∈ (s'.part p).events) ∧
          (c.done = none → s'.mem = s.mem))) ∧
    (s.period < s.time.toNat / 10000 → (∀ q < 8, (s.part q).elWait = [] ∧ (s.part q).doneWait = []) → ∃ s', exec .budgetPeriod s = .next s' ∧ s'.period = s.time.toNat / 10000 ∧
      s'.teams = s.teams ∧ s.sameMemory s' ∧
      ((s.part p).state ≠ .absent → ∀ k < 6, vget (s'.part p).budgets k =
        { vget (s.part p).budgets k with used := 0, floor := (vget (s.part p).budgets k).nextFloor,
                                         ceil := (vget (s.part p).budgets k).nextCeil })) ∧
    (s.time.toNat / 10000 ≤ s.period → exec .budgetPeriod s = .next s)

namespace Sys2Proof.Claims

/-! ## The host's registers (17/R440, R447, 18/R449, R457) -/

/-- The next state has partition `p` as a function gives it, and nothing else changed. -/
def partOnly (o : Host.Outcome State Fault Refusal) (s : State) (p : Nat) (P : Part) : Prop :=
  o = .next (s.modPart p (fun _ => P))

/-- Whether a control value of a ring in host memory is taken (18/R457): reserved bits zero, LOG2N unchanged while EN is 1, and EN set
only with LOG2N from 4 to 16 and an aligned base. -/
def ctlTaken (r : Ring) (size : Nat) (x : Word) : Prop :=
  bitsOf x.toNat 30 5 = 0 ∧ (r.on = true → bitsOf x.toNat 4 0 = r.log) ∧
    (x.getLsbD 31 = true → 4 ≤ bitsOf x.toNat 4 0 ∧ bitsOf x.toNat 4 0 ≤ 16 ∧
      r.base.toNat % (size * 2 ^ bitsOf x.toNat 4 0) = 0)

/-- The ring after it: setting EN makes head and tail 0. -/
def ctlRing (r : Ring) (x : Word) : Ring :=
  if x.getLsbD 31 ∧ r.on = false then { r with ctl := x, head := 0, tail := 0 } else { r with ctl := x }

/-- The bitmap byte of event `n` shows the events of its byte (17/R438). -/
def eventShown (m : Memory) (base : DWord) (events : List Nat) (n : Nat) : Prop :=
  ∀ k < 8, (m.read (base.toNat + n / 8)).getLsbD k = decide (n / 8 * 8 + k ∈ events)

end Sys2Proof.Claims

/-- 17/R437, R438, R440, R447, 18/R449, R457, 15/R387: what a host write to a present partition's window does: EVBASE is taken once and
clears the bitmap; EVSET and EVCLR set and clear an event and its bit, and a signal readies the launches that waited for it;
WDTAG withdraws by tag; FQDONE resolves the open entry of its SEQ, when its transfer may
cross, and else waits; tails and controls of rings; BSTAT clears bits of EVER; FLOOR and
CEIL count from the next period, within the fuse limit, and Cratal never lowers a CEIL of ISSUE or MATRIX below its FLOOR; an
absent partition's window ignores every write; a read of MSTATUS clears WDRESET, and raises vector 32 when it was 1. Of these, the
model's own readings are that an EVBASE that is misaligned or lies outside the partition's dies is ignored (log entry 56), that
EVER may be cleared while its budget is still spent (log entry 58), and that of several open entries with one SEQ, which an
enabling of the queue anew can make, FQDONE takes the newest (log entry 129). -/
def Obligations.HostRegisters : Prop :=
  ∀ (s : State) (p : Nat), p < 8 →
    let P := s.part p
    (P.state = .absent → ∀ (x : DWord) (q k : Nat), ∀ i ∈ ([.evbase p x, .evset p (x.setWidth 32), .evclr p (x.setWidth 32),
      .wdtag p (x.setWidth 32), .fqdone p (x.setWidth 32), .rtail p q (x.setWidth 32), .fqctl p (x.setWidth 32),
      .elctl p (x.setWidth 32), .cctl p (x.setWidth 32), .rctl p q (x.setWidth 32), .bstat p (x.setWidth 32),
      .ceil p k (x.setWidth 32), .registerWrite (some p) q x] : List Instr), exec i s = .next s) ∧
    exec .mstatus s = .next (if s.wdReset then { s with wdReset := false, irqs := 32 :: s.irqs } else s) ∧
    (∀ x : DWord, exec (.registerWrite none 8 x) s = .next { s with cmdAddr := x }) ∧
    (P.state ≠ .absent →
      (∀ x : DWord,
        (P.evbase = none ∧ x.toNat % 0x200000 = 0 ∧ P.inHbm x.toNat 0x200000 = true →
          ∃ s', exec (.evbase p x) s = .next s' ∧ (s'.part p).evbase = some x ∧ (s'.part p).events = [] ∧ s'.teams = s.teams ∧
            ∀ a, (s.mem.wf = true → s'.mem.read a = if x.toNat ≤ a ∧ a < x.toNat + 0x200000 then 0 else s.mem.read a)) ∧
        (P.evbase ≠ none ∨ x.toNat % 0x200000 ≠ 0 ∨ P.inHbm x.toNat 0x200000 = false → exec (.evbase p x) s = .next s)) ∧
      (∀ (x : Word) (b : DWord), x.toNat < 2 ^ 24 → P.evbase = some b → s.mem.wf = true →
        (x.toNat ∉ P.events → ∃ s', exec (.evset p x) s = .next s' ∧ (∀ m, m ∈ (s'.part p).events ↔ m = x.toNat ∨ m ∈ P.events) ∧
          eventShown s'.mem b (s'.part p).events x.toNat ∧ s'.teams = s.teams ∧
          ∀ (l : Nat) (L : Launch), s.launches[l]? = some L → L.part = p → L.phase = .waiting →
            (∀ n : BitVec 24, some n ∈ L.desc.deps → n.toNat ∈ (s'.part p).events) → (s'.launch l).phase = .ready) ∧
        (x.toNat ∈ P.events → ∃ s', exec (.evclr p x) s = .next s' ∧ (∀ m, m ∈ (s'.part p).events ↔ m ≠ x.toNat ∧ m ∈ P.events) ∧
          eventShown s'.mem b (s'.part p).events x.toNat ∧ s'.teams = s.teams ∧ s'.launches = s.launches)) ∧
      (∀ x : Word, ∃ s', exec (.wdtag p x) s = .next s' ∧ s'.teams = s.teams ∧ ∀ (l : Nat) (L : Launch), s.launches[l]? = some L →
        (s'.launch l).phase = if L.part = p ∧ L.desc.tag = x ∧ L.nextGang = 0 then .complete else L.phase) ∧
      (∀ (x : Word) (o : FqOpen), P.doneWait = [] → P.openOf x none = some o → s.fqdoneHeld p x = true →
        partOnly (exec (.fqdone p x) s) s p { P with doneWait := [x] }) ∧
      (∀ (x : Word) (o : FqOpen) (t : Nat) (T : Team) (h : Hold), P.doneWait = [] → P.openOf x none = some o → o.who = .s t →
        s.fqdoneHeld p x = false → (s.gangOf t).phase ≠ .removed → s.teams[t]? = some T → T.shold = some h → h.seq = some x → h.res = none →
          let d := P.place (P.fq.base.toNat + 64 * (x.toNat % 2 ^ P.fq.log)) 64
          let resol := bitsOf (natAt (s.readAt p d.1 d.2 64) 0x0C 4) 1 0
          resol < 2 → ∃ s' U, exec (.fqdone p x) s = .next s' ∧ s'.teams[t]? = some U ∧ s.sameOthers s' t ∧
            U.shold = some { h with res := some (if resol = 0 then .retry else .fail) } ∧
            (∀ q ∈ (s'.part p).fqOpen, q ≠ o) ∧ s.sameMemory s') ∧
      (∀ (q : Nat) (x : Word), q < 64 → partOnly (exec (.rtail p q x) s) s p
        { P with rings := vmod P.rings q (fun r => { r with tail := x }) }) ∧
      (∀ (x : Word) (Q : Part), P.writePriv 0x011 (x.setWidth 64) = .ok Q → partOnly (exec (.fqctl p x) s) s p Q) ∧
      (∀ (x : Word) (Q : Part), P.writePriv 0x019 (x.setWidth 64) = .ok Q → partOnly (exec (.elctl p x) s) s p Q) ∧
      (∀ x : Word, (ctlTaken P.comp 32 x → partOnly (exec (.cctl p x) s) s p { P with comp := ctlRing P.comp x }) ∧
        (¬ ctlTaken P.comp 32 x → exec (.cctl p x) s = .next s)) ∧
      (∀ (q : Nat) (x : Word), q < 64 →
        (ctlTaken (vget P.rings q) 128 x → partOnly (exec (.rctl p q x) s) s p
          { P with rings := vmod P.rings q (fun r => ctlRing r x) }) ∧
        (¬ ctlTaken (vget P.rings q) 128 x → exec (.rctl p q x) s = .next s)) ∧
      (∀ x : Word, partOnly (exec (.bstat p x) s) s p { P with ever := P.ever &&& ~~~(x.extractLsb' 16 6) }) ∧
      (∀ (k : Nat) (x : Word), k < 6 → s.stage = .ready → s.overdue = false → ∃ s', exec (.ceil p k x) s = .next s' ∧ s'.teams = s.teams ∧
        let b := vget P.budgets k
        let low : Prop := k < 2 ∧ x.toNat < b.nextCeil.toNat ∧ (x.toNat < b.floor.toNat ∨ x.toNat < b.nextFloor.toNat)
        (low → vget (s'.part p).budgets k = b) ∧
        (¬ low → vget (s'.part p).budgets k = { b with nextCeil := if b.fuse.toNat < x.toNat then b.fuse else x })) ∧
      (∀ (k : Nat) (x : DWord), k < 6 → ∃ s', exec (.registerWrite (some p) (0x1100 + 16 * k) x) s = .next s' ∧
        vget (s'.part p).budgets k = { vget P.budgets k with
          nextFloor := if (vget P.budgets k).fuse.toNat < (x.setWidth 32).toNat then (vget P.budgets k).fuse else x.setWidth 32 }))

namespace Sys2Proof.Claims

/-! ## Module commands (18/R450 to R456, R460, R463) -/

/-- Cratal holds the block `b` of a command, read at `a`, with an OP, and may execute it. -/
def commands (s : State) (a : Nat) (b : List Byte) (op : Nat) : Prop :=
  s.cmd = some (a, b) ∧ b.length = 256 ∧ s.powered = true ∧ s.stage = .ready ∧ s.thermal = false ∧ s.overdue = false ∧ natAt b 0 4 = op ∧ s.hostMem.wf = true ∧
    ∀ p < 8, (s.part p).state ≠ .absent → s.spent p 5 = false

/-- The command has ended: STATUS is written, DERR is 0 and the doorbell is free. -/
def ran (o : Host.Outcome State Fault Refusal) (s' : State) (a st : Nat) : Prop :=
  o = .next s' ∧ s'.cmd = none ∧ s'.cmdBusy = false ∧ s'.derr = 0 ∧ leNat (s'.hostMem.readN (a + 4) 4) = st

/-- Every command, with its OP. -/
def commandList (ok : Bool) : List (Nat × Instr) :=
  [(1, .pcreate ok), (2, .pdestroy ok), (3, .grant ok), (4, .revoke ok), (5, .kill ok), (6, .save ok), (7, .statesync ok),
   (8, .quote ok), (9, .peerwin ok)]

end Sys2Proof.Claims

/-- 18/R448, R450 to R456, R460, R463, R464, 17/R447: the doorbell's outcomes; an argument byte that must be zero and is not gives
STATUS 1, and a rejected write DERR 3; PCREATE makes a partition of free dies, with everything of it cleared, and STATUS 2 where a
die is taken; PDESTROY removes its gangs, completes its launches and takes no submission more, and once nothing of it is under way
removes it and clears its dies; GRANT adds a window that meets no other; REVOKE takes grants away and waits for a sweep; KILL
removes a gang; SAVE halts one and waits for its image, with a request block that Cratal's fabric reaches; STATESYNC and QUOTE
write their areas, the quote with an RSASSA-PSS signature; PEERWIN sets a port's window. The statement rests on choices of the
model: that a doorbell rung while Cratal is down waits, and that there is no command before READY (log entry 63), the offsets of
the operands of REVOKE and SAVE and the STATUS of a misaligned one (59), that KILL takes a gang that halts and PEERWIN an empty
window (61), the layout of what STATESYNC and QUOTE write (62), what PDESTROY waits for and discards (67), STATUS 4 of a SAVE
whose block Cratal does not reach (111), and, PRESUMED, that the signature is RSASSA-PSS (6). -/
def Obligations.ModuleCommands : Prop :=
  ∀ (s : State) (a : Nat) (b : List Byte),
    (s.cmdBusy = false → s.powered = true → s.stage = .ready → s.thermal = true ∨ s.overdue = true → ∀ r,
      exec (.cmddoor r) s = .next { s with cmdBusy := true, cmdWait := some (s.cmdAddr, r) }) ∧
    (s.cmdBusy = false → s.powered = true → s.stage = .ready → s.thermal = false → s.overdue = false →
      (s.cmdAddr.toNat % 256 ≠ 0 → ∀ r, ∃ s', exec (.cmddoor r) s = .next s' ∧ s'.derr = 1 ∧ s'.irqs = 32 :: s.irqs ∧ s'.cmdBusy = false) ∧
      (s.cmdAddr.toNat % 256 = 0 → ∃ s', exec (.cmddoor .unreadable) s = .next s' ∧ s'.derr = 2 ∧ s'.irqs = 32 :: s.irqs) ∧
      (s.cmdAddr.toNat % 256 = 0 → s.hostMem.wf = true →
        let op := natAt (s.hostMem.readN s.cmdAddr.toNat 256) 0 4
        (op = 0 ∨ 9 < op → (∃ s', ran (exec (.cmddoor .written) s) s' s.cmdAddr.toNat 3 ∧ s'.irqs = s.irqs) ∧
          ∃ s', exec (.cmddoor .rejected) s = .next s' ∧ s'.derr = 3 ∧ s'.cmdBusy = false ∧ s'.irqs = 32 :: s.irqs ∧
            s'.hostMem = s.hostMem) ∧
        (1 ≤ op ∧ op ≤ 9 → ∀ r ∈ [DoorLink.written, .rejected], exec (.cmddoor r) s = .next
          { s with cmdBusy := true, cmd := some (s.cmdAddr.toNat, s.hostMem.readN s.cmdAddr.toNat 256), cmdBegun := false }))) ∧
    (∀ op i, commands s a b op → s.cmdBegun = false → (b[0x7F]?).getD 0 ≠ 0 →
      ((op, i) ∈ commandList true → ∃ s', ran (exec i s) s' a 1 ∧ s'.irqs = s.irqs ∧ s'.teams = s.teams ∧ s'.mem = s.mem) ∧
      ((op, i) ∈ commandList false → ∃ s', exec i s = .next s' ∧ s'.derr = 3 ∧ s'.cmdBusy = false ∧ s'.irqs = 32 :: s.irqs ∧
        s.sameMemory s')) ∧
    (∀ p first count link : Nat, commands s a b 1 → argsOk b [(8, 12)] = true → natAt b 8 4 = p →
      natAt b 0xC 4 = first * 256 + count → natAt b 0x10 4 = link → p < 8 → link < 2 → count ∈ [1, 2, 4, 8] → first % count = 0 →
      first + count ≤ 8 →
        ((s.part p).state = .absent → (∀ d, first ≤ d → d < first + count → s.partOfDie d = none) → s.mem.wf = true →
          ∃ s', ran (exec (.pcreate true) s) s' a 0 ∧ s'.irqs = (4 * p + 3) :: s.irqs ∧ (s'.part p).state = .ready ∧
            (s'.part p).dieFirst = first ∧ (s'.part p).dieCount = count ∧ (s'.part p).link = link ∧ (s'.part p).evbase = none ∧
            (s'.part p).lseqNext = 0 ∧ (s'.part p).fq = .reset ∧ (s'.part p).ptroot = 0 ∧ (s'.part p).grants = [] ∧
            (∀ k < 6, (vget (s'.part p).budgets k).ceil = vget s.fuse (6 * sizeIndex count + k) ∧
              (vget (s'.part p).budgets k).floor = 0) ∧
            (∀ x, s'.mem.read x = if first ≤ homeOf x ∧ homeOf x < first + count then 0 else s.mem.read x)) ∧
        ((s.part p).state ≠ .absent ∨ (∃ d, first ≤ d ∧ d < first + count ∧ s.partOfDie d ≠ none) →
          ∃ s', ran (exec (.pcreate true) s) s' a 2 ∧ s'.parts = s.parts ∧ s'.mem = s.mem)) ∧
    (∀ p : Nat, p < 8 → argPart b = p → (s.part p).state ≠ .absent →
      (commands s a b 2 → argsOk b [(8, 4)] = true →
        let quiet : Prop := (∀ e ∈ s.flight, e.part = p → ∃ q, e.owner = .port q) ∧ ∀ c < 72,
          (s.part p).hasDie (dieOfCluster c) = true → (s.cluster c).jobs = [] ∧ ∀ q ∈ (s.cluster c).channels.toList, q = []
        let recorded : Prop := (s.part p).compWait = [] ∨ (s.part p).comp.on = false ∨ (s.part p).comp.full = true
        (s.cmdBegun = false → ∃ s', exec (.pdestroy true) s = .next s' ∧ s'.cmdBegun = true ∧ s'.cmd = s.cmd ∧
          (s'.part p).fqOpen = [] ∧ (∀ (g : Nat) (G : Gang), s.gangs[g]? = some G → G.part = p → G.phase ≠ .retired → (s'.gang g).phase = .removed) ∧
          ∀ (l : Nat) (L : Launch), s.launches[l]? = some L → L.part = p → (s'.launch l).phase = .complete) ∧
        (s.cmdBegun = true → exec (.launchAccept p) s = .next s ∧
          (quiet → recorded → ∃ s', ran (exec (.pdestroy true) s) s' a 0 ∧ (s'.part p).state = .absent ∧
            (∀ e ∈ s'.flight, e.part ≠ p) ∧ (∀ x, (s.part p).dieFirst ≤ homeOf x →
              homeOf x < (s.part p).dieFirst + (s.part p).dieCount → s'.mem.read x = 0) ∧
            ∀ q < 16, (s.port q).winPart = p → (s'.port q).winSize = 0) ∧
          (¬ (quiet ∧ recorded) → ∃ s', exec (.pdestroy true) s = .next s' ∧ s'.cmd = s.cmd ∧ s'.teams = s.teams ∧
            s.sameMemory s'))) ∧
      (∀ (w h n perm : Nat), commands s a b 3 → argsOk b [(8, 4), (0x10, 0x1C)] = true → natAt b 0x10 8 = w → natAt b 0x18 8 = h →
        natAt b 0x20 8 = n → natAt b 0x28 4 = perm → w % 65536 = 0 → h % 65536 = 0 → n % 65536 = 0 → w + n ≤ hostWindow → perm < 4 →
          ((∀ g ∈ (s.part p).grants, overlaps g.w g.size w n = false) → ∃ s', ran (exec (.grant true) s) s' a 0 ∧
            (s'.part p).grants = (s.part p).grants ++ [⟨w, h, n, perm % 2 = 1, perm / 2 = 1⟩]) ∧
          ((∃ g ∈ (s.part p).grants, overlaps g.w g.size w n = true) → ∃ s', ran (exec (.grant true) s) s' a 1 ∧
            (s'.part p).grants = (s.part p).grants)) ∧
      (commands s a b 4 → argsOk b [(8, 4), (0x10, 8), (0x20, 8)] = true →
        let aligned : Prop := natAt b 0x10 8 % 65536 = 0 ∧ natAt b 0x20 8 % 65536 = 0
        (s.cmdBegun = false → ¬ aligned → ∃ s', ran (exec (.revoke true) s) s' a 1 ∧ (s'.part p).grants = (s.part p).grants) ∧
        (s.cmdBegun = false → aligned → ∃ s' w, exec (.revoke true) s = .next s' ∧ s'.cmdBegun = true ∧ s'.cmd = s.cmd ∧
          (s'.part p).sweeps = (s.part p).sweeps ++ [w] ∧ w.va = 0 ∧ w.team = none ∧
          ∀ g, g ∈ (s'.part p).grants ↔ g ∈ (s.part p).grants ∧ overlaps g.w g.size (natAt b 0x10 8) (natAt b 0x20 8) = false) ∧
        (s.cmdBegun = true → (∀ w ∈ (s.part p).sweeps, w.team ≠ none) → ∃ s', ran (exec (.revoke true) s) s' a 0) ∧
        (s.cmdBegun = true → (∃ w ∈ (s.part p).sweeps, w.team = none) → ∃ s', exec (.revoke true) s = .next s' ∧ s'.cmd = s.cmd)) ∧
      (∀ g l : Nat, commands s a b 5 → argsOk b [(8, 4), (0x10, 8)] = true →
        let on (h : GPhase) : Bool := h == .resident || h == .halting || h == .saved
        (s.launchBySeq p (wordAt b 0x10) = some l → s.gangBy l (natAt b 0x14 4) on = some g →
          ∃ s', ran (exec (.kill true) s) s' a 0 ∧ (s'.gang g).phase = .removed ∧
            ∀ (t : Nat) (U : Team), s'.teams[t]? = some U → U.gang = g → U.phase = .ended ∧ U.resident = false) ∧
        (s.launchBySeq p (wordAt b 0x10) = none ∨ (s.launchBySeq p (wordAt b 0x10) = some l ∧ s.gangBy l (natAt b 0x14 4) on = none) →
          ∃ s', ran (exec (.kill true) s) s' a 2 ∧ s'.gangs = s.gangs ∧ s'.teams = s.teams)) ∧
      (commands s a b 6 → argsOk b [(8, 4), (0x10, 8)] = true →
        (s.cmdBegun = true → s.saving p = false → ∃ s', ran (exec (.save true) s) s' a 0) ∧
        (s.cmdBegun = false →
          let va := dwordAt b 0x10
          let die := (s.part p).dieFirst
          (va.toNat % 64 ≠ 0 → ∃ s', ran (exec (.save true) s) s' a 1 ∧ s'.gangs = s.gangs) ∧
          (∀ l s0, va.toNat % 64 = 0 → s.unitSplit p none die va 64 { r := true, w := true } none = (.ok l, s0) →
            (s.cratalReaches p die va 64 = false → ∃ s', ran (exec (.save true) s) s' a 4 ∧ s'.gangs = s.gangs) ∧
            (∀ (blk : List Byte) (s1 : State), s.cratalReaches p die va 64 = true → s.linkShut p = false →
              s.unitRead p none die va 64 none = (.ok blk, s1) → (s1.saveReq p blk).ok = true →
                (∀ g, (s1.saveReq p blk).gang = some g → ∃ s', exec (.save true) s = .next s' ∧ s'.cmdBegun = true ∧
                  (s'.gang g).phase = .halting ∧
                  (s'.gang g).image = some ⟨dwordAt blk 8, true, 0, none, none, natAt blk 16 4, va⟩) ∧
                (∀ s2, (s1.saveReq p blk).gang = none →
                  s1.unitWrite p none die 0 (va + 0x14) (leBytes 4 1 ++ leBytes 4 0) none = (.ok (), s2) → s2.hostMem.wf = true →
                    ∃ s', ran (exec (.save true) s) s' a 0 ∧ s'.gangs = s.gangs ∧ ∀ x, (x < a + 4 ∨ a + 8 ≤ x) →
                      s'.hostMem.read x = s2.hostMem.read x)))))) ∧
    (commands s a b 7 → argsOk b [(8, 8)] = true → natAt b 8 8 % 64 = 0 →
      ∃ s', ran (exec (.statesync true) s) s' a 0 ∧ s'.mem = s.mem ∧ s'.parts = s.parts ∧
        ∀ x < 256 + 8 * 1024, (natAt b 8 8 + x < a + 4 ∨ a + 8 ≤ natAt b 8 8 + x) →
          s'.hostMem.read (natAt b 8 8 + x) = ((s.syncRecord ++ (List.range 8).flatMap s.syncBlock)[x]?).getD 0) ∧
    (commands s a b 8 → argsOk b [(8, 72)] = true →
      ∃ s' salt, ran (exec (.quote true) s) s' a 0 ∧ s'.mem = s.mem ∧ s'.meas = s.meas ∧ salt.length = 64 ∧
        let body := s.quoteBody (bytesAt b 8 64)
        let signature := rsaPssSign Config.identityModulus Config.identityExponent body salt
        ∀ x < 0x500, (natAt b 0x48 8 + x < a + 4 ∨ a + 8 ≤ natAt b 0x48 8 + x) →
          s'.hostMem.read (natAt b 0x48 8 + x) =
            ((body ++ zeros 0xA0 ++ signature)[x]?).getD 0) ∧
    (∀ port p base n : Nat, commands s a b 9 → argsOk b [(8, 24)] = true → natAt b 8 4 = port → natAt b 0xC 4 = p →
      natAt b 0x10 8 = base → natAt b 0x18 8 = n → port < 16 → p < 8 → (s.part p).state ≠ .absent →
        (n = 0 ∨ (s.part p).inHbm base n = true → ∃ s', ran (exec (.peerwin true) s) s' a 0 ∧ (s'.port port).winPart = p ∧
          (s'.port port).winBase.toNat = base ∧ (s'.port port).winSize.toNat = n) ∧
        (n ≠ 0 → (s.part p).inHbm base n = false → ∃ s', ran (exec (.peerwin true) s) s' a 1 ∧ s'.ports = s.ports))

namespace Sys2Proof.Claims

/-! ## Power, measurement and errors (18/R459 to R465, 15/R399) -/

/-- Everything that a reset loses stands as at reset; the module is held in RESET. -/
def wasReset (s' : State) : Prop :=
  s'.stage = .reset ∧ s'.wdReset = false ∧ s'.cmdAddr = 0 ∧ s'.cmdBusy = false ∧ s'.derr = 0 ∧ s'.cmd = none ∧
    s'.meas = Vector.replicate 8 0 ∧ s'.time = 0 ∧ s'.thermal = false ∧ s'.parts = Vector.replicate 8 .reset ∧
    s'.ports = Vector.replicate 16 .reset ∧ s'.launches = [] ∧ s'.gangs = [] ∧ s'.teams = [] ∧ s'.visitors = [] ∧
    s'.caddySets = [] ∧ s'.channel = [] ∧ s'.fwd = [] ∧ s'.arr = [] ∧ s'.mem = [] ∧
    s'.pwrCap = 0 ∧ s'.limitsLocked = false ∧ s'.bad = []

/-- A measurement register extended by a digest: the SHA-512 of the register's bytes and the digest's (18/R459). -/
def extended (m d : BitVec 512) : BitVec 512 := BitVec.ofNat 512 (leNat (sha512 (leBytes 64 m.toNat ++ leBytes 64 d.toNat)))

/-- The digest of bytes. -/
def digest (bs : List Byte) : BitVec 512 := BitVec.ofNat 512 (leNat (sha512 bs))

/-- The boot ROM accepts an image: the key is the fused one, and the image's signature verifies with it (18/R459). -/
def accepted (s : State) (image signature key : List Byte) : Prop :=
  digest key = s.keyFuse ∧ rsaPssVerify key image signature = true

/-- What the boot ROM leaves for an accepted image: its digest, the image's and the limits' in registers that were zero, the
others zero; the limit registers locked, with PWRCAP as it was locked before, or at its initial 4,800 W (18/R459, R461). -/
def booted (s s' : State) (rom : BitVec 512) (image : List Byte) : Prop :=
  s'.meas[0] = extended 0 rom ∧ s'.meas[1] = extended 0 (digest image) ∧
    s'.meas[2] = extended 0 (digest (s.fuse.toList.flatMap w32le ++ w32le s'.pwrCap)) ∧
    (∀ j : Fin 8, 3 ≤ j.val → s'.meas[j] = 0) ∧ s'.limitsLocked = true ∧
    s'.pwrCap = (if s.limitsLocked then s.pwrCap else 4800) ∧ s'.fuse = s.fuse

/-- A partition has failed (18/R462): its state says so, its gangs are gone and its launches are complete. -/
def failedPart (s s' : State) (p : Nat) : Prop :=
  (s'.part p).state = .failed ∧ 4 * p + 3 ∈ s'.irqs ∧
    (∀ (g : Nat) (G : Gang), s.gangs[g]? = some G → G.part = p → G.phase ≠ .retired → (s'.gang g).phase = .removed) ∧
    ∀ (l : Nat) (L : Launch), s.launches[l]? = some L → L.part = p → (s'.launch l).phase = .complete

end Sys2Proof.Claims

/-- 18/R448, R459, R461, R462, R464, R465, 15/R399, R401: power-on, PERST# and a loss of power lose all device state; the bring-up from
RESET verifies the image, locks the limits, measures and starts it and trains the ports, or fails; the watchdog resets Cratal
alone once 100 ms have passed without a write, and a doorbell that has waited is then served; MEAS 3 to 7 are extended; a thermal
trip and a fatal error of the base die fail every partition, and one of a partition's dies fails that one; scrubbing that finds an
error posts a record. The statement rests on choices of the model: MEAS 0 after a failed verification (log entry 64), what a
reset leaves of PWRCAP and of power (8), and, PRESUMED, SHA-512, RSASSA-PSS and the order of their bytes (6). -/
def Obligations.PowerAndErrors : Prop :=
  ∀ (s : State) (rom : BitVec 512) (image signature key : List Byte),
    (s.powered = false → ∃ s', exec .powerOn s = .next s' ∧ wasReset s' ∧ s'.powered = true ∧ s'.fused = s.fused ∧
      s'.keyFuse = s.keyFuse) ∧
    (s.powered = true → exec .powerOn s = .next s ∧
      ∃ s', exec .perst s = .next s' ∧ wasReset s' ∧ s'.powered = true ∧ s'.fused = s.fused ∧ s'.fuse = s.fuse ∧
        s'.keyFuse = s.keyFuse ∧ s'.hostMem = s.hostMem) ∧
    (∃ s', exec .powerLoss s = .next s' ∧ wasReset s' ∧ s'.powered = false) ∧
    (∀ site : Site, s.powered = true → s.stage = .reset → ∃ s', exec (.inputWithinRange rom image signature key site) s = .next s' ∧
      s'.parts = s.parts ∧ 32 ∈ s'.irqs ∧
      (accepted s image signature key → s'.stage = .ready ∧ s'.node = site.node ∧ booted s s' rom image ∧ s'.wdTime = s.time ∧
        ∀ q < 16, if ∃ n, (q, n) ∈ site.links then (s'.port q).up = true ∧ (q, (s'.port q).partner) ∈ site.links
          else s'.port q = s.port q) ∧
      (¬ accepted s image signature key → s'.stage = .failed ∧ s'.meas = Vector.replicate 8 0 ∧ s'.ports = s.ports)) ∧
    (s.stage = .ready →
      let due : Prop := 100000000 ≤ (s.time - s.wdTime).toNat
      (due → s.powered = true → s.thermal = false → accepted s image signature key → ∀ a link, s.cmdWait = some (a, link) →
        ∃ s1, exec (.watchdogExpiry rom image signature key) s = .next (s1.doorbell a link) ∧ s1.stage = .ready ∧ s1.cmdWait = none ∧
          booted s s1 rom image) ∧
      (due → exec .watchdogWrite s = .next s ∧ (s.cmdWait = none → ∃ s', exec (.watchdogExpiry rom image signature key) s = .next s' ∧
        s'.parts = s.parts ∧ s'.teams = s.teams ∧ s'.ports = s.ports ∧ s'.launches = s.launches ∧ s'.gangs = s.gangs ∧
        s.sameMemory s' ∧ s'.wdReset = true ∧ 32 ∈ s'.irqs ∧
        (accepted s image signature key → s'.stage = .ready ∧ booted s s' rom image ∧ s'.wdTime = s.time) ∧
        (¬ accepted s image signature key → s'.stage = .failed))) ∧
      (¬ due → exec (.watchdogExpiry rom image signature key) s = .next s ∧
        exec .watchdogWrite s = .next { s with wdTime := s.time }) ∧
      ∀ (j : Fin 8) (d : BitVec 512),
        (3 ≤ j.val → ¬ due → ∃ s', exec (.measExtension j d) s = .next s' ∧ s'.meas[j] = extended s.meas[j] d ∧
          (∀ k : Fin 8, k ≠ j → s'.meas[k] = s.meas[k]) ∧ s'.teams = s.teams ∧ s'.parts = s.parts) ∧
        (j.val < 3 ∨ due → exec (.measExtension j d) s = .next s)) ∧
    (∀ die : Nat, s.powered = true → s.thermal = false → ∃ s', exec (.thermalTrip die) s = .next s' ∧ s'.thermal = true ∧
      ∀ p < 8, (s.part p).state = .ready → failedPart s s' p) ∧
    (∀ (p unit : Nat), p < 8 → (s.part p).state = .ready → ∃ s', exec (.fatalError (some p) unit) s = .next s' ∧ failedPart s s' p ∧
      ∀ q < 8, q ≠ p → (s'.part q).state = (s.part q).state) ∧
    (∀ unit : Nat, s.powered = true → ∃ s', exec (.fatalError none unit) s = .next s' ∧ s'.stage = .failed ∧
      ∀ p < 8, (s.part p).state = .ready → failedPart s s' p) ∧
    (∀ (n p die : Nat) (b : BadUnit), s.bad[n]? = some b → s.badDie b = die → s.partOfDie die = some p →
      ((s.part p).el.on = false → exec (.scrubbing n) s = .next s) ∧
      ((s.part p).el.on = true → (s.part p).el.full = false → (s.part p).elWait = [] → s.errorHeld p = false →
        let E := (s.part p).el
        let d := (s.part p).place (E.base.toNat + 64 * (E.tail.toNat % 2 ^ E.log)) 64
        isPlace s d.1 → (memAt s d.1).wf = true →
        ∃ s', exec (.scrubbing n) s = .next s' ∧ (s'.part p).el.tail = E.tail + 1 ∧ s'.irqs = (4 * p + 2) :: s.irqs ∧
          s'.teams = s.teams ∧ storedAt s s' d.1 d.2 (leBytes 4 (3 * 2 ^ 24 + b.unit * 2 ^ 16 + (die - (s.part p).dieFirst) * 2 ^ 8) ++
            w32le E.tail ++ w64le s.time ++ leBytes 8 (if b.unit = 0 then b.lo else 0) ++ leBytes 8 0 ++ leBytes 4 0 ++
            leBytes 4 0xFFFFFFFF ++ w32le (s.part p).dropped ++ zeros 20)))

namespace Sys2Proof.Claims

/-! ## The Glosia Fabric Link (16/R427 to R432) -/

/-- What a flit that arrives intact tells its port: the DATA flits that its ACK covers leave the replay buffer, the credits that it
returns are added, and a NAK makes the rest of the buffer be sent again. -/
def heard (P Q : Port) (bs : List Byte) : Prop :=
  Q.rqCred = P.rqCred + natAt bs 4 2 ∧ Q.rsCred = P.rsCred + natAt bs 6 2 ∧
    (∀ k x, P.replay[k]? = some x → x.1.toNat = natAt bs 2 2 % 2 ^ 12 →
      (∀ j y, j < k → P.replay[j]? = some y → y.1.toNat ≠ natAt bs 2 2 % 2 ^ 12) → Q.replay = P.replay.drop (k + 1)) ∧
    (2 ^ 15 ≤ natAt bs 2 2 → Q.resend = Q.replay.length)

/-- The bytes of a flit, which is intact: its CRC-64 is right and its kind is DATA or IDLE. -/
def intact (f : BitVec 2048) (bs : List Byte) : Prop :=
  bs = leBytes 256 f.toNat ∧ crc64 (bs.take 248) = dwordAt bs 248 ∧ natAt bs 0 2 / 2 ^ 12 < 2

/-- The fields of a message's header slot (16/R429). -/
def headerOf (m : List (List Byte)) (type nt arg snode dnode : Nat) (tag : BitVec 16) : Prop :=
  let h := leNat (m.headD [])
  bitsOf h 3 0 = type ∧ bitsOf h 6 4 = nt ∧ bitsOf h 13 8 = arg ∧ bitsOf h 21 16 = snode ∧ bitsOf h 27 22 = dnode ∧
    bitsOf h 47 32 = tag.toNat

end Sys2Proof.Claims

/-- 16/R424, R427 to R431: a DATA flit in sequence is taken with its messages, one out of sequence or damaged is discarded and asks for
replay once; a message that breaks R429 is refused with REASON 2 and so are the requests behind it; an IDLE flit's header counts; a WRITE or REDUCE of one target is performed at its home when it lies in the port's
window, and refused with REASON 3, 0 or 1 otherwise; DONE and REFUSE answer the request of their tag; the replay timeout, the
failure of a link, the end of training, the retry and the response timeout act when their times have passed. That a malformed
message makes one refusal for each target of every request that can be identified behind it is the model's reading (log entry 40). -/
def Obligations.GflLink : Prop :=
  ∀ (s : State) (port : Nat), port < 16 →
    let P := s.port port
    (∀ (f : BitVec 2048) (bs : List Byte), P.up = true → bs = leBytes 256 f.toNat →
      (∀ req rsp, intact f bs → natAt bs 0 2 = P.rxNext.toNat → parseSlots 15 (slotsOf 15 (bytesAt bs 8 240)) = (req, rsp, none) →
        ∃ s', exec (.data port f) s = .next s' ∧ (s'.port port).rxNext = P.rxNext + 1 ∧ heard P (s'.port port) bs ∧
          (s'.port port).inReq = P.inReq ++ req ∧ (s'.port port).inRsp = P.inRsp ++ rsp ∧ s'.teams = s.teams ∧ s.sameMemory s') ∧
      (∀ req rsp hs, intact f bs → natAt bs 0 2 = P.rxNext.toNat →
        parseSlots 15 (slotsOf 15 (bytesAt bs 8 240)) = (req, rsp, some hs) →
        ∃ s', exec (.data port f) s = .next s' ∧ (s'.port port).rxNext = P.rxNext + 1 ∧ (s'.port port).inReq = P.inReq ++ req ∧
          (s'.port port).inRsp = P.inRsp ++ rsp ∧ s'.teams = s.teams ∧ (s'.port port).outRsp = P.outRsp ++ hs.flatMap (fun h =>
            List.replicate (max 1 (bitsOf h 6 4))
              (responseOf s.node (bitsOf h 21 16) (BitVec.ofNat 16 (bitsOf h 47 32)) (some 2)))) ∧
      (¬ intact f bs ∨ (natAt bs 0 2 < 2 ^ 12 ∧ natAt bs 0 2 ≠ P.rxNext.toNat) → ∃ s', exec (.data port f) s = .next s' ∧
        (s'.port port).rxNext = P.rxNext ∧ (s'.port port).inReq = P.inReq ∧ (s'.port port).inRsp = P.inRsp ∧
        (s'.port port).nakSent = true ∧ ((s'.port port).nak = true ↔ P.nak = true ∨ P.nakSent = false) ∧ s'.teams = s.teams) ∧
      (intact f bs → natAt bs 0 2 / 2 ^ 12 = 1 → ∃ s', exec (.idle port f) s = .next s' ∧ heard P (s'.port port) bs ∧
        (s'.port port).inReq = P.inReq ∧ s'.teams = s.teams ∧ s.sameMemory s')) ∧
    (∀ (m : List (List Byte)) (r : List (List (List Byte))) (type arg snode dnode pa node : Nat) (tag : BitVec 16) (op : Acc) (i : Instr),
      P.inReq = m :: r → headerOf m type 1 arg snode dnode tag →
      (type, i) ∈ [(1, .write port), (2, .reduce port)] →
      natAt ((m[1]?).getD []) 0 8 = node * 2 ^ 58 + pa → pa < 2 ^ 52 →
      (type = 1 → op = .store (((m.drop 2).flatMap id).take (arg + 1))) →
      (type = 2 → ∃ o n, reduceOf arg = some (o, n) ∧ op = .atom o n (BitVec.ofNat 64 (natAt ((m.drop 2).flatMap id) 0 n)) 0) →
        ∃ s', exec i s = .next s' ∧ (s'.port port).inReq = r ∧ (s'.port port).rqFreed = P.rqFreed + m.length ∧ s'.teams = s.teams ∧
          s.sameMemory s' ∧
          let in_ := P.winBase.toNat ≤ pa ∧ pa + op.len ≤ P.winBase.toNat + P.winSize.toNat
          let answer (reason : Nat) : Prop := s'.fwd = s.fwd ∧
            (s'.port port).outRsp = P.outRsp ++ [responseOf s.node snode tag (some reason)]
          (node ≠ s.node.toNat → answer 3) ∧ (node = s.node.toNat → ¬ in_ → answer 0) ∧
          (node = s.node.toNat → in_ → (s.part P.winPart).state ≠ .ready → answer 1) ∧
          (node = s.node.toNat → in_ → (s.part P.winPart).state = .ready → ∃ e, s'.fwd = s.fwd ++ [e] ∧ e.op = op ∧ e.addr = pa ∧
            e.dest = .home (homeOf pa) ∧ e.ret = .gfl port tag (BitVec.ofNat 6 snode) ∧ (s'.port port).outRsp = P.outRsp)) ∧
    (∀ (m : List (List Byte)) (r : List (List (List Byte))) (type nt arg snode : Nat) (tag : BitVec 16) (i : Instr) (w : GReq) (n : Nat × Nat),
      P.inRsp = m :: r → headerOf m type nt arg snode s.node.toNat tag → (type, i) ∈ [(3, .done port), (4, .refuse port)] →
      P.waiting.filter (fun x => x.tag == tag) = [w] → w.nodes = [n] → (if type = 4 ∧ arg % 16 = 3 then n.1 ≠ snode else n.1 = snode) →
      (∀ x ∈ P.waiting, x ≠ w → x.entry ≠ w.entry ∧ x.nodes ≠ []) →
        ∃ s', exec i s = .next s' ∧ (s'.port port).inRsp = r ∧ (s'.port port).rsFreed = P.rsFreed + 1 ∧
          (s'.port port).waiting = P.waiting.filter (fun x => x.tag != tag) ∧ s'.arr = s.arr.filter (fun e => e.id != w.entry) ∧
          s'.teams = s.teams ∧ (type = 3 → s'.parts = s.parts ∧ s.sameMemory s') ∧
          (type = 4 → (s.part w.part).el.on = true → (s.part w.part).el.full = false → (s.part w.part).elWait = [] →
            s.errorHeld w.part = false → w.part < 8 →
            (s'.part w.part).el.tail = (s.part w.part).el.tail + 1)) ∧
    (P.up = true → P.replay ≠ [] → P.resend = 0 → 5000 ≤ (s.time - P.lastAck).toNat →
      exec (.replayTimeout port) s = .next (s.modPort port (fun Q => { Q with resend := P.replay.length, lastAck := s.time }))) ∧
    (P.up = true → (∃ x ∈ P.replay, 16 ≤ x.2.2) ∨ 50000 ≤ (s.time - P.lastGood).toNat →
      ∃ s', exec (.linkFail port) s = .next s' ∧ (s'.port port).up = false ∧ (s'.port port).replay = P.replay ∧ s'.teams = s.teams) ∧
    (∀ node : BitVec 6, P.up = false → P.trainFails < 3 → s.stage = .ready →
      (∃ s', exec (.portTraining port true node) s = .next s' ∧ (s'.port port).up = true ∧ (s'.port port).partner = node ∧
        (s'.port port).rqCred = 256 ∧ (s'.port port).rsCred = 256 ∧ (s'.port port).resend = P.replay.length ∧
        (s'.port port).rxNext = P.rxNext ∧ s'.teams = s.teams) ∧
      (P.trainFails < 2 → exec (.portTraining port false node) s = .next (s.modPort port (fun Q =>
        { Q with trainFails := P.trainFails + 1, lastGood := s.time }))) ∧
      (P.trainFails = 2 → ∃ s', exec (.portTraining port false node) s = .next s' ∧ (s'.port port).trainFails = 3 ∧
        (s'.port port).replay = [] ∧ (s'.port port).outReq = [] ∧ (s'.port port).waiting = [] ∧ s'.teams = s.teams)) ∧
    (P.up = false → 3 ≤ P.trainFails → 1000000000 ≤ (s.time - P.lastGood).toNat → ∃ s', exec (.trainingRetry port) s = .next s' ∧
      (s'.port port).trainFails < 3 ∧ (s'.port port).up = false ∧ s'.teams = s.teams) ∧
    (∀ tag : BitVec 16, ∃ s', exec (.responseTimeout port tag) s = .next s' ∧ s'.teams = s.teams ∧
      (s'.port port).waiting = P.waiting.filter (fun w => !(w.tag == tag && decide (1000000 ≤ (s.time - w.sentAt).toNat))))

namespace Sys2Proof.Claims

/-! ## Start and reset (02/R49, 18/R464) -/

/-- The start state of a team of a descriptor (02/R49): each row of the rule's table. -/
def startsAs (T : Team) (d : Desc) : Prop :=
  T.spc = d.sentry ∧ T.rdp 2 = d.args ∧ (∀ r : BitVec 6, r ≠ 2 → r ≠ 3 → T.rd r = 0) ∧ T.handler = d.handler ∧
    T.regs.v.length = d.n0 ∧ (∀ r ∈ T.regs.v, r = .u 0) ∧ (∀ k : Fin 8, T.regs.m[k] = 0 ∧ T.slots[k] = 0) ∧ T.fpstat = 0 ∧ T.mstat = 0 ∧
    T.nfc = 0 ∧ T.mcr = 0 ∧ T.rkey = 0 ∧ T.fmt = 0 ∧ T.regs.prc = .u 3 ∧ T.laneQ = [] ∧ T.asideQ = [] ∧ T.blk = none ∧ T.held = none ∧
    (∀ k : Fin 4, T.oplog[k] = none) ∧ T.wcodes = 0 ∧ ∀ k : Fin 8, T.tok[k].out = 0 ∧ T.tok[k].err = false

/-- The S-PC, HANDLER and the resume point of every team, and the entry points of every launch, are addresses of words, and `s0`
holds 0 (03/R58, R60, 02/R48, 07/R166). -/
def aligned (s : State) : Prop :=
  (∀ T ∈ s.teams, T.s[0] = 0 ∧ T.spc.toNat % 4 = 0 ∧ T.handler.toNat % 4 = 0 ∧ T.resume.toNat % 4 = 0) ∧
    ∀ L ∈ s.launches, L.desc.sentry.toNat % 4 = 0 ∧ L.desc.handler.toNat % 4 = 0

/-- Every entry on its way has a number below the next that is given (the model's own numbering). -/
def idsFresh (s : State) : Prop := ∀ e ∈ s.fwd, e.id < s.nextId

end Sys2Proof.Claims

/-- 02/R49: a team starts in the state of the table of R49, whatever its place in the launch. -/
def Obligations.TeamStart : Prop :=
  ∀ (l g tid rank core : Nat) (d : Desc), Claims.startsAs (Team.start l g tid rank core d) d

/-- 18/R453, R459, R464, 11/R307: at reset the module is held in RESET with MEAS and TIME zero, no partition, launch, gang or team, and
every byte of memory reads as zero; its memories are in canonical form and its streams aligned. That the bytes of memory read as
zero before a partition is created is the model's choice (log entry 9), and so is what the reset of power leaves (log entry 8). -/
def Obligations.ResetState : Prop :=
  State.reset.memOk ∧ Claims.aligned State.reset ∧ Claims.idsFresh State.reset ∧ State.reset.stage = .reset ∧ State.reset.cmdBusy = false ∧ State.reset.cmdWait = none ∧ State.reset.time = 0 ∧
    (∀ k : Fin 8, State.reset.meas[k] = 0) ∧ (∀ p < 8, (State.reset.part p).state = .absent) ∧ State.reset.launches = [] ∧
    State.reset.gangs = [] ∧ State.reset.teams = [] ∧ State.reset.visitors = [] ∧ State.reset.fwd = [] ∧ State.reset.arr = [] ∧ State.reset.walks = [] ∧ (∀ a, State.reset.mem.read a = 0) ∧
    ∀ p < 16, (State.reset.port p).up = false

/-- 10/R263, 05/R113, R115: a step in which a stream moves runs the instruction that the bytes at its program counter decode to, on the
state that the fetch leaves; an L trap that waits is delivered after an S instruction; a step in which another part of the
machine moves runs that part's own step. What the instruction has written is whole again (15/R399); the stream's loads performed
ahead and walks begun ahead that the instruction does not let stand are given up (10/R268, 16/R420), before a release too, and
time passes. -/
def Obligations.StepRunsInstruction : Prop :=
  ∀ (s : State) (m : Mover) (r : List Mover), s.time.toNat / 10000 ≤ s.period → s.agenda = m :: r →
    let ran (o : Host.Outcome State Fault Refusal) (f : State → State) : Prop :=
      step s = match o with
        | .next u => .next ((f u).dropEarly s.nextId).tick
        | .fault x => .fault x
        | .refused x => .refused x
    let at_ (c : Cur) (k : Nat) : State := ({ s with agenda := r, cur := c, choice := k }).clearHolds
    (∀ t k bs i rest s2, m = .s t k → ({ s with agenda := r }).beforeS t k = none →
      let u := at_ (.s t) k
      u.fetchBlocked (u.partOf t) (u.team t).core (dieOfCore (u.team t).core) t (u.team t).spc 4 = false →
      u.fetchBytes (u.partOf t) (u.team t).core (dieOfCore (u.team t).core) t (u.team t).spc 4 = (.ok bs, s2) →
      decodeSBytes bs = .ok (i, rest) → s2.sBroken t i = false →
        ran (exec i (s2.issuing i)) (fun v => (((v.healWrites t (u.team t) (some i)).afterS t).keepEarly t (some i)).endWalks (.s t))) ∧
    (∀ t k bs i rest s2 C, m = .l t k → ({ s with agenda := r }).beforeL t = none →
      let u := at_ (.l t) k
      u.lctx = some C → u.fetchBlocked C.part C.core C.die C.t (u.lAddr C) 12 = false →
      u.fetchBytes C.part C.core C.die C.t (u.lAddr C) 12 = (.ok bs, s2) →
      decodeLBytes bs = .ok (i, rest) → ran (exec i (s2.issuing i)) (fun v => v.endWalks (.l t))) ∧
    (∀ w k bs i rest s2 C, m = .v w k → ({ s with agenda := r }).beforeV w = none →
      let u := at_ (.v w) k
      u.lctx = some C → u.fetchBlocked C.part C.core C.die C.t (u.lAddr C) 12 = false →
      u.fetchBytes C.part C.core C.die C.t (u.lAddr C) 12 = (.ok bs, s2) →
      decodeLBytes bs = .ok (i, rest) → ran (exec i (s2.issuing i)) (fun v => v.endWalks (.v w))) ∧
    (∀ i k, m = .ev i k → ran (exec i { s with agenda := r, cur := .none, choice := k }) id)

namespace Sys2Proof.Claims

/-- The next step is a move of team `t`'s S-stream, which may issue, with the choice `k`. -/
def sMoves (s : State) (t k : Nat) (T : Team) : Prop :=
  s.time.toNat / 10000 ≤ s.period ∧ (∃ r, s.agenda = .s t k :: r) ∧ s.teams[t]? = some T ∧ s.onCore t = true ∧
    s.spent (s.partOf t) 0 = false ∧ idsFresh s

/-- A trap that no handler takes (15/R384, R397): the gang of a supervisor team, or of a user team with no fault queue or without a
free save slot, is removed; else the gang halts to be written there, and its entry waits. -/
def goesUnhandled (o : Host.Outcome State Fault Refusal) (s : State) (t : Nat) (T : Team) (c : Cause) : Prop :=
  let P := s.part (s.partOf t)
  ((s.descOf t).sup = true ∨ P.fqOn = false ∨ s.freeSaveSlot (s.partOf t) = none →
    ∃ s', o = .next s' ∧ (s'.gang T.gang).phase = .removed) ∧
  ∀ j a, (s.descOf t).sup = false → P.fqOn = true → s.freeSaveSlot (s.partOf t) = some (j, a) →
    ∃ s' h, o = .next s' ∧ (s'.gang T.gang).phase = .halting ∧
      (s'.gang T.gang).image = some ⟨a, false, 2, none, some j, P.slotSize, 0⟩ ∧ (s'.gang T.gang).unhandled = some (t, h) ∧
      h.cause = c

end Sys2Proof.Claims

/-- 03/R54, R57, 05/R113, R115, 15/R384, R397, R399: an S word that fails decode traps precisely with its cause and the S-PC, and one
that reads a register with an uncorrectable error with DEVICE_ERROR and TADDR 0; an L trap that waits is delivered to HANDLER at a
boundary of the S-stream, with its lanes in `m7` and the trap registers of R54, and abandons a hold of the S-stream. A trap that no
handler takes, HANDLER being 0 or the team TRAPPED, removes the gang or halts it to be written to a save slot, whose size is
compared when the gang has come to rest: so do the trap of
an S instruction, a failed decode, the delivery of an L trap, and an L trap of a handler's own lane work. -/
def Obligations.TrapDelivery : Prop :=
  ∀ (s : State) (t k : Nat) (T : Team),
    (∀ bs s2, Claims.sMoves s t k T → T.pendL = none → T.shold = none →
      let u := ({ s with agenda := s.agenda.tail, cur := .s t, choice := k }).clearHolds
      u.fetchBlocked (u.partOf t) (u.team t).core (dieOfCore (u.team t).core) t T.spc 4 = false →
      u.fetchBytes (u.partOf t) T.core (dieOfCore T.core) t T.spc 4 = (.ok bs, s2) →
      (∀ e, decodeSBytes bs = .error e →
        let c : Cause := match e with | .illegal => .illegal | .reservedField => .reservedField
        (T.hasHandler → ∃ s' U, step s = .next s' ∧ s'.teams[t]? = some U ∧ SDiverted T U c T.spc ∧ s.sameOthers s' t ∧
          s.sameMemory s') ∧
        (T.handler = 0 ∨ T.phase = .trapped → (s.gang T.gang).phase = .resident →
          Claims.goesUnhandled (step s) s t T c)) ∧
      ∀ i rest, decodeSBytes bs = .ok (i, rest) → s2.sBroken t i = true → T.busy (sReads i) = false →
        (s.descOf t).sup = true ∨ isPriv i = false → T.hasHandler →
          ∃ s' U, step s = .next s' ∧ s'.teams[t]? = some U ∧ SDiverted T U .deviceError 0 ∧ s.sameOthers s' t ∧
            ((s.part (s.partOf t)).el.on = false → s.sameMemory s')) ∧
    (∀ p : LTrap, Claims.sMoves s t 0 T → T.pendL = some p →
      (T.hasHandler →
        ∃ s' U, step s = .next s' ∧ s'.teams[t]? = some U ∧ U.spc = T.handler ∧ U.phase = .trapped ∧
          U.tcause = BitVec.ofNat 32 (causeCode p.cause) ∧ U.taddr = p.taddr ∧ U.tlpc = p.tlpc ∧ U.tspc = T.spc ∧ U.resume = T.spc ∧
          U.tlog = (match p.slot with | some j => 8 + j.setWidth 4 | none => 0) ∧ U.regs.m[7] = p.lanes ∧
          (∀ j : Fin 8, j ≠ 7 → U.regs.m[j] = T.regs.m[j]) ∧ U.regs.v = T.regs.v ∧ U.regs.prc = T.regs.prc ∧ U.s = T.s ∧
          U.pendL = none ∧ U.shold = none ∧ U.laneQ = [] ∧ U.asideQ = T.laneQ ∧ U.blk = none ∧ U.held.isSome = T.blk.isSome ∧
          s.sameOthers s' t ∧ s.sameMemory s') ∧
      (T.phase = .running → T.handler = 0 → (s.gang T.gang).phase = .resident →
        Claims.goesUnhandled (step s) s t T p.cause)) ∧
    (s.runsS t T [] → T.phase = .running → T.handler = 0 → (s.gang T.gang).phase = .resident →
      Claims.goesUnhandled (exec .tresume s) s t T .illegal) ∧
    (∀ d a b, s.runsS t T [d, a, b] → T.rd b = 0 → T.handler = 0 ∨ T.phase = .trapped → (s.gang T.gang).phase = .resident →
      Claims.goesUnhandled (exec (.div d a b) s) s t T .arith) ∧
    (∀ (f : LF) (C : LCtx), s.actsL (.ltrap f) 0 C → C.who = .l t → s.teams[t]? = some T → T.phase = .trapped →
      (s.gang T.gang).phase = .resident →
      ((s.descOf t).sup = true ∨ (s.part (s.partOf t)).fqOn = false ∨ s.freeSaveSlot (s.partOf t) = none →
        ∃ s', exec (.ltrap f) s = .next s' ∧ (s'.gang T.gang).phase = .removed) ∧
      ∃ s', exec (.ltrap f) s = .next s' ∧ ((s'.gang T.gang).phase = .removed ∨ (s'.gang T.gang).phase = .halting ∧
        ∃ h, (s'.gang T.gang).unhandled = some (t, h) ∧ h.cause = .user))

/-- 05/R120 to R130: the worked words of the spec are the instructions that it says, and its variants are refused with the causes
that it gives. -/
def Obligations.DecodedWords : Prop :=
  let f32 (d : Dst) (a b c : Src) : LF := { ty := .f32, d := d, a := a, b := b, c := c }
  let v (n : BitVec 7) : Src := .reg (.v n)
  decode [0x04518700] = .ok (.add 5 6 7) ∧ decode [0x08403FFD] = .ok (.addi 4 0 0x3FFD) ∧
    decode [0x40814010] = .ok (.ld 8 2 2 16) ∧ decode [0x6091FFFE] = .ok (.bCond 9 1 0xFFFE) ∧
    decode [0x5C000D80] = .ok (.fence 3 3) ∧ decode [0x80000028] = .ok (.lrun 40) ∧
    decode [0x045187FF] = .error .illegal ∧ decode [0x5C000000] = .error .reservedField ∧
    decode [0x84518700] = .error .reservedField ∧
    decode [0x020813FF, 0x00400500, 0] = .ok (.vmul (f32 (.l 0) (v 4) (v 5) (v 0))) ∧
    decode [0x00080607, 0x80000600, 0] = .ok (.vadd (f32 (.rl (.v 7) 1) (.lat 0) (v 6) (v 0))) ∧
    decode [0x04080008, 0xA0000900, 0x70000000] = .ok (.vmad (f32 (.r (.v 8)) (.lat 1) (v 9) (v 7))) ∧
    decode [0x00080607, 0x80400600, 0] = .error .reservedField ∧ decode [0x00081607, 0x80000600, 0] = .error .reservedField ∧
    decode [0x00060607, 0x80000600, 0] = .error .illegal ∧ decode [0x000B0607, 0x80000600, 0] = .error .illegal ∧
    decode [0x43080607, 0x80000600, 0] = .error .illegal ∧ decode [0x000806B2, 0x80000600, 0] = .error .illegal ∧
    decode [0x000806B1, 0x80000600, 0] = .error .reservedField

/-- 05/R115, R117 to R130: decoding the words of a well-formed S or L instruction gives it back, with every operand; and words that
decode to an instruction are its words, so no word has two readings and no bit is ignored. -/
def Obligations.EncodingRoundTrip : Prop :=
  (∀ i : Instr, WellFormed i → encode i ≠ [] → decode (encode i) = .ok i) ∧
    ∀ (ws : List Word) (i : Instr), decode ws = .ok i → encode i = ws ∧ WellFormed i

/-- 05/R115, R119, R120, R128: an S word of an unassigned major opcode or ALU function, and an L instruction of an unassigned opcode,
is refused as ILLEGAL, whatever its other bits hold. -/
def Obligations.UnassignedOpcodes : Prop :=
  (∀ w : Word, w.toNat / 2 ^ 26 ∈ [0, 0x0D, 0x0E, 0x0F, 0x13, 0x1C, 0x1D, 0x1E, 0x1F, 0x2E, 0x2F, 0x36, 0x37, 0x3B, 0x3F] →
    decode [w] = .error .illegal) ∧
  (∀ w : Word, w.toNat / 2 ^ 26 = 1 → w.toNat % 256 ∉ [0, 1, 2, 3, 4, 5, 6, 7, 8, 0x10, 0x11, 0x12, 0x13, 0x14, 0x15, 0x16, 0x17,
    0x20, 0x21, 0x22, 0x23, 0x24, 0x25, 0x30, 0x31, 0x32, 0x33, 0x34, 0x35] → decode [w] = .error .illegal) ∧
  (∀ w0 w1 w2 : Word, (∃ r : Nat × Nat, r ∈ [(0x1A, 0x1F), (0x2D, 0x2F), (0x37, 0x3F), (0x43, 0x43), (0x4B, 0x4F), (0x54, 0x5F),
      (0x6A, 0x6F), (0x7B, 0x7F), (0x82, 0xFF)] ∧ r.1 ≤ w0.toNat / 2 ^ 24 ∧ w0.toNat / 2 ^ 24 ≤ r.2) →
    decode [w0, w1, w2] = .error .illegal)

/-- The memories stay in canonical form: HBM4E, host memory, scratchpads, accumulator stores, B-stores and saved engine states. Every
claim about reading after writing rests on it. The form is the model's own, and so is the numbering of entries, in which every
entry on its way keeps a number below the next. -/
def Obligations.MemoryFormKept : Prop :=
  ∀ s s' : State, step s = .next s' → (s.memOk → s'.memOk) ∧ (Claims.idsFresh s → Claims.idsFresh s')

/-- 03/R58, R60, 02/R48, 07/R166, 15/R392: whatever step the machine takes, the S-PC, HANDLER and resume point of every team stay
addresses of words, and `s0` stays 0. -/
def Obligations.StreamsStayAligned : Prop :=
  ∀ s s' : State, Claims.aligned s → step s = .next s' → Claims.aligned s'

namespace Sys2Proof.Claims

/-- The team whose instruction the current stream executes. -/
def actor (s : State) : Option Nat :=
  match s.cur with
  | .s t => some t
  | .l t => some t
  | .v v => (s.visitors[v]?).map (fun V => V.cont.team)
  | .none => none

/-- What only a supervisor may write of a partition: its rings' bases and controls, the save pool, the table root, its
grants, sweeps and open entries. -/
def guarded (P : Part) : Ring × Ring × DWord × Word × DWord × List FqOpen × List Grant × List Sweep × PState :=
  (P.fq, { P.el with tail := 0 }, P.saveBase, P.saveCtl, P.ptroot, P.fqOpen, P.grants, P.sweeps, P.state)

end Sys2Proof.Claims

/-- 15/R383, R385 to R393: no S or L instruction of a user team, whether it completes, waits or traps, changes the privileged registers
of any partition, its open fault-queue entries, its grants, its sweeps or its state. -/
def Obligations.UserLeavesPrivilegedState : Prop :=
  ∀ (i : Instr) (s s' : State) (t p : Nat), encode i ≠ [] → Claims.actor s = some t → (s.descOf t).sup = false → p < 8 →
    exec i s = .next s' → Claims.guarded (s'.part p) = Claims.guarded (s.part p)

/-! ## The statements that join several of the above -/

/-- 07/R153, 07/R155, 07/R156: scalar and pair arithmetic completes with its exact result, modulo 2^32 in a register or 2^64 in a
pair; `s0` discards it; the S-PC goes on and one instruction is counted, and every other part of the state is unchanged. -/
def Obligations.ScalarArithmetic : Prop :=
  Sys2Proof.Claims.ScalarArithmetic ∧
    Sys2Proof.Claims.PairArithmetic

/-- 03/R59, 03/R60, 07/R159, 07/R160, 07/R188, 05/R113, 07/R166: specials: an unlisted one, a write of a read-only one and an odd
register for a 64-bit one trap with ILLEGAL, a reserved value with RESERVED_FIELD, a misaligned HANDLER with ALIGN (its TADDR
is the model's choice, log entry 17); accesses: a misaligned address traps with ALIGN, one beyond the scratchpad with
SCRATCH_RANGE, a store or atomic to a live barrier word with BARRIER_STORE; transfers: a misaligned target traps with ALIGN.
Each is precise and writes nothing. -/
def Obligations.ScalarFaults : Prop :=
  Sys2Proof.Claims.SpecialFaults ∧
    Sys2Proof.Claims.MisalignedAccessTraps ∧
    Sys2Proof.Claims.MisalignedTargetTraps ∧
    Sys2Proof.Claims.ScratchFaults

/-- 03/R59, 03/R60, 07/R157, 07/R158: `rdx` of every listed special completes with its value, a 32-bit one in a register, a
64-bit one in a pair; `wrx` completes with the special's new value: NFC cleared, sticky bits cleared where a 1 is written,
FMT, RKEY, MCR, HANDLER and MIGCTL taken when they hold no reserved value. -/
def Obligations.SpecialRegisters : Prop :=
  Sys2Proof.Claims.SpecialReads ∧
    Sys2Proof.Claims.SpecialWrites

/-- 07/R159, 07/R160, 07/R161, 07/R188, 10/R262, 10/R264, 16/R416, 16/R418, 16/R419: a scalar load, store or atomic whose checks
pass enters one access at its home or its gang's banks, with its bytes, or its operand and comparand, and for a load the
register that it will write, and a load that takes one performed ahead completes with its bytes; the checks fill translation
caches and change nothing else, and the page has the permission that the access needs. -/
def Obligations.ScalarAccesses : Prop :=
  Sys2Proof.Claims.GlobalAccessEntered ∧
    Sys2Proof.Claims.ScratchAccessEntered ∧
    Sys2Proof.Claims.AccessCheckFrame

/-- 07/R167, 07/R168, 07/R169, 02/R32, 02/R50: `lrun` appends a block with its index, parameters, RKEY, MIGCTL and N; `lwait`
completes once every block has ended, and `lget` gives a result slot; `grow` adds 8k registers that read as zero (while
blocks from before an earlier `shrink` use registers of their numbers too: the model's reading, log entry 74), and `shrink`
takes 8k away for the blocks enqueued after it. -/
def Obligations.LaneQueue : Prop :=
  Sys2Proof.Claims.LaneQueueInstructions ∧
    Sys2Proof.Claims.GrowAndShrink

/-- 02/R50, 07/R169, 02/R44, 07/R170, 07/R171, 07/R172: `grow` past NMAX and `shrink` below 8 registers trap with GROW, and with
WINDOW first when there is an elastic window; a circle instruction with a number not below LCIRC, and `csync` by no member,
trap with MEMBERSHIP; `pour` of a misaligned address traps with ALIGN, of a malformed descriptor or one that sets SUP with
QUEUE. -/
def Obligations.GangAndLaunchFaults : Prop :=
  Sys2Proof.Claims.GrowFaults ∧
    Sys2Proof.Claims.CircleFaults ∧
    Sys2Proof.Claims.PourFaults

/-- 07/R172, 07/R173, 02/R42, 02/R48, 02/R52: `pour` of a well-formed descriptor that names no caddies completes and accepts one
launch; `withdraw` completes every launch of the tag of which no gang has been placed; `yield` changes nothing but the S-PC;
`end` of a running team whose work is done ends it. -/
def Obligations.LaunchInstructions : Prop :=
  Sys2Proof.Claims.PourAccepts ∧
    Sys2Proof.Claims.WithdrawEndYield

/-- 07/R175, 15/R383: `tresume` and `tresume.at` of a team that is not TRAPPED trap with ILLEGAL; a privileged instruction in a
team that is no supervisor traps with PRIVILEGED, and nothing else happens (for an unlisted register number too, which a
supervisor finds ILLEGAL: the model's reading, log entry 24). -/
def Obligations.PrivilegeAndHandlerFaults : Prop :=
  Sys2Proof.Claims.ResumeOutsideHandlerTraps ∧
    Sys2Proof.Claims.PrivilegedInUserModeTraps

/-- 07/R177, 07/R178, 07/R179, 07/R181, 07/R183, 07/R184, 07/R185, 07/R186, 07/R187, 03/R56: `kpour` appends a chain and raises
OUT; `twait` of raised tokens completes, or delivers the record of the lowest in error; `tprobe` gives raised and failed
tokens; `binit`, `barrive`, `bexpect`, `bwait` and `binval` act on a barrier word as its counts say. -/
def Obligations.TokensAndBarriers : Prop :=
  Sys2Proof.Claims.TokenInstructions ∧
    Sys2Proof.Claims.TokenErrorDelivered ∧
    Sys2Proof.Claims.BarrierInstructions

/-- 07/R185, 07/R186, 07/R187, 07/R188, 12/R320, 13/R356, 13/R357, 13/R358: a barrier instruction on a word in the wrong state
traps with BARRIER_STATE, and a `bwait` released by the bank completes with its status; an engine command with a misaligned
record address traps with ALIGN, with a full token with QUEUE; a steep instruction with no such caddy, or no twin, and
`steep.grad` of a steep that the tape no longer holds, trap with STEEP (the last before the segment is read, the model's
choice, log entry 101), and `steep.close` by no member with MEMBERSHIP. -/
def Obligations.UnitCommandFaults : Prop :=
  Sys2Proof.Claims.BarrierFaults ∧
    Sys2Proof.Claims.EngineCommandFaults ∧
    Sys2Proof.Claims.SteepFaults

/-- 12/R320, 12/R324, 12/R329, 12/R330, 12/R331, 12/R336: an engine command whose checks pass completes, with one job appended
and OUT of its token raised; `mcrew` takes a well-formed MCR; `mstat` gives the sticky flags and clears them; a crew `mma`
completes or traps with CREW as its rendezvous ends. -/
def Obligations.EngineCommands : Prop :=
  Sys2Proof.Claims.EngineCommandsAccepted ∧
    Sys2Proof.Claims.EngineRegisters

/-- 13/R355, 13/R356, 13/R357, 13/R358, 13/R359: `steep.close` of a member enters its close at the steep buffer; `steep.wait` for
a steep that has passed completes unless its segment header reports OVERFLOW or FAULT, for which it traps with STEEP;
`steep.grad` walks the records of its segment in reverse canonical order, a record at each issue while its accesses may be
made (that it issues so, record by record, is the model's choice, log entry 134), with the gradients and the slots' restored
pre-images that 13/R358 computes; `steep.grad` whose output area says that the walk is complete completes and frees the tape. -/
def Obligations.SteepInstructions : Prop :=
  Sys2Proof.Claims.SteepInstructions ∧
    Sys2Proof.Claims.SteepGradWalks ∧
    Sys2Proof.Claims.SteepGradCompletes

/-- 15/R385, 15/R386, 15/R387: `sysr` of every listed register completes with its value, and an unlisted number traps with
ILLEGAL; `sysw`, once earlier accesses are performed at system scope, writes the register or faults on a value that its rule
refuses: a base while its ring is on, a misaligned one, a reserved bit, a size that changes or is out of range, a read-only
or unlisted number; turning a ring on zeroes its TAIL and HEAD, and its size stays while it is on. -/
def Obligations.PrivilegedRegisters : Prop :=
  Sys2Proof.Claims.PrivilegedReads ∧
    Sys2Proof.Claims.PrivilegedWrites ∧
    Sys2Proof.Claims.PrivilegedWriteFaults ∧
    Sys2Proof.Claims.RingControl

/-- 15/R388, 15/R389, 15/R390, 15/R391, 15/R392, 15/R393: `fqpop` gives the oldest entry's address or 0; `eret` applies the
resolution of the entry that the team holds, closes it when it is open, and releases it, and traps with ILLEGAL when the team
holds none; `tinval` starts a sweep and `tsync` completes once none is left; `ctxsave` completes with the image written, or
with STATUS 1 when no such gang is resident (with NEED 0 there, the model's choice, log entry 109); `ctxload` queues a saved
gang, and makes one anew from the image of one that is gone (the model's choice, log entry 128); `eret` finds the entry of
the enabling of the queue under which the team took it (log entry 129), and what `tinval`'s sweep waits for is the model's
reading (log entry 30); `svc` waits to be posted, and ends as its entry is resolved. -/
def Obligations.SupervisorInstructions : Prop :=
  Sys2Proof.Claims.FaultQueueInstructions ∧
    Sys2Proof.Claims.ContextAndServiceInstructions ∧
    Sys2Proof.Claims.ServiceWaits

/-- 08/R197, 08/R211, 09/R252, 03/R65, 03/R78, 09/R253, 02/R39, 08/R230: lanes that divide by 0 trap with ARITH, and the others
hold their results; a `v` register that the team does not have is ILLEGAL; an elastic result too long traps with CAPACITY,
one below the floor with PRECISION; a construct on a wrong or missing stack entry is ILLEGAL, at depth 32
RECONVERGENCE_OVERFLOW, with a reserved FMT RESERVED_FIELD; `vstage` and `ewin` of a window that breaks R252's limits fault
as it says (that a construct does so under an empty mask too is the model's reading, log entry 19). -/
def Obligations.LaneFaults : Prop :=
  Sys2Proof.Claims.LaneDivisionByZero ∧
    Sys2Proof.Claims.AbsentRegisterTraps ∧
    Sys2Proof.Claims.ElasticStoreChecks ∧
    Sys2Proof.Claims.LaneControlFaults ∧
    Sys2Proof.Claims.WindowFaults

/-- 09/R233, 09/R234, 09/R235, 09/R236, 09/R237, 09/R238, 09/R248, 09/R249, 09/R251, 08/R221: a floating, conversion, block-
format, pruning or generator instruction, `eprec` or `vrdx` of which no lane faults completes with each lane's words, its
flags and its count of replacements; `vmxq` gives each block of 32 lanes its quantisation. -/
def Obligations.LaneFloatResults : Prop :=
  Sys2Proof.Claims.LaneFloatResults ∧
    Sys2Proof.Claims.BlockQuantisation

/-- 08/R203, 08/R204, 08/R205, 08/R206, 08/R208, 03/R79, 03/R80, 09/R258: a lane load, store or atomic whose active lanes pass
the checks enters one access for every line part of every active lane, and no other, and what returns a value holds an
operand-log slot; `vmcast` enters one write for every gang that each lane names. Nothing is performed yet. -/
def Obligations.LaneAccesses : Prop :=
  Sys2Proof.Claims.LaneAccessesEntered ∧
    Sys2Proof.Claims.MulticastEntered

/-- 08/R203, 08/R204, 07/R188, 13/R344, 14/R369, 14/R377: a lane access whose every active lane breaks the same check is
performed in no lane and traps with that cause and the lowest lane's address; a soft instruction of a visitor traps with
NOT_CARRIED, and one that names no caddy, or no twin, with STEEP; a visitor's access to what its continuation does not carry
traps with NOT_CARRIED at home. -/
def Obligations.LaneMemoryFaults : Prop :=
  Sys2Proof.Claims.LaneAccessFaults ∧
    Sys2Proof.Claims.SoftFaults ∧
    Sys2Proof.Claims.NotCarriedTraps

/-- 13/R344, 13/R345, 13/R346, 13/R347, 13/R348, 13/R349: `soft.st` sends one record for every active lane; `soft.ld` and
`soft.ldg` enter one load for every element of every entry of each active lane, at the element's own home, and `soft.ldg`
sends records to the twin; `soft.harden` writes indices and a weight of 1.0 at the chosen entry. -/
def Obligations.SoftInstructions : Prop :=
  Sys2Proof.Claims.SoftStoreSendsRecords ∧
    Sys2Proof.Claims.SoftLoadsEntered ∧
    Sys2Proof.Claims.SoftHardenPoints

/-- 10/R266, 10/R267, 07/R159, 07/R161, 08/R203, 08/R206, 09/R258, 13/R346, 13/R349, 03/R79: performing a load of an `s` register
or pair writes it with the bytes at its place, performing a store writes its bytes and no others, performing an integer
atomic replaces the number at its place by the operation's result, and the `s` register or pair that it returns to takes the
old one; an access that returns to an operand-log slot finishes its lane: a lane load or atomic, an elastic load with its
value narrowed as its destination needs, a soft load with the chains of its elements and weights; an entry that may not be
performed yet stays. -/
def Obligations.PerformStep : Prop :=
  Sys2Proof.Claims.PerformStep ∧
    Sys2Proof.Claims.LaneReturns

/-- 02/R32, 02/R33, 02/R34, 03/R54, 03/R81, 15/R395, 15/R396: a queued block starts at its index with the whole team's path mask
and an empty stack, and registers added since the block before read as zero (a held block has the registers of its own put by
while a handler's blocks use their numbers: the model's reading, log entry 74); a slot whose hold was answered with RETRY, or
that nothing holds, enters the accesses of its unfinished lanes again, and one of which lanes have faulted traps once none is
in flight, with the lowest cause. -/
def Obligations.BlocksAndReplays : Prop :=
  Sys2Proof.Claims.BlockStarts ∧
    Sys2Proof.Claims.OperandLogReplays

/-- 14/R362, 14/R367, 14/R371, 14/R372, 10/R281: a visitor that reaches `lhome`, `lret` or `vsync` goes home whole; a
continuation is delivered to an inbox, starts as a visitor, and on its return is merged into its team's lanes; which
continuation the channel takes first among partitions is the arbiter's of 17/R447, as the model compares them (its choice,
log entry 118). -/
def Obligations.Migration : Prop :=
  Sys2Proof.Claims.VisitorReturns ∧
    Sys2Proof.Claims.ContinuationSteps

/-- 11/R283, 11/R284, 11/R286, 11/R287, 11/R292, 11/R293, 11/R294, 11/R295, 11/R296, 11/R297, 11/R303, 11/R304: a channel starts
its first chain and fetches records at the next address, stopping on one that breaks R296, after which it fetches no more; a
copying record writes each part at its destination; ARRIVE makes its arrivals; a record whose work is done retires with
STATUS 0, one with BAR = 1 after paying its bytes at its live barrier word, and with the last one the chain ends and OUT
falls. -/
def Obligations.KettleChains : Prop :=
  Sys2Proof.Claims.ChainFetching ∧
    Sys2Proof.Claims.ArriveAndRetire ∧
    Sys2Proof.Claims.KettleCopies
end

