-- ==== Sys2Proof/Laws/Bytes.lean ====
section
/-!
SUPPORT. Numbers as bytes (00/R2): reading back what was written, fields of joined bytes, and the CRC of a flit (16/R427).
-/

namespace Sys2Proof.Machine

theorem length_leBytes (n v : Nat) : (leBytes n v).length = n := by
  induction n generalizing v with
  | zero => rfl
  | succ k ih => simp [leBytes, ih]

theorem leNat_lt (bs : List Byte) : leNat bs < 2 ^ (8 * bs.length) := by
  induction bs with
  | nil => exact Nat.zero_lt_one
  | cons b r ih => have := b.isLt; rw [List.length_cons, Nat.mul_succ, Nat.pow_add, leNat]; omega

theorem toNat_leNat {w : Nat} {bs : List Byte} (h : w = 8 * bs.length) : (BitVec.ofNat w (leNat bs)).toNat = leNat bs := by
  subst h
  rw [BitVec.toNat_ofNat, Nat.mod_eq_of_lt (leNat_lt bs)]

/-- Reading back the bytes of a number that fits. -/
theorem leNat_leBytes (n v : Nat) (h : v < 256 ^ n) : leNat (leBytes n v) = v := by
  induction n generalizing v with
  | zero => simp at h; simp [leBytes, leNat, h]
  | succ k ih =>
    have h2 : v / 256 < 256 ^ k := by rw [Nat.pow_succ] at h; omega
    simp only [leBytes, leNat, ih _ h2, BitVec.toNat_ofNat]; omega

/-- The bytes of the number that bytes make are those bytes. -/
theorem leBytes_leNat (bs : List Byte) : leBytes bs.length (leNat bs) = bs := by
  induction bs with
  | nil => rfl
  | cons b r ih =>
    have hb := b.isLt
    have h1 : (b.toNat + 256 * leNat r) / 256 = leNat r := by omega
    simp only [List.length_cons, leNat, leBytes, h1, ih]
    congr 1
    apply BitVec.eq_of_toNat_eq
    simp only [BitVec.toNat_ofNat]; omega

/-- A field of the first of two joined lists. -/
theorem bytesAt_append (a b : List Byte) (off n : Nat) (h : off + n ≤ a.length) : bytesAt (a ++ b) off n = bytesAt a off n := by
  unfold bytesAt
  rw [List.drop_append_of_le_length (by omega), List.take_append_of_le_length (by rw [List.length_drop]; omega)]

/-- A flit that carries the CRC of its first 248 bytes is taken as intact. -/
theorem crc_flit (b : List Byte) (h : b.length = 248) :
    let bs := leBytes 256 (BitVec.ofNat 2048 (leNat (b ++ w64le (crc64 b)))).toNat
    bs = b ++ w64le (crc64 b) ∧ crc64 (bs.take 248) = dwordAt bs 248 := by
  have hl : (b ++ w64le (crc64 b)).length = 256 := by simp [h, w64le, length_leBytes]
  have hb : leBytes 256 (BitVec.ofNat 2048 (leNat (b ++ w64le (crc64 b)))).toNat = b ++ w64le (crc64 b) := by
    have h2 := leBytes_leNat (b ++ w64le (crc64 b))
    rw [hl] at h2
    rw [toNat_leNat (w := 2048) (by rw [hl]), h2]
  refine ⟨hb, ?_⟩
  rw [hb]
  have h3 : (w64le (crc64 b)).take 8 = w64le (crc64 b) := List.take_of_length_le (by simp [w64le, length_leBytes])
  simp only [dwordAt, natAt, bytesAt, List.drop_append, List.take_append, h, List.take_of_length_le (Nat.le_of_eq h),
    List.drop_of_length_le (Nat.le_of_eq h), Nat.sub_self, List.take_zero, List.append_nil, List.nil_append, List.drop_zero, h3]
  have h4 : leNat (w64le (crc64 b)) = (crc64 b).toNat := leNat_leBytes 8 _ (by have := (crc64 b).isLt; simpa using this)
  rw [h4]; simp
end Sys2Proof.Machine
end

