-- ==== Sys2Proof/Laws/Memory.lean ====
section
/-!
SUPPORT. The laws of byte memories: every operation keeps the canonical form; reading after writing; and that the
memories at reset have the form.
-/

namespace Sys2Proof.Machine

/-! ### The canonical form is kept -/

theorem Memory.above_of_lt {lo hi : Nat} {m : Memory} (h : Memory.above hi m = true) (hl : lo < hi) :
    Memory.above lo m = true := by
  cases m with
  | nil => rfl
  | cons c r => simp only [Memory.above, decide_eq_true_eq] at *; omega

theorem Memory.wf_cons {k : Nat} {b : Byte} {m : Memory} :
    Memory.wf ((k, b) :: m) = true ↔ b ≠ 0 ∧ Memory.above k m = true ∧ m.wf = true := by
  simp [Memory.wf, and_assoc]

theorem Memory.above_write {lo a : Nat} {m : Memory} {b : Byte} (h : Memory.above lo m = true) (ha : lo < a)
    (hm : m.wf = true) : Memory.above lo (m.write a b) = true := by
  cases m with
  | nil => unfold Memory.write; split <;> simp [Memory.above, ha]
  | cons c r =>
    obtain ⟨k, c⟩ := c
    have hk : lo < k := by simpa [Memory.above] using h
    have hr : Memory.above lo r = true := Memory.above_of_lt (Memory.wf_cons.mp hm).2.1 hk
    unfold Memory.write
    split
    · split <;> simp [Memory.above, ha, hk]
    · split
      · split <;> simp_all [Memory.above]
      · simp [Memory.above, hk]

/-- A write keeps the canonical form. -/
theorem Memory.wf_write {m : Memory} (hm : m.wf = true) (a : Nat) (b : Byte) : (m.write a b).wf = true := by
  induction m with
  | nil => unfold Memory.write; split <;> simp_all [Memory.wf, Memory.above]
  | cons c r ih =>
    obtain ⟨k, c⟩ := c
    obtain ⟨h1, h2, h3⟩ := Memory.wf_cons.mp hm
    unfold Memory.write
    split
    · split
      · exact hm
      · exact Memory.wf_cons.mpr ⟨by assumption, by simpa [Memory.above], hm⟩
    · split
      · split
        · exact h3
        · exact Memory.wf_cons.mpr ⟨by assumption, by simp_all, h3⟩
      · exact Memory.wf_cons.mpr ⟨h1, Memory.above_write h2 (by omega) h3, ih h3⟩

theorem Memory.wf_writeN {m : Memory} (hm : m.wf = true) (a : Nat) (bs : List Byte) : (m.writeN a bs).wf = true := by
  induction bs generalizing m a with
  | nil => exact hm
  | cons b r ih => exact ih (Memory.wf_write hm a b) (a + 1)

theorem Memory.above_filter {lo : Nat} {m : Memory} (p : Host.Cell → Bool) (h : Memory.above lo m = true)
    (hm : m.wf = true) : Memory.above lo (m.filter p) = true := by
  induction m with
  | nil => rfl
  | cons c r ih =>
    obtain ⟨k, c⟩ := c
    have hk : lo < k := by simpa [Memory.above] using h
    obtain ⟨-, h2, h3⟩ := Memory.wf_cons.mp hm
    rw [List.filter_cons]
    split
    · simp [Memory.above, hk]
    · exact ih (Memory.above_of_lt h2 hk) h3

theorem Memory.wf_filter {m : Memory} (p : Host.Cell → Bool) (hm : m.wf = true) : Memory.wf (m.filter p) = true := by
  induction m with
  | nil => rfl
  | cons c r ih =>
    obtain ⟨k, c⟩ := c
    obtain ⟨h1, h2, h3⟩ := Memory.wf_cons.mp hm
    rw [List.filter_cons]
    split
    · exact Memory.wf_cons.mpr ⟨h1, Memory.above_filter p h2 h3, ih h3⟩
    · exact ih h3

theorem Memory.wf_clear {m : Memory} (hm : m.wf = true) (lo n : Nat) : (m.clear lo n).wf = true :=
  Memory.wf_filter _ hm

/-! ### Reading after writing -/

theorem Memory.read_cons (k : Nat) (b : Byte) (m : Memory) (a : Nat) :
    Memory.read ((k, b) :: m) a = if k = a then b else if a < k then 0 else m.read a := rfl

/-- Below its first address a memory reads as zero. -/
theorem Memory.read_below {m : Memory} {lo a : Nat} (h : Memory.above lo m = true) (ha : a ≤ lo) : m.read a = 0 := by
  cases m with
  | nil => rfl
  | cons c r =>
    obtain ⟨k, c⟩ := c
    have hk : lo < k := by simpa [Memory.above] using h
    unfold Memory.read
    rw [if_neg (by omega), if_pos (by omega)]

/-- A read after a write to the same address gives the byte written. -/
theorem Memory.read_write_self {m : Memory} (hm : m.wf = true) (a : Nat) (b : Byte) : (m.write a b).read a = b := by
  induction m with
  | nil => unfold Memory.write; split <;> simp_all [Memory.read]
  | cons c r ih =>
    obtain ⟨k, c⟩ := c
    obtain ⟨h1, h2, h3⟩ := Memory.wf_cons.mp hm
    unfold Memory.write
    split
    · split
      · subst_vars; unfold Memory.read; rw [if_neg (by omega), if_pos (by assumption)]
      · simp [Memory.read]
    · split
      · split
        · subst_vars; exact Memory.read_below h2 (Nat.le_refl _)
        · simp [Memory.read]
      · unfold Memory.read
        rw [if_neg (by omega), if_neg (by assumption)]
        exact ih h3

/-- A write leaves every other address alone. -/
theorem Memory.read_write_ne {m : Memory} (hm : m.wf = true) {a x : Nat} (b : Byte) (h : x ≠ a) :
    (m.write a b).read x = m.read x := by
  induction m with
  | nil => unfold Memory.write; split <;> simp [Memory.read, Ne.symm h]
  | cons c r ih =>
    obtain ⟨k, c⟩ := c
    obtain ⟨h1, h2, h3⟩ := Memory.wf_cons.mp hm
    unfold Memory.write
    split
    · split
      · rfl
      · rw [Memory.read_cons, if_neg (Ne.symm h)]
        split
        · rw [Memory.read_cons, if_neg (by omega), if_pos (by omega)]
        · rfl
    · split
      · subst_vars
        split
        · by_cases hx : x < k
          · rw [Memory.read_below h2 (by omega)]; simp [Memory.read, Ne.symm h, hx]
          · rw [Memory.read_cons, if_neg (Ne.symm h), if_neg hx]
        · simp [Memory.read, Ne.symm h]
      · rw [Memory.read_cons, Memory.read_cons, ih h3]

theorem Memory.read_writeN_out {m : Memory} (hm : m.wf = true) {a x : Nat} (bs : List Byte)
    (h : x < a ∨ a + bs.length ≤ x) : (m.writeN a bs).read x = m.read x := by
  induction bs generalizing m a with
  | nil => rfl
  | cons b r ih =>
    simp only [List.length_cons] at h
    rw [Memory.writeN, ih (Memory.wf_write hm a b) (by omega), Memory.read_write_ne hm _ (by omega)]

theorem Memory.read_writeN_in {m : Memory} (hm : m.wf = true) {a k : Nat} (bs : List Byte) (h : k < bs.length) :
    (m.writeN a bs).read (a + k) = bs[k] := by
  induction bs generalizing m a k with
  | nil => simp at h
  | cons b r ih =>
    rw [Memory.writeN]
    cases k with
    | zero =>
      rw [Memory.read_writeN_out (Memory.wf_write hm a b) _ (by omega)]
      simpa using Memory.read_write_self hm a b
    | succ j =>
      have e : a + (j + 1) = a + 1 + j := by omega
      rw [e, ih (Memory.wf_write hm a b) (by simpa using h)]
      simp

theorem Memory.readN_length (m : Memory) (a n : Nat) : (m.readN a n).length = n := by
  induction n generalizing a with
  | zero => rfl
  | succ k ih => simp [Memory.readN, ih]

/-- Bytes read back as they were written. -/
theorem Memory.readN_writeN {m : Memory} (hm : m.wf = true) (a : Nat) (bs : List Byte) :
    (m.writeN a bs).readN a bs.length = bs := by
  have key : ∀ (n : Nat) (m' : Memory) (a' : Nat), ∀ (k : Nat) (hk : k < n),
      (m'.readN a' n)[k]'(by rw [Memory.readN_length]; exact hk) = m'.read (a' + k) := by
    intro n
    induction n with
    | zero => intro _ _ k hk; omega
    | succ j ih =>
      intro m' a' k hk
      cases k with
      | zero => simp [Memory.readN]
      | succ i =>
        simp only [Memory.readN, List.getElem_cons_succ]
        rw [ih m' (a' + 1) i (by omega)]
        congr 1; omega
  apply List.ext_getElem
  · rw [Memory.readN_length]
  · intro k h1 h2
    rw [key _ _ _ k h2, Memory.read_writeN_in hm bs h2]

/-! ### Equal bytes make equal memories -/

/-- Two memories in canonical form that read alike are the same list. -/
theorem Memory.ext_wf {m n : Memory} (hm : m.wf = true) (hn : n.wf = true) (h : ∀ a, m.read a = n.read a) : m = n := by
  induction m generalizing n with
  | nil =>
    cases n with
    | nil => rfl
    | cons c r =>
      obtain ⟨k, c⟩ := c
      have := h k
      simp [Memory.read] at this
      exact absurd this.symm (Memory.wf_cons.mp hn).1
  | cons c r ih =>
    obtain ⟨k, c⟩ := c
    obtain ⟨h1, h2, h3⟩ := Memory.wf_cons.mp hm
    cases n with
    | nil =>
      have := h k
      simp [Memory.read] at this
      exact absurd this h1
    | cons d q =>
      obtain ⟨j, d⟩ := d
      obtain ⟨g1, g2, g3⟩ := Memory.wf_cons.mp hn
      have hk := h k
      have hj := h j
      simp only [Memory.read, if_true] at hk hj
      have hkj : k = j := by
        refine Decidable.byContradiction (fun hne => ?_)
        rcases Nat.lt_or_gt_of_ne hne with hl | hl
        · rw [if_neg (Ne.symm hne), if_pos hl] at hk; exact h1 hk
        · rw [if_neg hne, if_pos hl] at hj; exact g1 hj.symm
      subst hkj
      simp only [if_true] at hk
      subst hk
      congr 1
      apply ih h3 g3
      intro a
      by_cases ha : a ≤ k
      · rw [Memory.read_below h2 ha, Memory.read_below g2 ha]
      · have := h a
        simp only [Memory.read] at this
        rwa [if_neg (by omega), if_neg (by omega), if_neg (by omega), if_neg (by omega)] at this

/-! ### Reset -/

/-- At reset every memory of the part is in canonical form. -/
theorem State.reset_memOk : State.reset.memOk := by
  refine ⟨rfl, rfl, ?_, ?_⟩
  · intro G h; exact absurd h (by simp [State.reset])
  · intro c; simp [State.cluster, State.reset, vget, Cluster.reset, Memory.wf]

end Sys2Proof.Machine
end

