-- ==== Sys2Proof/Laws/PerInstr.lean ====
section
/-!
SUPPORT. A law of every instruction as syntax: it is encoded in no word, in one or in three (05/R115, R123), and in one
exactly when it is an S instruction.
-/

namespace Sys2Proof.Laws.Words

/-- The words of an instruction: one for an S instruction, three for an L instruction, none for a step of another
agent. -/
def Statement (i : Instr) : Prop :=
  ((encode i).length = 0 ∨ (encode i).length = 1 ∨ (encode i).length = 3) ∧
    ((encode i).length = 1 ↔ (encodeS i).isSome = true)

theorem any (i : Instr) : Statement i := by
  unfold Statement encode
  cases encodeS i with
  | some w => exact ⟨.inr (.inl rfl), fun _ => rfl, fun _ => rfl⟩
  | none =>
    cases encodeL i with
    | some w => exact ⟨.inr (.inr rfl), fun h => absurd h (by show ¬(3 = 1); decide), fun h => absurd h (by decide)⟩
    | none => exact ⟨.inl rfl, fun h => absurd h (by show ¬(0 = 1); decide), fun h => absurd h (by decide)⟩

theorem add (d a b : BitVec 6) : Statement (.add d a b) := any _
theorem sub (d a b : BitVec 6) : Statement (.sub d a b) := any _
theorem mul (d a b : BitVec 6) : Statement (.mul d a b) := any _
theorem mulh (d a b : BitVec 6) : Statement (.mulh d a b) := any _
theorem mulhu (d a b : BitVec 6) : Statement (.mulhu d a b) := any _
theorem div (d a b : BitVec 6) : Statement (.div d a b) := any _
theorem divu (d a b : BitVec 6) : Statement (.divu d a b) := any _
theorem rem (d a b : BitVec 6) : Statement (.rem d a b) := any _
theorem remu (d a b : BitVec 6) : Statement (.remu d a b) := any _
theorem and (d a b : BitVec 6) : Statement (.and d a b) := any _
theorem or (d a b : BitVec 6) : Statement (.or d a b) := any _
theorem xor (d a b : BitVec 6) : Statement (.xor d a b) := any _
theorem andn (d a b : BitVec 6) : Statement (.andn d a b) := any _
theorem shl (d a b : BitVec 6) : Statement (.shl d a b) := any _
theorem shr (d a b : BitVec 6) : Statement (.shr d a b) := any _
theorem sra (d a b : BitVec 6) : Statement (.sra d a b) := any _
theorem rot (d a b : BitVec 6) : Statement (.rot d a b) := any _
theorem min (d a b : BitVec 6) : Statement (.min d a b) := any _
theorem minu (d a b : BitVec 6) : Statement (.minu d a b) := any _
theorem max (d a b : BitVec 6) : Statement (.max d a b) := any _
theorem maxu (d a b : BitVec 6) : Statement (.maxu d a b) := any _
theorem clz (d a : BitVec 6) : Statement (.clz d a) := any _
theorem popc (d a : BitVec 6) : Statement (.popc d a) := any _
theorem seq (d a b : BitVec 6) : Statement (.seq d a b) := any _
theorem sne (d a b : BitVec 6) : Statement (.sne d a b) := any _
theorem slt (d a b : BitVec 6) : Statement (.slt d a b) := any _
theorem sltu (d a b : BitVec 6) : Statement (.sltu d a b) := any _
theorem sle (d a b : BitVec 6) : Statement (.sle d a b) := any _
theorem sleu (d a b : BitVec 6) : Statement (.sleu d a b) := any _
theorem addi (d a : BitVec 6) (imm : BitVec 14) : Statement (.addi d a imm) := any _
theorem andi (d a : BitVec 6) (imm : BitVec 14) : Statement (.andi d a imm) := any _
theorem ori (d a : BitVec 6) (imm : BitVec 14) : Statement (.ori d a imm) := any _
theorem xori (d a : BitVec 6) (imm : BitVec 14) : Statement (.xori d a imm) := any _
theorem shli (d a : BitVec 6) (n : BitVec 5) : Statement (.shli d a n) := any _
theorem shri (d a : BitVec 6) (n : BitVec 5) : Statement (.shri d a n) := any _
theorem srai (d a : BitVec 6) (n : BitVec 5) : Statement (.srai d a n) := any _
theorem roti (d a : BitVec 6) (n : BitVec 5) : Statement (.roti d a n) := any _
theorem slti (d a : BitVec 6) (imm : BitVec 14) : Statement (.slti d a imm) := any _
theorem lui (d : BitVec 6) (imm : BitVec 20) : Statement (.lui d imm) := any _
theorem dadd (d a b : BitVec 6) : Statement (.dadd d a b) := any _
theorem dsub (d a b : BitVec 6) : Statement (.dsub d a b) := any _
theorem dshl (d a b : BitVec 6) : Statement (.dshl d a b) := any _
theorem dshr (d a b : BitVec 6) : Statement (.dshr d a b) := any _
theorem dsra (d a b : BitVec 6) : Statement (.dsra d a b) := any _
theorem daddi (d a : BitVec 6) (imm : BitVec 14) : Statement (.daddi d a imm) := any _
theorem rdx (d : BitVec 6) (n : BitVec 8) : Statement (.rdx d n) := any _
theorem wrx (a : BitVec 6) (n : BitVec 8) : Statement (.wrx a n) := any _
theorem ld (d : BitVec 6) (q : BitVec 5) (sz : BitVec 2) (imm : BitVec 13) : Statement (.ld d q sz imm) := any _
theorem st (d : BitVec 6) (q : BitVec 5) (sz : BitVec 2) (imm : BitVec 13) : Statement (.st d q sz imm) := any _
theorem atom (d a b : BitVec 6) (order scope : BitVec 2) (op : BitVec 4) : Statement (.atom d a b order scope op) := any _
theorem lds (d : BitVec 6) (q : BitVec 5) (sz : BitVec 2) (imm : BitVec 13) : Statement (.lds d q sz imm) := any _
theorem sts (d : BitVec 6) (q : BitVec 5) (sz : BitVec 2) (imm : BitVec 13) : Statement (.sts d q sz imm) := any _
theorem atoms (d a b : BitVec 6) (order scope : BitVec 2) (op : BitVec 4) : Statement (.atoms d a b order scope op) := any _
theorem fence (order : BitVec 2) (scope : BitVec 3) : Statement (.fence order scope) := any _
theorem rfence : Statement (.rfence) := any _
theorem bCond (a : BitVec 6) (cond : BitVec 4) (off : BitVec 16) : Statement (.bCond a cond off) := any _
theorem jmp (off : BitVec 26) : Statement (.jmp off) := any _
theorem call (off : BitVec 26) : Statement (.call off) := any _
theorem jr (a : BitVec 6) : Statement (.jr a) := any _
theorem ret (a : BitVec 6) : Statement (.ret a) := any _
theorem lrun (index : BitVec 26) : Statement (.lrun index) := any _
theorem lwait : Statement (.lwait) := any _
theorem lget (d : BitVec 6) (slot : BitVec 3) : Statement (.lget d slot) := any _
theorem grow (k : BitVec 4) : Statement (.grow k) := any _
theorem shrink (k : BitVec 4) : Statement (.shrink k) := any _
theorem cjoin (kind : BitVec 1) (n : BitVec 6) : Statement (.cjoin kind n) := any _
theorem cleave (kind : BitVec 1) (n : BitVec 6) : Statement (.cleave kind n) := any _
theorem csync (kind : BitVec 1) (n : BitVec 6) : Statement (.csync kind n) := any _
theorem cinfo (d : BitVec 6) (kind : BitVec 1) (n : BitVec 6) : Statement (.cinfo d kind n) := any _
theorem pour (a : BitVec 6) : Statement (.pour a) := any _
theorem withdraw (a : BitVec 6) : Statement (.withdraw a) := any _
theorem endTeam : Statement (.endTeam) := any _
theorem yield : Statement (.yield) := any _
theorem tresume : Statement (.tresume) := any _
theorem tresumeAt (a : BitVec 6) : Statement (.tresumeAt a) := any _
theorem kpour (a : BitVec 6) (tok ch : BitVec 3) : Statement (.kpour a tok ch) := any _
theorem twait (mask : BitVec 8) : Statement (.twait mask) := any _
theorem tprobe (d : BitVec 6) (mask : BitVec 8) : Statement (.tprobe d mask) := any _
theorem binit (a b c : BitVec 6) : Statement (.binit a b c) := any _
theorem barrive (a b : BitVec 6) : Statement (.barrive a b) := any _
theorem bexpect (a b : BitVec 6) : Statement (.bexpect a b) := any _
theorem bwait (a b c : BitVec 6) : Statement (.bwait a b c) := any _
theorem binval (a : BitVec 6) : Statement (.binval a) := any _
theorem mcrew (a : BitVec 6) : Statement (.mcrew a) := any _
theorem bput (a b : BitVec 6) (tok : BitVec 3) : Statement (.bput a b tok) := any _
theorem mma (a b c : BitVec 6) (tok : BitVec 3) (crew sparse orient : BitVec 1) : Statement (.mma a b c tok crew sparse orient) := any _
theorem accld (a c : BitVec 6) (tok : BitVec 3) : Statement (.accld a c tok) := any _
theorem accst (a c : BitVec 6) (tok : BitVec 3) : Statement (.accst a c tok) := any _
theorem mxreq (a b : BitVec 6) (tok : BitVec 3) : Statement (.mxreq a b tok) := any _
theorem mstat (d : BitVec 6) : Statement (.mstat d) := any _
theorem steepClose (k : BitVec 6) : Statement (.steepClose k) := any _
theorem steepWait (a : BitVec 6) (k : BitVec 6) : Statement (.steepWait a k) := any _
theorem steepGrad (d a : BitVec 6) (k : BitVec 6) : Statement (.steepGrad d a k) := any _
theorem sysr (d : BitVec 6) (r : BitVec 12) : Statement (.sysr d r) := any _
theorem sysw (a : BitVec 6) (r : BitVec 12) : Statement (.sysw a r) := any _
theorem eret : Statement (.eret) := any _
theorem tinval (a : BitVec 6) : Statement (.tinval a) := any _
theorem tsync : Statement (.tsync) := any _
theorem ctxsave (a : BitVec 6) : Statement (.ctxsave a) := any _
theorem ctxload (a : BitVec 6) : Statement (.ctxload a) := any _
theorem fqpop (d : BitVec 6) : Statement (.fqpop d) := any _
theorem svc (imm : BitVec 20) : Statement (.svc imm) := any _
theorem vadd (f : LF) : Statement (.vadd f) := any _
theorem vsub (f : LF) : Statement (.vsub f) := any _
theorem vmul (f : LF) : Statement (.vmul f) := any _
theorem vmulh (f : LF) : Statement (.vmulh f) := any _
theorem vmad (f : LF) : Statement (.vmad f) := any _
theorem vdiv (f : LF) : Statement (.vdiv f) := any _
theorem vrem (f : LF) : Statement (.vrem f) := any _
theorem vneg (f : LF) : Statement (.vneg f) := any _
theorem vabs (f : LF) : Statement (.vabs f) := any _
theorem vand (f : LF) : Statement (.vand f) := any _
theorem vor (f : LF) : Statement (.vor f) := any _
theorem vxor (f : LF) : Statement (.vxor f) := any _
theorem vandn (f : LF) : Statement (.vandn f) := any _
theorem vshl (f : LF) : Statement (.vshl f) := any _
theorem vshr (f : LF) : Statement (.vshr f) := any _
theorem vsra (f : LF) : Statement (.vsra f) := any _
theorem vrot (f : LF) : Statement (.vrot f) := any _
theorem vmin (f : LF) : Statement (.vmin f) := any _
theorem vmax (f : LF) : Statement (.vmax f) := any _
theorem vclz (f : LF) : Statement (.vclz f) := any _
theorem vpopc (f : LF) : Statement (.vpopc f) := any _
theorem vcmp (f : LF) : Statement (.vcmp f) := any _
theorem vsel (f : LF) : Statement (.vsel f) := any _
theorem vmov (f : LF) : Statement (.vmov f) := any _
theorem vmovImm (ty : LType) (ms : BitVec 3) (d : Dst) (imm : BitVec 64) : Statement (.vmovImm ty ms d imm) := any _
theorem vlea (f : LF) : Statement (.vlea f) := any _
theorem vbfx (f : LF) : Statement (.vbfx f) := any _
theorem vbfi (f : LF) : Statement (.vbfi f) := any _
theorem vsqrt (f : LF) : Statement (.vsqrt f) := any _
theorem vrcp (f : LF) : Statement (.vrcp f) := any _
theorem vrsq (f : LF) : Statement (.vrsq f) := any _
theorem vexp2 (f : LF) : Statement (.vexp2 f) := any _
theorem vlog2 (f : LF) : Statement (.vlog2 f) := any _
theorem vcls (f : LF) : Statement (.vcls f) := any _
theorem vfinq (f : LF) : Statement (.vfinq f) := any _
theorem vcvt (f : LF) : Statement (.vcvt f) := any _
theorem vcvtSr (f : LF) : Statement (.vcvtSr f) := any _
theorem vmxq (f : LF) : Statement (.vmxq f) := any _
theorem vmxd (f : LF) : Statement (.vmxd f) := any _
theorem vprune (f : LF) : Statement (.vprune f) := any _
theorem vrng (f : LF) : Statement (.vrng f) := any _
theorem ewin (f : LF) : Statement (.ewin f) := any _
theorem eprec (f : LF) : Statement (.eprec f) := any _
theorem eround (f : LF) : Statement (.eround f) := any _
theorem esig (f : LF) : Statement (.esig f) := any _
theorem eld (f : LF) : Statement (.eld f) := any _
theorem eldn (f : LF) : Statement (.eldn f) := any _
theorem est (f : LF) : Statement (.est f) := any _
theorem vld (f : LF) : Statement (.vld f) := any _
theorem vst (f : LF) : Statement (.vst f) := any _
theorem vatom (f : LF) : Statement (.vatom f) := any _
theorem vlds (f : LF) : Statement (.vlds f) := any _
theorem vsts (f : LF) : Statement (.vsts f) := any _
theorem vatoms (f : LF) : Statement (.vatoms f) := any _
theorem vmcast (f : LF) : Statement (.vmcast f) := any _
theorem vprf (f : LF) : Statement (.vprf f) := any _
theorem vfence (f : LF) : Statement (.vfence f) := any _
theorem vstage (ew : Bool) (imm : BitVec 64) : Statement (.vstage ew imm) := any _
theorem softLd (f : LF) : Statement (.softLd f) := any _
theorem softSt (f : LF) : Statement (.softSt f) := any _
theorem softHarden (f : LF) : Statement (.softHarden f) := any _
theorem softLdg (f : LF) : Statement (.softLdg f) := any _
theorem vballot (f : LF) : Statement (.vballot f) := any _
theorem vrank (f : LF) : Statement (.vrank f) := any _
theorem vswz (f : LF) : Statement (.vswz f) := any _
theorem vbcast (f : LF) : Statement (.vbcast f) := any _
theorem vred (f : LF) : Statement (.vred f) := any _
theorem vscan (f : LF) : Statement (.vscan f) := any _
theorem mand (f : LF) : Statement (.mand f) := any _
theorem mor (f : LF) : Statement (.mor f) := any _
theorem mxor (f : LF) : Statement (.mxor f) := any _
theorem mnot (f : LF) : Statement (.mnot f) := any _
theorem mmov (f : LF) : Statement (.mmov f) := any _
theorem vsync (f : LF) : Statement (.vsync f) := any _
theorem vput (f : LF) : Statement (.vput f) := any _
theorem lif (f : LF) : Statement (.lif f) := any _
theorem lelse (f : LF) : Statement (.lelse f) := any _
theorem lfi (f : LF) : Statement (.lfi f) := any _
theorem ldo (f : LF) : Statement (.ldo f) := any _
theorem lwhile (f : LF) : Statement (.lwhile f) := any _
theorem lod (f : LF) : Statement (.lod f) := any _
theorem lret (f : LF) : Statement (.lret f) := any _
theorem lhome (f : LF) : Statement (.lhome f) := any _
theorem lfmt (f : LF) : Statement (.lfmt f) := any _
theorem ltrap (f : LF) : Statement (.ltrap f) := any _
theorem lnop (f : LF) : Statement (.lnop f) := any _
theorem vaway (f : LF) : Statement (.vaway f) := any _
theorem vrdx (f : LF) : Statement (.vrdx f) := any _
theorem blockStart (team : Nat) : Statement (.blockStart team) := any _
theorem deliver (n : Nat) : Statement (.deliver n) := any _
theorem perform (n : Nat) : Statement (.perform n) := any _
theorem continuationDeliver (n : Nat) : Statement (.continuationDeliver n) := any _
theorem visitorStart (die core : Nat) : Statement (.visitorStart die core) := any _
theorem returnMerge (n : Nat) : Statement (.returnMerge n) := any _
theorem operandLogReplay (team slot : Nat) : Statement (.operandLogReplay team slot) := any _
theorem jobRelease (cluster job : Nat) : Statement (.jobRelease cluster job) := any _
theorem chainStart (cluster ch : Nat) : Statement (.chainStart cluster ch) := any _
theorem kettleFetch (cluster ch : Nat) : Statement (.kettleFetch cluster ch) := any _
theorem linear (cluster ch r lo n : Nat) : Statement (.linear cluster ch r lo n) := any _
theorem tile (cluster ch r lo n : Nat) : Statement (.tile cluster ch r lo n) := any _
theorem gather (cluster ch r lo n : Nat) : Statement (.gather cluster ch r lo n) := any _
theorem arrive (cluster ch r : Nat) : Statement (.arrive cluster ch r) := any _
theorem fill (cluster ch r lo n : Nat) : Statement (.fill cluster ch r lo n) := any _
theorem recordRetire (cluster ch r : Nat) : Statement (.recordRetire cluster ch r) := any _
theorem holderGrant (cluster : Nat) : Statement (.holderGrant cluster) := any _
theorem mmaJob (cluster job n : Nat) : Statement (.mmaJob cluster job n) := any _
theorem bputJob (cluster job n : Nat) : Statement (.bputJob cluster job n) := any _
theorem accldJob (cluster job n : Nat) : Statement (.accldJob cluster job n) := any _
theorem accstJob (cluster job n : Nat) : Statement (.accstJob cluster job n) := any _
theorem mxreqJob (cluster job n : Nat) : Statement (.mxreqJob cluster job n) := any _
theorem jobEnd (cluster job : Nat) : Statement (.jobEnd cluster job) := any _
theorem steepApply (caddy : Nat) : Statement (.steepApply caddy) := any _
theorem faultQueuePost (part n : Nat) : Statement (.faultQueuePost part n) := any _
theorem sweepComplete (part n : Nat) : Statement (.sweepComplete part n) := any _
theorem contextImageWrite (gang : Nat) : Statement (.contextImageWrite gang) := any _
theorem quarantineRelease (cluster n : Nat) : Statement (.quarantineRelease cluster n) := any _
theorem dieReport (die : Nat) : Statement (.dieReport die) := any _
theorem dealRound (part : Nat) : Statement (.dealRound part) := any _
theorem launchAccept (part : Nat) : Statement (.launchAccept part) := any _
theorem completionRecord (part : Nat) : Statement (.completionRecord part) := any _
theorem budgetPeriod : Statement (.budgetPeriod) := any _
theorem pcreate (ok : Bool) : Statement (.pcreate ok) := any _
theorem pdestroy (ok : Bool) : Statement (.pdestroy ok) := any _
theorem grant (ok : Bool) : Statement (.grant ok) := any _
theorem revoke (ok : Bool) : Statement (.revoke ok) := any _
theorem kill (ok : Bool) : Statement (.kill ok) := any _
theorem save (ok : Bool) : Statement (.save ok) := any _
theorem statesync (ok : Bool) : Statement (.statesync ok) := any _
theorem quote (ok : Bool) : Statement (.quote ok) := any _
theorem peerwin (ok : Bool) : Statement (.peerwin ok) := any _
theorem evbase (part : Nat) (val : BitVec 64) : Statement (.evbase part val) := any _
theorem evset (part : Nat) (val : BitVec 32) : Statement (.evset part val) := any _
theorem evclr (part : Nat) (val : BitVec 32) : Statement (.evclr part val) := any _
theorem wdtag (part : Nat) (val : BitVec 32) : Statement (.wdtag part val) := any _
theorem fqdone (part : Nat) (val : BitVec 32) : Statement (.fqdone part val) := any _
theorem rtail (part q : Nat) (val : BitVec 32) : Statement (.rtail part q val) := any _
theorem fqctl (part : Nat) (val : BitVec 32) : Statement (.fqctl part val) := any _
theorem elctl (part : Nat) (val : BitVec 32) : Statement (.elctl part val) := any _
theorem cctl (part : Nat) (val : BitVec 32) : Statement (.cctl part val) := any _
theorem rctl (part q : Nat) (val : BitVec 32) : Statement (.rctl part q val) := any _
theorem bstat (part : Nat) (val : BitVec 32) : Statement (.bstat part val) := any _
theorem mstatus : Statement (.mstatus) := any _
theorem registerWrite (window : Option Nat) (off : Nat) (val : BitVec 64) : Statement (.registerWrite window off val) := any _
theorem powerOn : Statement (.powerOn) := any _
theorem perst : Statement (.perst) := any _
theorem powerLoss : Statement (.powerLoss) := any _
theorem watchdogExpiry (rom : BitVec 512) (image signature key : List (BitVec 8)) : Statement (.watchdogExpiry rom image signature key) := any _
theorem thermalTrip (die : Nat) : Statement (.thermalTrip die) := any _
theorem data (port : Nat) (flit : BitVec 2048) : Statement (.data port flit) := any _
theorem idle (port : Nat) (flit : BitVec 2048) : Statement (.idle port flit) := any _
theorem write (port : Nat) : Statement (.write port) := any _
theorem reduce (port : Nat) : Statement (.reduce port) := any _
theorem done (port : Nat) : Statement (.done port) := any _
theorem refuse (port : Nat) : Statement (.refuse port) := any _
theorem replayTimeout (port : Nat) : Statement (.replayTimeout port) := any _
theorem linkFail (port : Nat) : Statement (.linkFail port) := any _
theorem portTraining (port : Nat) (ok : Bool) (node : BitVec 6) : Statement (.portTraining port ok node) := any _
theorem trainingRetry (port : Nat) : Statement (.trainingRetry port) := any _
theorem responseTimeout (port : Nat) (tag : BitVec 16) : Statement (.responseTimeout port tag) := any _
theorem cmddoor (link : DoorLink) : Statement (.cmddoor link) := any _
theorem inputWithinRange (rom : BitVec 512) (image signature key : List (BitVec 8)) (site : Site) : Statement (.inputWithinRange rom image signature key site) := any _
theorem ceil (part k : Nat) (val : BitVec 32) : Statement (.ceil part k val) := any _
theorem watchdogWrite : Statement (.watchdogWrite) := any _
theorem measExtension (j : Nat) (digest : BitVec 512) : Statement (.measExtension j digest) := any _
theorem scrubbing (n : Nat) : Statement (.scrubbing n) := any _
theorem fatalError (part : Option Nat) (unit : Nat) : Statement (.fatalError part unit) := any _

end Sys2Proof.Laws.Words
end

