-- ==== Sys2Proof/Laws/State.lean ====
section
/-!
SUPPORT. What the plain updates of the state leave alone and what they change: one lemma for each update and field,
so that no proof unfolds a record update.
-/

namespace Sys2Proof.Machine

/-! ### Lists and vectors -/

theorem modifyAt_length {α : Type} (l : List α) (i : Nat) (f : α → α) : (modifyAt l i f).length = l.length := by
  induction l generalizing i with
  | nil => rfl
  | cons x r ih => cases i <;> simp [modifyAt, ih]

theorem modifyAt_getElem?_self {α : Type} (l : List α) (i : Nat) (f : α → α) : (modifyAt l i f)[i]? = l[i]?.map f := by
  induction l generalizing i with
  | nil => simp [modifyAt]
  | cons x r ih => cases i <;> simp [modifyAt, ih]

theorem modifyAt_getElem?_ne {α : Type} (l : List α) {i j : Nat} (f : α → α) (h : j ≠ i) :
    (modifyAt l i f)[j]? = l[j]? := by
  induction l generalizing i j with
  | nil => simp [modifyAt]
  | cons x r ih =>
    cases i with
    | zero => cases j <;> simp_all [modifyAt]
    | succ k => cases j with
      | zero => simp [modifyAt]
      | succ m => simpa [modifyAt] using ih (fun e => h (by rw [e]))

theorem modifyAt_modifyAt {α : Type} (l : List α) (i : Nat) (f g : α → α) :
    modifyAt (modifyAt l i f) i g = modifyAt l i (fun x => g (f x)) := by
  induction l generalizing i with
  | nil => simp [modifyAt]
  | cons x r ih => cases i <;> simp [modifyAt, ih]

theorem modifyAt_mem {α : Type} {l : List α} {i : Nat} {f : α → α} {y : α} (h : y ∈ modifyAt l i f) :
    y ∈ l ∨ ∃ x ∈ l, y = f x := by
  induction l generalizing i with
  | nil => simp [modifyAt] at h
  | cons x r ih =>
    cases i with
    | zero =>
      simp only [modifyAt, List.mem_cons] at h
      rcases h with h | h
      · exact .inr ⟨x, by simp, h⟩
      · exact .inl (by simp [h])
    | succ k =>
      simp only [modifyAt, List.mem_cons] at h
      rcases h with h | h
      · exact .inl (by simp [h])
      · rcases ih h with h | ⟨z, hz, e⟩
        · exact .inl (by simp [h])
        · exact .inr ⟨z, by simp [hz], e⟩

theorem vget_vmod_self {α : Type} {n : Nat} (v : Vector α (n + 1)) {i : Nat} (f : α → α) (h : i < n + 1) :
    vget (vmod v i f) i = f (vget v i) := by
  simp [vget, vmod, h, Nat.mod_eq_of_lt h]

theorem vget_vmod_ne {α : Type} {n : Nat} (v : Vector α (n + 1)) {i j : Nat} (f : α → α) (hj : j < n + 1) (h : j ≠ i) :
    vget (vmod v i f) j = vget v j := by
  unfold vmod
  split
  · simp [vget, Nat.mod_eq_of_lt hj, Ne.symm h]
  · rfl

theorem vmod_past {α : Type} {n : Nat} (v : Vector α n) {i : Nat} (f : α → α) (h : n ≤ i) : vmod v i f = v := by
  simp [vmod, Nat.not_lt.mpr h]

/-! ### The state's updates, field by field -/

@[simp] theorem State.modTeam_stage (s : State) (t : Nat) (f : Team → Team) : (s.modTeam t f).stage = s.stage := rfl
@[simp] theorem State.modTeam_wdReset (s : State) (t : Nat) (f : Team → Team) : (s.modTeam t f).wdReset = s.wdReset := rfl
@[simp] theorem State.modTeam_cmdAddr (s : State) (t : Nat) (f : Team → Team) : (s.modTeam t f).cmdAddr = s.cmdAddr := rfl
@[simp] theorem State.modTeam_cmdBusy (s : State) (t : Nat) (f : Team → Team) : (s.modTeam t f).cmdBusy = s.cmdBusy := rfl
@[simp] theorem State.modTeam_derr (s : State) (t : Nat) (f : Team → Team) : (s.modTeam t f).derr = s.derr := rfl
@[simp] theorem State.modTeam_cmd (s : State) (t : Nat) (f : Team → Team) : (s.modTeam t f).cmd = s.cmd := rfl
@[simp] theorem State.modTeam_cmdBegun (s : State) (t : Nat) (f : Team → Team) : (s.modTeam t f).cmdBegun = s.cmdBegun := rfl
@[simp] theorem State.modTeam_cmdWait (s : State) (t : Nat) (f : Team → Team) : (s.modTeam t f).cmdWait = s.cmdWait := rfl
@[simp] theorem State.modTeam_meas (s : State) (t : Nat) (f : Team → Team) : (s.modTeam t f).meas = s.meas := rfl
@[simp] theorem State.modTeam_wdTime (s : State) (t : Nat) (f : Team → Team) : (s.modTeam t f).wdTime = s.wdTime := rfl
@[simp] theorem State.modTeam_node (s : State) (t : Nat) (f : Team → Team) : (s.modTeam t f).node = s.node := rfl
@[simp] theorem State.modTeam_pwrCap (s : State) (t : Nat) (f : Team → Team) : (s.modTeam t f).pwrCap = s.pwrCap := rfl
@[simp] theorem State.modTeam_limitsLocked (s : State) (t : Nat) (f : Team → Team) : (s.modTeam t f).limitsLocked = s.limitsLocked := rfl
@[simp] theorem State.modTeam_keyFuse (s : State) (t : Nat) (f : Team → Team) : (s.modTeam t f).keyFuse = s.keyFuse := rfl
@[simp] theorem State.modTeam_thermal (s : State) (t : Nat) (f : Team → Team) : (s.modTeam t f).thermal = s.thermal := rfl
@[simp] theorem State.modTeam_powered (s : State) (t : Nat) (f : Team → Team) : (s.modTeam t f).powered = s.powered := rfl
@[simp] theorem State.modTeam_fused (s : State) (t : Nat) (f : Team → Team) : (s.modTeam t f).fused = s.fused := rfl
@[simp] theorem State.modTeam_fuse (s : State) (t : Nat) (f : Team → Team) : (s.modTeam t f).fuse = s.fuse := rfl
@[simp] theorem State.modTeam_time (s : State) (t : Nat) (f : Team → Team) : (s.modTeam t f).time = s.time := rfl
@[simp] theorem State.modTeam_period (s : State) (t : Nat) (f : Team → Team) : (s.modTeam t f).period = s.period := rfl
@[simp] theorem State.modTeam_irqs (s : State) (t : Nat) (f : Team → Team) : (s.modTeam t f).irqs = s.irqs := rfl
@[simp] theorem State.modTeam_parts (s : State) (t : Nat) (f : Team → Team) : (s.modTeam t f).parts = s.parts := rfl
@[simp] theorem State.modTeam_dies (s : State) (t : Nat) (f : Team → Team) : (s.modTeam t f).dies = s.dies := rfl
@[simp] theorem State.modTeam_clusters (s : State) (t : Nat) (f : Team → Team) : (s.modTeam t f).clusters = s.clusters := rfl
@[simp] theorem State.modTeam_cores (s : State) (t : Nat) (f : Team → Team) : (s.modTeam t f).cores = s.cores := rfl
@[simp] theorem State.modTeam_ports (s : State) (t : Nat) (f : Team → Team) : (s.modTeam t f).ports = s.ports := rfl
@[simp] theorem State.modTeam_launches (s : State) (t : Nat) (f : Team → Team) : (s.modTeam t f).launches = s.launches := rfl
@[simp] theorem State.modTeam_gangs (s : State) (t : Nat) (f : Team → Team) : (s.modTeam t f).gangs = s.gangs := rfl
@[simp] theorem State.modTeam_teams (s : State) (t : Nat) (f : Team → Team) : (s.modTeam t f).teams = modifyAt s.teams t f := rfl
@[simp] theorem State.modTeam_visitors (s : State) (t : Nat) (f : Team → Team) : (s.modTeam t f).visitors = s.visitors := rfl
@[simp] theorem State.modTeam_caddySets (s : State) (t : Nat) (f : Team → Team) : (s.modTeam t f).caddySets = s.caddySets := rfl
@[simp] theorem State.modTeam_channel (s : State) (t : Nat) (f : Team → Team) : (s.modTeam t f).channel = s.channel := rfl
@[simp] theorem State.modTeam_fwd (s : State) (t : Nat) (f : Team → Team) : (s.modTeam t f).fwd = s.fwd := rfl
@[simp] theorem State.modTeam_arr (s : State) (t : Nat) (f : Team → Team) : (s.modTeam t f).arr = s.arr := rfl
@[simp] theorem State.modTeam_mem (s : State) (t : Nat) (f : Team → Team) : (s.modTeam t f).mem = s.mem := rfl
@[simp] theorem State.modTeam_hostMem (s : State) (t : Nat) (f : Team → Team) : (s.modTeam t f).hostMem = s.hostMem := rfl
@[simp] theorem State.modTeam_bad (s : State) (t : Nat) (f : Team → Team) : (s.modTeam t f).bad = s.bad := rfl
@[simp] theorem State.modTeam_nextId (s : State) (t : Nat) (f : Team → Team) : (s.modTeam t f).nextId = s.nextId := rfl
@[simp] theorem State.modTeam_agenda (s : State) (t : Nat) (f : Team → Team) : (s.modTeam t f).agenda = s.agenda := rfl
@[simp] theorem State.modTeam_rotor (s : State) (t : Nat) (f : Team → Team) : (s.modTeam t f).rotor = s.rotor := rfl
@[simp] theorem State.modTeam_cur (s : State) (t : Nat) (f : Team → Team) : (s.modTeam t f).cur = s.cur := rfl
@[simp] theorem State.modTeam_choice (s : State) (t : Nat) (f : Team → Team) : (s.modTeam t f).choice = s.choice := rfl
@[simp] theorem State.modTeam_observer (s : State) (t : Nat) (f : Team → Team) : (s.modTeam t f).observer = s.observer := rfl
@[simp] theorem State.modTeam_walks (s : State) (t : Nat) (f : Team → Team) : (s.modTeam t f).walks = s.walks := rfl
@[simp] theorem State.modTeam_touched (s : State) (t : Nat) (f : Team → Team) : (s.modTeam t f).touched = s.touched := rfl
@[simp] theorem State.modTeam_freeCtr (s : State) (t : Nat) (f : Team → Team) : (s.modTeam t f).freeCtr = s.freeCtr := rfl

@[simp] theorem State.modGang_stage (s : State) (g : Nat) (f : Gang → Gang) : (s.modGang g f).stage = s.stage := rfl
@[simp] theorem State.modGang_wdReset (s : State) (g : Nat) (f : Gang → Gang) : (s.modGang g f).wdReset = s.wdReset := rfl
@[simp] theorem State.modGang_cmdAddr (s : State) (g : Nat) (f : Gang → Gang) : (s.modGang g f).cmdAddr = s.cmdAddr := rfl
@[simp] theorem State.modGang_cmdBusy (s : State) (g : Nat) (f : Gang → Gang) : (s.modGang g f).cmdBusy = s.cmdBusy := rfl
@[simp] theorem State.modGang_derr (s : State) (g : Nat) (f : Gang → Gang) : (s.modGang g f).derr = s.derr := rfl
@[simp] theorem State.modGang_cmd (s : State) (g : Nat) (f : Gang → Gang) : (s.modGang g f).cmd = s.cmd := rfl
@[simp] theorem State.modGang_cmdBegun (s : State) (g : Nat) (f : Gang → Gang) : (s.modGang g f).cmdBegun = s.cmdBegun := rfl
@[simp] theorem State.modGang_cmdWait (s : State) (g : Nat) (f : Gang → Gang) : (s.modGang g f).cmdWait = s.cmdWait := rfl
@[simp] theorem State.modGang_meas (s : State) (g : Nat) (f : Gang → Gang) : (s.modGang g f).meas = s.meas := rfl
@[simp] theorem State.modGang_wdTime (s : State) (g : Nat) (f : Gang → Gang) : (s.modGang g f).wdTime = s.wdTime := rfl
@[simp] theorem State.modGang_node (s : State) (g : Nat) (f : Gang → Gang) : (s.modGang g f).node = s.node := rfl
@[simp] theorem State.modGang_pwrCap (s : State) (g : Nat) (f : Gang → Gang) : (s.modGang g f).pwrCap = s.pwrCap := rfl
@[simp] theorem State.modGang_limitsLocked (s : State) (g : Nat) (f : Gang → Gang) : (s.modGang g f).limitsLocked = s.limitsLocked := rfl
@[simp] theorem State.modGang_keyFuse (s : State) (g : Nat) (f : Gang → Gang) : (s.modGang g f).keyFuse = s.keyFuse := rfl
@[simp] theorem State.modGang_thermal (s : State) (g : Nat) (f : Gang → Gang) : (s.modGang g f).thermal = s.thermal := rfl
@[simp] theorem State.modGang_powered (s : State) (g : Nat) (f : Gang → Gang) : (s.modGang g f).powered = s.powered := rfl
@[simp] theorem State.modGang_fused (s : State) (g : Nat) (f : Gang → Gang) : (s.modGang g f).fused = s.fused := rfl
@[simp] theorem State.modGang_fuse (s : State) (g : Nat) (f : Gang → Gang) : (s.modGang g f).fuse = s.fuse := rfl
@[simp] theorem State.modGang_time (s : State) (g : Nat) (f : Gang → Gang) : (s.modGang g f).time = s.time := rfl
@[simp] theorem State.modGang_period (s : State) (g : Nat) (f : Gang → Gang) : (s.modGang g f).period = s.period := rfl
@[simp] theorem State.modGang_irqs (s : State) (g : Nat) (f : Gang → Gang) : (s.modGang g f).irqs = s.irqs := rfl
@[simp] theorem State.modGang_parts (s : State) (g : Nat) (f : Gang → Gang) : (s.modGang g f).parts = s.parts := rfl
@[simp] theorem State.modGang_dies (s : State) (g : Nat) (f : Gang → Gang) : (s.modGang g f).dies = s.dies := rfl
@[simp] theorem State.modGang_clusters (s : State) (g : Nat) (f : Gang → Gang) : (s.modGang g f).clusters = s.clusters := rfl
@[simp] theorem State.modGang_cores (s : State) (g : Nat) (f : Gang → Gang) : (s.modGang g f).cores = s.cores := rfl
@[simp] theorem State.modGang_ports (s : State) (g : Nat) (f : Gang → Gang) : (s.modGang g f).ports = s.ports := rfl
@[simp] theorem State.modGang_launches (s : State) (g : Nat) (f : Gang → Gang) : (s.modGang g f).launches = s.launches := rfl
@[simp] theorem State.modGang_gangs (s : State) (g : Nat) (f : Gang → Gang) : (s.modGang g f).gangs = modifyAt s.gangs g f := rfl
@[simp] theorem State.modGang_teams (s : State) (g : Nat) (f : Gang → Gang) : (s.modGang g f).teams = s.teams := rfl
@[simp] theorem State.modGang_visitors (s : State) (g : Nat) (f : Gang → Gang) : (s.modGang g f).visitors = s.visitors := rfl
@[simp] theorem State.modGang_caddySets (s : State) (g : Nat) (f : Gang → Gang) : (s.modGang g f).caddySets = s.caddySets := rfl
@[simp] theorem State.modGang_channel (s : State) (g : Nat) (f : Gang → Gang) : (s.modGang g f).channel = s.channel := rfl
@[simp] theorem State.modGang_fwd (s : State) (g : Nat) (f : Gang → Gang) : (s.modGang g f).fwd = s.fwd := rfl
@[simp] theorem State.modGang_arr (s : State) (g : Nat) (f : Gang → Gang) : (s.modGang g f).arr = s.arr := rfl
@[simp] theorem State.modGang_mem (s : State) (g : Nat) (f : Gang → Gang) : (s.modGang g f).mem = s.mem := rfl
@[simp] theorem State.modGang_hostMem (s : State) (g : Nat) (f : Gang → Gang) : (s.modGang g f).hostMem = s.hostMem := rfl
@[simp] theorem State.modGang_bad (s : State) (g : Nat) (f : Gang → Gang) : (s.modGang g f).bad = s.bad := rfl
@[simp] theorem State.modGang_nextId (s : State) (g : Nat) (f : Gang → Gang) : (s.modGang g f).nextId = s.nextId := rfl
@[simp] theorem State.modGang_agenda (s : State) (g : Nat) (f : Gang → Gang) : (s.modGang g f).agenda = s.agenda := rfl
@[simp] theorem State.modGang_rotor (s : State) (g : Nat) (f : Gang → Gang) : (s.modGang g f).rotor = s.rotor := rfl
@[simp] theorem State.modGang_cur (s : State) (g : Nat) (f : Gang → Gang) : (s.modGang g f).cur = s.cur := rfl
@[simp] theorem State.modGang_choice (s : State) (g : Nat) (f : Gang → Gang) : (s.modGang g f).choice = s.choice := rfl
@[simp] theorem State.modGang_observer (s : State) (g : Nat) (f : Gang → Gang) : (s.modGang g f).observer = s.observer := rfl
@[simp] theorem State.modGang_walks (s : State) (g : Nat) (f : Gang → Gang) : (s.modGang g f).walks = s.walks := rfl
@[simp] theorem State.modGang_touched (s : State) (g : Nat) (f : Gang → Gang) : (s.modGang g f).touched = s.touched := rfl
@[simp] theorem State.modGang_freeCtr (s : State) (g : Nat) (f : Gang → Gang) : (s.modGang g f).freeCtr = s.freeCtr := rfl

@[simp] theorem State.modLaunch_stage (s : State) (l : Nat) (f : Launch → Launch) : (s.modLaunch l f).stage = s.stage := rfl
@[simp] theorem State.modLaunch_wdReset (s : State) (l : Nat) (f : Launch → Launch) : (s.modLaunch l f).wdReset = s.wdReset := rfl
@[simp] theorem State.modLaunch_cmdAddr (s : State) (l : Nat) (f : Launch → Launch) : (s.modLaunch l f).cmdAddr = s.cmdAddr := rfl
@[simp] theorem State.modLaunch_cmdBusy (s : State) (l : Nat) (f : Launch → Launch) : (s.modLaunch l f).cmdBusy = s.cmdBusy := rfl
@[simp] theorem State.modLaunch_derr (s : State) (l : Nat) (f : Launch → Launch) : (s.modLaunch l f).derr = s.derr := rfl
@[simp] theorem State.modLaunch_cmd (s : State) (l : Nat) (f : Launch → Launch) : (s.modLaunch l f).cmd = s.cmd := rfl
@[simp] theorem State.modLaunch_cmdBegun (s : State) (l : Nat) (f : Launch → Launch) : (s.modLaunch l f).cmdBegun = s.cmdBegun := rfl
@[simp] theorem State.modLaunch_cmdWait (s : State) (l : Nat) (f : Launch → Launch) : (s.modLaunch l f).cmdWait = s.cmdWait := rfl
@[simp] theorem State.modLaunch_meas (s : State) (l : Nat) (f : Launch → Launch) : (s.modLaunch l f).meas = s.meas := rfl
@[simp] theorem State.modLaunch_wdTime (s : State) (l : Nat) (f : Launch → Launch) : (s.modLaunch l f).wdTime = s.wdTime := rfl
@[simp] theorem State.modLaunch_node (s : State) (l : Nat) (f : Launch → Launch) : (s.modLaunch l f).node = s.node := rfl
@[simp] theorem State.modLaunch_pwrCap (s : State) (l : Nat) (f : Launch → Launch) : (s.modLaunch l f).pwrCap = s.pwrCap := rfl
@[simp] theorem State.modLaunch_limitsLocked (s : State) (l : Nat) (f : Launch → Launch) : (s.modLaunch l f).limitsLocked = s.limitsLocked := rfl
@[simp] theorem State.modLaunch_keyFuse (s : State) (l : Nat) (f : Launch → Launch) : (s.modLaunch l f).keyFuse = s.keyFuse := rfl
@[simp] theorem State.modLaunch_thermal (s : State) (l : Nat) (f : Launch → Launch) : (s.modLaunch l f).thermal = s.thermal := rfl
@[simp] theorem State.modLaunch_powered (s : State) (l : Nat) (f : Launch → Launch) : (s.modLaunch l f).powered = s.powered := rfl
@[simp] theorem State.modLaunch_fused (s : State) (l : Nat) (f : Launch → Launch) : (s.modLaunch l f).fused = s.fused := rfl
@[simp] theorem State.modLaunch_fuse (s : State) (l : Nat) (f : Launch → Launch) : (s.modLaunch l f).fuse = s.fuse := rfl
@[simp] theorem State.modLaunch_time (s : State) (l : Nat) (f : Launch → Launch) : (s.modLaunch l f).time = s.time := rfl
@[simp] theorem State.modLaunch_period (s : State) (l : Nat) (f : Launch → Launch) : (s.modLaunch l f).period = s.period := rfl
@[simp] theorem State.modLaunch_irqs (s : State) (l : Nat) (f : Launch → Launch) : (s.modLaunch l f).irqs = s.irqs := rfl
@[simp] theorem State.modLaunch_parts (s : State) (l : Nat) (f : Launch → Launch) : (s.modLaunch l f).parts = s.parts := rfl
@[simp] theorem State.modLaunch_dies (s : State) (l : Nat) (f : Launch → Launch) : (s.modLaunch l f).dies = s.dies := rfl
@[simp] theorem State.modLaunch_clusters (s : State) (l : Nat) (f : Launch → Launch) : (s.modLaunch l f).clusters = s.clusters := rfl
@[simp] theorem State.modLaunch_cores (s : State) (l : Nat) (f : Launch → Launch) : (s.modLaunch l f).cores = s.cores := rfl
@[simp] theorem State.modLaunch_ports (s : State) (l : Nat) (f : Launch → Launch) : (s.modLaunch l f).ports = s.ports := rfl
@[simp] theorem State.modLaunch_launches (s : State) (l : Nat) (f : Launch → Launch) : (s.modLaunch l f).launches = modifyAt s.launches l f := rfl
@[simp] theorem State.modLaunch_gangs (s : State) (l : Nat) (f : Launch → Launch) : (s.modLaunch l f).gangs = s.gangs := rfl
@[simp] theorem State.modLaunch_teams (s : State) (l : Nat) (f : Launch → Launch) : (s.modLaunch l f).teams = s.teams := rfl
@[simp] theorem State.modLaunch_visitors (s : State) (l : Nat) (f : Launch → Launch) : (s.modLaunch l f).visitors = s.visitors := rfl
@[simp] theorem State.modLaunch_caddySets (s : State) (l : Nat) (f : Launch → Launch) : (s.modLaunch l f).caddySets = s.caddySets := rfl
@[simp] theorem State.modLaunch_channel (s : State) (l : Nat) (f : Launch → Launch) : (s.modLaunch l f).channel = s.channel := rfl
@[simp] theorem State.modLaunch_fwd (s : State) (l : Nat) (f : Launch → Launch) : (s.modLaunch l f).fwd = s.fwd := rfl
@[simp] theorem State.modLaunch_arr (s : State) (l : Nat) (f : Launch → Launch) : (s.modLaunch l f).arr = s.arr := rfl
@[simp] theorem State.modLaunch_mem (s : State) (l : Nat) (f : Launch → Launch) : (s.modLaunch l f).mem = s.mem := rfl
@[simp] theorem State.modLaunch_hostMem (s : State) (l : Nat) (f : Launch → Launch) : (s.modLaunch l f).hostMem = s.hostMem := rfl
@[simp] theorem State.modLaunch_bad (s : State) (l : Nat) (f : Launch → Launch) : (s.modLaunch l f).bad = s.bad := rfl
@[simp] theorem State.modLaunch_nextId (s : State) (l : Nat) (f : Launch → Launch) : (s.modLaunch l f).nextId = s.nextId := rfl
@[simp] theorem State.modLaunch_agenda (s : State) (l : Nat) (f : Launch → Launch) : (s.modLaunch l f).agenda = s.agenda := rfl
@[simp] theorem State.modLaunch_rotor (s : State) (l : Nat) (f : Launch → Launch) : (s.modLaunch l f).rotor = s.rotor := rfl
@[simp] theorem State.modLaunch_cur (s : State) (l : Nat) (f : Launch → Launch) : (s.modLaunch l f).cur = s.cur := rfl
@[simp] theorem State.modLaunch_choice (s : State) (l : Nat) (f : Launch → Launch) : (s.modLaunch l f).choice = s.choice := rfl
@[simp] theorem State.modLaunch_observer (s : State) (l : Nat) (f : Launch → Launch) : (s.modLaunch l f).observer = s.observer := rfl
@[simp] theorem State.modLaunch_walks (s : State) (l : Nat) (f : Launch → Launch) : (s.modLaunch l f).walks = s.walks := rfl
@[simp] theorem State.modLaunch_touched (s : State) (l : Nat) (f : Launch → Launch) : (s.modLaunch l f).touched = s.touched := rfl
@[simp] theorem State.modLaunch_freeCtr (s : State) (l : Nat) (f : Launch → Launch) : (s.modLaunch l f).freeCtr = s.freeCtr := rfl

@[simp] theorem State.modVisitor_stage (s : State) (v : Nat) (f : Visitor → Visitor) : (s.modVisitor v f).stage = s.stage := rfl
@[simp] theorem State.modVisitor_wdReset (s : State) (v : Nat) (f : Visitor → Visitor) : (s.modVisitor v f).wdReset = s.wdReset := rfl
@[simp] theorem State.modVisitor_cmdAddr (s : State) (v : Nat) (f : Visitor → Visitor) : (s.modVisitor v f).cmdAddr = s.cmdAddr := rfl
@[simp] theorem State.modVisitor_cmdBusy (s : State) (v : Nat) (f : Visitor → Visitor) : (s.modVisitor v f).cmdBusy = s.cmdBusy := rfl
@[simp] theorem State.modVisitor_derr (s : State) (v : Nat) (f : Visitor → Visitor) : (s.modVisitor v f).derr = s.derr := rfl
@[simp] theorem State.modVisitor_cmd (s : State) (v : Nat) (f : Visitor → Visitor) : (s.modVisitor v f).cmd = s.cmd := rfl
@[simp] theorem State.modVisitor_cmdBegun (s : State) (v : Nat) (f : Visitor → Visitor) : (s.modVisitor v f).cmdBegun = s.cmdBegun := rfl
@[simp] theorem State.modVisitor_cmdWait (s : State) (v : Nat) (f : Visitor → Visitor) : (s.modVisitor v f).cmdWait = s.cmdWait := rfl
@[simp] theorem State.modVisitor_meas (s : State) (v : Nat) (f : Visitor → Visitor) : (s.modVisitor v f).meas = s.meas := rfl
@[simp] theorem State.modVisitor_wdTime (s : State) (v : Nat) (f : Visitor → Visitor) : (s.modVisitor v f).wdTime = s.wdTime := rfl
@[simp] theorem State.modVisitor_node (s : State) (v : Nat) (f : Visitor → Visitor) : (s.modVisitor v f).node = s.node := rfl
@[simp] theorem State.modVisitor_pwrCap (s : State) (v : Nat) (f : Visitor → Visitor) : (s.modVisitor v f).pwrCap = s.pwrCap := rfl
@[simp] theorem State.modVisitor_limitsLocked (s : State) (v : Nat) (f : Visitor → Visitor) : (s.modVisitor v f).limitsLocked = s.limitsLocked := rfl
@[simp] theorem State.modVisitor_keyFuse (s : State) (v : Nat) (f : Visitor → Visitor) : (s.modVisitor v f).keyFuse = s.keyFuse := rfl
@[simp] theorem State.modVisitor_thermal (s : State) (v : Nat) (f : Visitor → Visitor) : (s.modVisitor v f).thermal = s.thermal := rfl
@[simp] theorem State.modVisitor_powered (s : State) (v : Nat) (f : Visitor → Visitor) : (s.modVisitor v f).powered = s.powered := rfl
@[simp] theorem State.modVisitor_fused (s : State) (v : Nat) (f : Visitor → Visitor) : (s.modVisitor v f).fused = s.fused := rfl
@[simp] theorem State.modVisitor_fuse (s : State) (v : Nat) (f : Visitor → Visitor) : (s.modVisitor v f).fuse = s.fuse := rfl
@[simp] theorem State.modVisitor_time (s : State) (v : Nat) (f : Visitor → Visitor) : (s.modVisitor v f).time = s.time := rfl
@[simp] theorem State.modVisitor_period (s : State) (v : Nat) (f : Visitor → Visitor) : (s.modVisitor v f).period = s.period := rfl
@[simp] theorem State.modVisitor_irqs (s : State) (v : Nat) (f : Visitor → Visitor) : (s.modVisitor v f).irqs = s.irqs := rfl
@[simp] theorem State.modVisitor_parts (s : State) (v : Nat) (f : Visitor → Visitor) : (s.modVisitor v f).parts = s.parts := rfl
@[simp] theorem State.modVisitor_dies (s : State) (v : Nat) (f : Visitor → Visitor) : (s.modVisitor v f).dies = s.dies := rfl
@[simp] theorem State.modVisitor_clusters (s : State) (v : Nat) (f : Visitor → Visitor) : (s.modVisitor v f).clusters = s.clusters := rfl
@[simp] theorem State.modVisitor_cores (s : State) (v : Nat) (f : Visitor → Visitor) : (s.modVisitor v f).cores = s.cores := rfl
@[simp] theorem State.modVisitor_ports (s : State) (v : Nat) (f : Visitor → Visitor) : (s.modVisitor v f).ports = s.ports := rfl
@[simp] theorem State.modVisitor_launches (s : State) (v : Nat) (f : Visitor → Visitor) : (s.modVisitor v f).launches = s.launches := rfl
@[simp] theorem State.modVisitor_gangs (s : State) (v : Nat) (f : Visitor → Visitor) : (s.modVisitor v f).gangs = s.gangs := rfl
@[simp] theorem State.modVisitor_teams (s : State) (v : Nat) (f : Visitor → Visitor) : (s.modVisitor v f).teams = s.teams := rfl
@[simp] theorem State.modVisitor_visitors (s : State) (v : Nat) (f : Visitor → Visitor) : (s.modVisitor v f).visitors = modifyAt s.visitors v f := rfl
@[simp] theorem State.modVisitor_caddySets (s : State) (v : Nat) (f : Visitor → Visitor) : (s.modVisitor v f).caddySets = s.caddySets := rfl
@[simp] theorem State.modVisitor_channel (s : State) (v : Nat) (f : Visitor → Visitor) : (s.modVisitor v f).channel = s.channel := rfl
@[simp] theorem State.modVisitor_fwd (s : State) (v : Nat) (f : Visitor → Visitor) : (s.modVisitor v f).fwd = s.fwd := rfl
@[simp] theorem State.modVisitor_arr (s : State) (v : Nat) (f : Visitor → Visitor) : (s.modVisitor v f).arr = s.arr := rfl
@[simp] theorem State.modVisitor_mem (s : State) (v : Nat) (f : Visitor → Visitor) : (s.modVisitor v f).mem = s.mem := rfl
@[simp] theorem State.modVisitor_hostMem (s : State) (v : Nat) (f : Visitor → Visitor) : (s.modVisitor v f).hostMem = s.hostMem := rfl
@[simp] theorem State.modVisitor_bad (s : State) (v : Nat) (f : Visitor → Visitor) : (s.modVisitor v f).bad = s.bad := rfl
@[simp] theorem State.modVisitor_nextId (s : State) (v : Nat) (f : Visitor → Visitor) : (s.modVisitor v f).nextId = s.nextId := rfl
@[simp] theorem State.modVisitor_agenda (s : State) (v : Nat) (f : Visitor → Visitor) : (s.modVisitor v f).agenda = s.agenda := rfl
@[simp] theorem State.modVisitor_rotor (s : State) (v : Nat) (f : Visitor → Visitor) : (s.modVisitor v f).rotor = s.rotor := rfl
@[simp] theorem State.modVisitor_cur (s : State) (v : Nat) (f : Visitor → Visitor) : (s.modVisitor v f).cur = s.cur := rfl
@[simp] theorem State.modVisitor_choice (s : State) (v : Nat) (f : Visitor → Visitor) : (s.modVisitor v f).choice = s.choice := rfl
@[simp] theorem State.modVisitor_observer (s : State) (v : Nat) (f : Visitor → Visitor) : (s.modVisitor v f).observer = s.observer := rfl
@[simp] theorem State.modVisitor_walks (s : State) (v : Nat) (f : Visitor → Visitor) : (s.modVisitor v f).walks = s.walks := rfl
@[simp] theorem State.modVisitor_touched (s : State) (v : Nat) (f : Visitor → Visitor) : (s.modVisitor v f).touched = s.touched := rfl
@[simp] theorem State.modVisitor_freeCtr (s : State) (v : Nat) (f : Visitor → Visitor) : (s.modVisitor v f).freeCtr = s.freeCtr := rfl

@[simp] theorem State.modSet_stage (s : State) (k : Nat) (f : CaddySet → CaddySet) : (s.modSet k f).stage = s.stage := rfl
@[simp] theorem State.modSet_wdReset (s : State) (k : Nat) (f : CaddySet → CaddySet) : (s.modSet k f).wdReset = s.wdReset := rfl
@[simp] theorem State.modSet_cmdAddr (s : State) (k : Nat) (f : CaddySet → CaddySet) : (s.modSet k f).cmdAddr = s.cmdAddr := rfl
@[simp] theorem State.modSet_cmdBusy (s : State) (k : Nat) (f : CaddySet → CaddySet) : (s.modSet k f).cmdBusy = s.cmdBusy := rfl
@[simp] theorem State.modSet_derr (s : State) (k : Nat) (f : CaddySet → CaddySet) : (s.modSet k f).derr = s.derr := rfl
@[simp] theorem State.modSet_cmd (s : State) (k : Nat) (f : CaddySet → CaddySet) : (s.modSet k f).cmd = s.cmd := rfl
@[simp] theorem State.modSet_cmdBegun (s : State) (k : Nat) (f : CaddySet → CaddySet) : (s.modSet k f).cmdBegun = s.cmdBegun := rfl
@[simp] theorem State.modSet_cmdWait (s : State) (k : Nat) (f : CaddySet → CaddySet) : (s.modSet k f).cmdWait = s.cmdWait := rfl
@[simp] theorem State.modSet_meas (s : State) (k : Nat) (f : CaddySet → CaddySet) : (s.modSet k f).meas = s.meas := rfl
@[simp] theorem State.modSet_wdTime (s : State) (k : Nat) (f : CaddySet → CaddySet) : (s.modSet k f).wdTime = s.wdTime := rfl
@[simp] theorem State.modSet_node (s : State) (k : Nat) (f : CaddySet → CaddySet) : (s.modSet k f).node = s.node := rfl
@[simp] theorem State.modSet_pwrCap (s : State) (k : Nat) (f : CaddySet → CaddySet) : (s.modSet k f).pwrCap = s.pwrCap := rfl
@[simp] theorem State.modSet_limitsLocked (s : State) (k : Nat) (f : CaddySet → CaddySet) : (s.modSet k f).limitsLocked = s.limitsLocked := rfl
@[simp] theorem State.modSet_keyFuse (s : State) (k : Nat) (f : CaddySet → CaddySet) : (s.modSet k f).keyFuse = s.keyFuse := rfl
@[simp] theorem State.modSet_thermal (s : State) (k : Nat) (f : CaddySet → CaddySet) : (s.modSet k f).thermal = s.thermal := rfl
@[simp] theorem State.modSet_powered (s : State) (k : Nat) (f : CaddySet → CaddySet) : (s.modSet k f).powered = s.powered := rfl
@[simp] theorem State.modSet_fused (s : State) (k : Nat) (f : CaddySet → CaddySet) : (s.modSet k f).fused = s.fused := rfl
@[simp] theorem State.modSet_fuse (s : State) (k : Nat) (f : CaddySet → CaddySet) : (s.modSet k f).fuse = s.fuse := rfl
@[simp] theorem State.modSet_time (s : State) (k : Nat) (f : CaddySet → CaddySet) : (s.modSet k f).time = s.time := rfl
@[simp] theorem State.modSet_period (s : State) (k : Nat) (f : CaddySet → CaddySet) : (s.modSet k f).period = s.period := rfl
@[simp] theorem State.modSet_irqs (s : State) (k : Nat) (f : CaddySet → CaddySet) : (s.modSet k f).irqs = s.irqs := rfl
@[simp] theorem State.modSet_parts (s : State) (k : Nat) (f : CaddySet → CaddySet) : (s.modSet k f).parts = s.parts := rfl
@[simp] theorem State.modSet_dies (s : State) (k : Nat) (f : CaddySet → CaddySet) : (s.modSet k f).dies = s.dies := rfl
@[simp] theorem State.modSet_clusters (s : State) (k : Nat) (f : CaddySet → CaddySet) : (s.modSet k f).clusters = s.clusters := rfl
@[simp] theorem State.modSet_cores (s : State) (k : Nat) (f : CaddySet → CaddySet) : (s.modSet k f).cores = s.cores := rfl
@[simp] theorem State.modSet_ports (s : State) (k : Nat) (f : CaddySet → CaddySet) : (s.modSet k f).ports = s.ports := rfl
@[simp] theorem State.modSet_launches (s : State) (k : Nat) (f : CaddySet → CaddySet) : (s.modSet k f).launches = s.launches := rfl
@[simp] theorem State.modSet_gangs (s : State) (k : Nat) (f : CaddySet → CaddySet) : (s.modSet k f).gangs = s.gangs := rfl
@[simp] theorem State.modSet_teams (s : State) (k : Nat) (f : CaddySet → CaddySet) : (s.modSet k f).teams = s.teams := rfl
@[simp] theorem State.modSet_visitors (s : State) (k : Nat) (f : CaddySet → CaddySet) : (s.modSet k f).visitors = s.visitors := rfl
@[simp] theorem State.modSet_caddySets (s : State) (k : Nat) (f : CaddySet → CaddySet) : (s.modSet k f).caddySets = modifyAt s.caddySets k f := rfl
@[simp] theorem State.modSet_channel (s : State) (k : Nat) (f : CaddySet → CaddySet) : (s.modSet k f).channel = s.channel := rfl
@[simp] theorem State.modSet_fwd (s : State) (k : Nat) (f : CaddySet → CaddySet) : (s.modSet k f).fwd = s.fwd := rfl
@[simp] theorem State.modSet_arr (s : State) (k : Nat) (f : CaddySet → CaddySet) : (s.modSet k f).arr = s.arr := rfl
@[simp] theorem State.modSet_mem (s : State) (k : Nat) (f : CaddySet → CaddySet) : (s.modSet k f).mem = s.mem := rfl
@[simp] theorem State.modSet_hostMem (s : State) (k : Nat) (f : CaddySet → CaddySet) : (s.modSet k f).hostMem = s.hostMem := rfl
@[simp] theorem State.modSet_bad (s : State) (k : Nat) (f : CaddySet → CaddySet) : (s.modSet k f).bad = s.bad := rfl
@[simp] theorem State.modSet_nextId (s : State) (k : Nat) (f : CaddySet → CaddySet) : (s.modSet k f).nextId = s.nextId := rfl
@[simp] theorem State.modSet_agenda (s : State) (k : Nat) (f : CaddySet → CaddySet) : (s.modSet k f).agenda = s.agenda := rfl
@[simp] theorem State.modSet_rotor (s : State) (k : Nat) (f : CaddySet → CaddySet) : (s.modSet k f).rotor = s.rotor := rfl
@[simp] theorem State.modSet_cur (s : State) (k : Nat) (f : CaddySet → CaddySet) : (s.modSet k f).cur = s.cur := rfl
@[simp] theorem State.modSet_choice (s : State) (k : Nat) (f : CaddySet → CaddySet) : (s.modSet k f).choice = s.choice := rfl
@[simp] theorem State.modSet_observer (s : State) (k : Nat) (f : CaddySet → CaddySet) : (s.modSet k f).observer = s.observer := rfl
@[simp] theorem State.modSet_walks (s : State) (k : Nat) (f : CaddySet → CaddySet) : (s.modSet k f).walks = s.walks := rfl
@[simp] theorem State.modSet_touched (s : State) (k : Nat) (f : CaddySet → CaddySet) : (s.modSet k f).touched = s.touched := rfl
@[simp] theorem State.modSet_freeCtr (s : State) (k : Nat) (f : CaddySet → CaddySet) : (s.modSet k f).freeCtr = s.freeCtr := rfl

@[simp] theorem State.modPart_stage (s : State) (p : Nat) (f : Part → Part) : (s.modPart p f).stage = s.stage := rfl
@[simp] theorem State.modPart_wdReset (s : State) (p : Nat) (f : Part → Part) : (s.modPart p f).wdReset = s.wdReset := rfl
@[simp] theorem State.modPart_cmdAddr (s : State) (p : Nat) (f : Part → Part) : (s.modPart p f).cmdAddr = s.cmdAddr := rfl
@[simp] theorem State.modPart_cmdBusy (s : State) (p : Nat) (f : Part → Part) : (s.modPart p f).cmdBusy = s.cmdBusy := rfl
@[simp] theorem State.modPart_derr (s : State) (p : Nat) (f : Part → Part) : (s.modPart p f).derr = s.derr := rfl
@[simp] theorem State.modPart_cmd (s : State) (p : Nat) (f : Part → Part) : (s.modPart p f).cmd = s.cmd := rfl
@[simp] theorem State.modPart_cmdBegun (s : State) (p : Nat) (f : Part → Part) : (s.modPart p f).cmdBegun = s.cmdBegun := rfl
@[simp] theorem State.modPart_cmdWait (s : State) (p : Nat) (f : Part → Part) : (s.modPart p f).cmdWait = s.cmdWait := rfl
@[simp] theorem State.modPart_meas (s : State) (p : Nat) (f : Part → Part) : (s.modPart p f).meas = s.meas := rfl
@[simp] theorem State.modPart_wdTime (s : State) (p : Nat) (f : Part → Part) : (s.modPart p f).wdTime = s.wdTime := rfl
@[simp] theorem State.modPart_node (s : State) (p : Nat) (f : Part → Part) : (s.modPart p f).node = s.node := rfl
@[simp] theorem State.modPart_pwrCap (s : State) (p : Nat) (f : Part → Part) : (s.modPart p f).pwrCap = s.pwrCap := rfl
@[simp] theorem State.modPart_limitsLocked (s : State) (p : Nat) (f : Part → Part) : (s.modPart p f).limitsLocked = s.limitsLocked := rfl
@[simp] theorem State.modPart_keyFuse (s : State) (p : Nat) (f : Part → Part) : (s.modPart p f).keyFuse = s.keyFuse := rfl
@[simp] theorem State.modPart_thermal (s : State) (p : Nat) (f : Part → Part) : (s.modPart p f).thermal = s.thermal := rfl
@[simp] theorem State.modPart_powered (s : State) (p : Nat) (f : Part → Part) : (s.modPart p f).powered = s.powered := rfl
@[simp] theorem State.modPart_fused (s : State) (p : Nat) (f : Part → Part) : (s.modPart p f).fused = s.fused := rfl
@[simp] theorem State.modPart_fuse (s : State) (p : Nat) (f : Part → Part) : (s.modPart p f).fuse = s.fuse := rfl
@[simp] theorem State.modPart_time (s : State) (p : Nat) (f : Part → Part) : (s.modPart p f).time = s.time := rfl
@[simp] theorem State.modPart_period (s : State) (p : Nat) (f : Part → Part) : (s.modPart p f).period = s.period := rfl
@[simp] theorem State.modPart_irqs (s : State) (p : Nat) (f : Part → Part) : (s.modPart p f).irqs = s.irqs := rfl
@[simp] theorem State.modPart_parts (s : State) (p : Nat) (f : Part → Part) : (s.modPart p f).parts = vmod s.parts p f := rfl
@[simp] theorem State.modPart_dies (s : State) (p : Nat) (f : Part → Part) : (s.modPart p f).dies = s.dies := rfl
@[simp] theorem State.modPart_clusters (s : State) (p : Nat) (f : Part → Part) : (s.modPart p f).clusters = s.clusters := rfl
@[simp] theorem State.modPart_cores (s : State) (p : Nat) (f : Part → Part) : (s.modPart p f).cores = s.cores := rfl
@[simp] theorem State.modPart_ports (s : State) (p : Nat) (f : Part → Part) : (s.modPart p f).ports = s.ports := rfl
@[simp] theorem State.modPart_launches (s : State) (p : Nat) (f : Part → Part) : (s.modPart p f).launches = s.launches := rfl
@[simp] theorem State.modPart_gangs (s : State) (p : Nat) (f : Part → Part) : (s.modPart p f).gangs = s.gangs := rfl
@[simp] theorem State.modPart_teams (s : State) (p : Nat) (f : Part → Part) : (s.modPart p f).teams = s.teams := rfl
@[simp] theorem State.modPart_visitors (s : State) (p : Nat) (f : Part → Part) : (s.modPart p f).visitors = s.visitors := rfl
@[simp] theorem State.modPart_caddySets (s : State) (p : Nat) (f : Part → Part) : (s.modPart p f).caddySets = s.caddySets := rfl
@[simp] theorem State.modPart_channel (s : State) (p : Nat) (f : Part → Part) : (s.modPart p f).channel = s.channel := rfl
@[simp] theorem State.modPart_fwd (s : State) (p : Nat) (f : Part → Part) : (s.modPart p f).fwd = s.fwd := rfl
@[simp] theorem State.modPart_arr (s : State) (p : Nat) (f : Part → Part) : (s.modPart p f).arr = s.arr := rfl
@[simp] theorem State.modPart_mem (s : State) (p : Nat) (f : Part → Part) : (s.modPart p f).mem = s.mem := rfl
@[simp] theorem State.modPart_hostMem (s : State) (p : Nat) (f : Part → Part) : (s.modPart p f).hostMem = s.hostMem := rfl
@[simp] theorem State.modPart_bad (s : State) (p : Nat) (f : Part → Part) : (s.modPart p f).bad = s.bad := rfl
@[simp] theorem State.modPart_nextId (s : State) (p : Nat) (f : Part → Part) : (s.modPart p f).nextId = s.nextId := rfl
@[simp] theorem State.modPart_agenda (s : State) (p : Nat) (f : Part → Part) : (s.modPart p f).agenda = s.agenda := rfl
@[simp] theorem State.modPart_rotor (s : State) (p : Nat) (f : Part → Part) : (s.modPart p f).rotor = s.rotor := rfl
@[simp] theorem State.modPart_cur (s : State) (p : Nat) (f : Part → Part) : (s.modPart p f).cur = s.cur := rfl
@[simp] theorem State.modPart_choice (s : State) (p : Nat) (f : Part → Part) : (s.modPart p f).choice = s.choice := rfl
@[simp] theorem State.modPart_observer (s : State) (p : Nat) (f : Part → Part) : (s.modPart p f).observer = s.observer := rfl
@[simp] theorem State.modPart_walks (s : State) (p : Nat) (f : Part → Part) : (s.modPart p f).walks = s.walks := rfl
@[simp] theorem State.modPart_touched (s : State) (p : Nat) (f : Part → Part) : (s.modPart p f).touched = s.touched := rfl
@[simp] theorem State.modPart_freeCtr (s : State) (p : Nat) (f : Part → Part) : (s.modPart p f).freeCtr = s.freeCtr := rfl

@[simp] theorem State.modCluster_stage (s : State) (c : Nat) (f : Cluster → Cluster) : (s.modCluster c f).stage = s.stage := rfl
@[simp] theorem State.modCluster_wdReset (s : State) (c : Nat) (f : Cluster → Cluster) : (s.modCluster c f).wdReset = s.wdReset := rfl
@[simp] theorem State.modCluster_cmdAddr (s : State) (c : Nat) (f : Cluster → Cluster) : (s.modCluster c f).cmdAddr = s.cmdAddr := rfl
@[simp] theorem State.modCluster_cmdBusy (s : State) (c : Nat) (f : Cluster → Cluster) : (s.modCluster c f).cmdBusy = s.cmdBusy := rfl
@[simp] theorem State.modCluster_derr (s : State) (c : Nat) (f : Cluster → Cluster) : (s.modCluster c f).derr = s.derr := rfl
@[simp] theorem State.modCluster_cmd (s : State) (c : Nat) (f : Cluster → Cluster) : (s.modCluster c f).cmd = s.cmd := rfl
@[simp] theorem State.modCluster_cmdBegun (s : State) (c : Nat) (f : Cluster → Cluster) : (s.modCluster c f).cmdBegun = s.cmdBegun := rfl
@[simp] theorem State.modCluster_cmdWait (s : State) (c : Nat) (f : Cluster → Cluster) : (s.modCluster c f).cmdWait = s.cmdWait := rfl
@[simp] theorem State.modCluster_meas (s : State) (c : Nat) (f : Cluster → Cluster) : (s.modCluster c f).meas = s.meas := rfl
@[simp] theorem State.modCluster_wdTime (s : State) (c : Nat) (f : Cluster → Cluster) : (s.modCluster c f).wdTime = s.wdTime := rfl
@[simp] theorem State.modCluster_node (s : State) (c : Nat) (f : Cluster → Cluster) : (s.modCluster c f).node = s.node := rfl
@[simp] theorem State.modCluster_pwrCap (s : State) (c : Nat) (f : Cluster → Cluster) : (s.modCluster c f).pwrCap = s.pwrCap := rfl
@[simp] theorem State.modCluster_limitsLocked (s : State) (c : Nat) (f : Cluster → Cluster) : (s.modCluster c f).limitsLocked = s.limitsLocked := rfl
@[simp] theorem State.modCluster_keyFuse (s : State) (c : Nat) (f : Cluster → Cluster) : (s.modCluster c f).keyFuse = s.keyFuse := rfl
@[simp] theorem State.modCluster_thermal (s : State) (c : Nat) (f : Cluster → Cluster) : (s.modCluster c f).thermal = s.thermal := rfl
@[simp] theorem State.modCluster_powered (s : State) (c : Nat) (f : Cluster → Cluster) : (s.modCluster c f).powered = s.powered := rfl
@[simp] theorem State.modCluster_fused (s : State) (c : Nat) (f : Cluster → Cluster) : (s.modCluster c f).fused = s.fused := rfl
@[simp] theorem State.modCluster_fuse (s : State) (c : Nat) (f : Cluster → Cluster) : (s.modCluster c f).fuse = s.fuse := rfl
@[simp] theorem State.modCluster_time (s : State) (c : Nat) (f : Cluster → Cluster) : (s.modCluster c f).time = s.time := rfl
@[simp] theorem State.modCluster_period (s : State) (c : Nat) (f : Cluster → Cluster) : (s.modCluster c f).period = s.period := rfl
@[simp] theorem State.modCluster_irqs (s : State) (c : Nat) (f : Cluster → Cluster) : (s.modCluster c f).irqs = s.irqs := rfl
@[simp] theorem State.modCluster_parts (s : State) (c : Nat) (f : Cluster → Cluster) : (s.modCluster c f).parts = s.parts := rfl
@[simp] theorem State.modCluster_dies (s : State) (c : Nat) (f : Cluster → Cluster) : (s.modCluster c f).dies = s.dies := rfl
@[simp] theorem State.modCluster_clusters (s : State) (c : Nat) (f : Cluster → Cluster) : (s.modCluster c f).clusters = vmod s.clusters c f := rfl
@[simp] theorem State.modCluster_cores (s : State) (c : Nat) (f : Cluster → Cluster) : (s.modCluster c f).cores = s.cores := rfl
@[simp] theorem State.modCluster_ports (s : State) (c : Nat) (f : Cluster → Cluster) : (s.modCluster c f).ports = s.ports := rfl
@[simp] theorem State.modCluster_launches (s : State) (c : Nat) (f : Cluster → Cluster) : (s.modCluster c f).launches = s.launches := rfl
@[simp] theorem State.modCluster_gangs (s : State) (c : Nat) (f : Cluster → Cluster) : (s.modCluster c f).gangs = s.gangs := rfl
@[simp] theorem State.modCluster_teams (s : State) (c : Nat) (f : Cluster → Cluster) : (s.modCluster c f).teams = s.teams := rfl
@[simp] theorem State.modCluster_visitors (s : State) (c : Nat) (f : Cluster → Cluster) : (s.modCluster c f).visitors = s.visitors := rfl
@[simp] theorem State.modCluster_caddySets (s : State) (c : Nat) (f : Cluster → Cluster) : (s.modCluster c f).caddySets = s.caddySets := rfl
@[simp] theorem State.modCluster_channel (s : State) (c : Nat) (f : Cluster → Cluster) : (s.modCluster c f).channel = s.channel := rfl
@[simp] theorem State.modCluster_fwd (s : State) (c : Nat) (f : Cluster → Cluster) : (s.modCluster c f).fwd = s.fwd := rfl
@[simp] theorem State.modCluster_arr (s : State) (c : Nat) (f : Cluster → Cluster) : (s.modCluster c f).arr = s.arr := rfl
@[simp] theorem State.modCluster_mem (s : State) (c : Nat) (f : Cluster → Cluster) : (s.modCluster c f).mem = s.mem := rfl
@[simp] theorem State.modCluster_hostMem (s : State) (c : Nat) (f : Cluster → Cluster) : (s.modCluster c f).hostMem = s.hostMem := rfl
@[simp] theorem State.modCluster_bad (s : State) (c : Nat) (f : Cluster → Cluster) : (s.modCluster c f).bad = s.bad := rfl
@[simp] theorem State.modCluster_nextId (s : State) (c : Nat) (f : Cluster → Cluster) : (s.modCluster c f).nextId = s.nextId := rfl
@[simp] theorem State.modCluster_agenda (s : State) (c : Nat) (f : Cluster → Cluster) : (s.modCluster c f).agenda = s.agenda := rfl
@[simp] theorem State.modCluster_rotor (s : State) (c : Nat) (f : Cluster → Cluster) : (s.modCluster c f).rotor = s.rotor := rfl
@[simp] theorem State.modCluster_cur (s : State) (c : Nat) (f : Cluster → Cluster) : (s.modCluster c f).cur = s.cur := rfl
@[simp] theorem State.modCluster_choice (s : State) (c : Nat) (f : Cluster → Cluster) : (s.modCluster c f).choice = s.choice := rfl
@[simp] theorem State.modCluster_observer (s : State) (c : Nat) (f : Cluster → Cluster) : (s.modCluster c f).observer = s.observer := rfl
@[simp] theorem State.modCluster_walks (s : State) (c : Nat) (f : Cluster → Cluster) : (s.modCluster c f).walks = s.walks := rfl
@[simp] theorem State.modCluster_touched (s : State) (c : Nat) (f : Cluster → Cluster) : (s.modCluster c f).touched = s.touched := rfl
@[simp] theorem State.modCluster_freeCtr (s : State) (c : Nat) (f : Cluster → Cluster) : (s.modCluster c f).freeCtr = s.freeCtr := rfl

@[simp] theorem State.modCore_stage (s : State) (c : Nat) (f : CoreSt → CoreSt) : (s.modCore c f).stage = s.stage := rfl
@[simp] theorem State.modCore_wdReset (s : State) (c : Nat) (f : CoreSt → CoreSt) : (s.modCore c f).wdReset = s.wdReset := rfl
@[simp] theorem State.modCore_cmdAddr (s : State) (c : Nat) (f : CoreSt → CoreSt) : (s.modCore c f).cmdAddr = s.cmdAddr := rfl
@[simp] theorem State.modCore_cmdBusy (s : State) (c : Nat) (f : CoreSt → CoreSt) : (s.modCore c f).cmdBusy = s.cmdBusy := rfl
@[simp] theorem State.modCore_derr (s : State) (c : Nat) (f : CoreSt → CoreSt) : (s.modCore c f).derr = s.derr := rfl
@[simp] theorem State.modCore_cmd (s : State) (c : Nat) (f : CoreSt → CoreSt) : (s.modCore c f).cmd = s.cmd := rfl
@[simp] theorem State.modCore_cmdBegun (s : State) (c : Nat) (f : CoreSt → CoreSt) : (s.modCore c f).cmdBegun = s.cmdBegun := rfl
@[simp] theorem State.modCore_cmdWait (s : State) (c : Nat) (f : CoreSt → CoreSt) : (s.modCore c f).cmdWait = s.cmdWait := rfl
@[simp] theorem State.modCore_meas (s : State) (c : Nat) (f : CoreSt → CoreSt) : (s.modCore c f).meas = s.meas := rfl
@[simp] theorem State.modCore_wdTime (s : State) (c : Nat) (f : CoreSt → CoreSt) : (s.modCore c f).wdTime = s.wdTime := rfl
@[simp] theorem State.modCore_node (s : State) (c : Nat) (f : CoreSt → CoreSt) : (s.modCore c f).node = s.node := rfl
@[simp] theorem State.modCore_pwrCap (s : State) (c : Nat) (f : CoreSt → CoreSt) : (s.modCore c f).pwrCap = s.pwrCap := rfl
@[simp] theorem State.modCore_limitsLocked (s : State) (c : Nat) (f : CoreSt → CoreSt) : (s.modCore c f).limitsLocked = s.limitsLocked := rfl
@[simp] theorem State.modCore_keyFuse (s : State) (c : Nat) (f : CoreSt → CoreSt) : (s.modCore c f).keyFuse = s.keyFuse := rfl
@[simp] theorem State.modCore_thermal (s : State) (c : Nat) (f : CoreSt → CoreSt) : (s.modCore c f).thermal = s.thermal := rfl
@[simp] theorem State.modCore_powered (s : State) (c : Nat) (f : CoreSt → CoreSt) : (s.modCore c f).powered = s.powered := rfl
@[simp] theorem State.modCore_fused (s : State) (c : Nat) (f : CoreSt → CoreSt) : (s.modCore c f).fused = s.fused := rfl
@[simp] theorem State.modCore_fuse (s : State) (c : Nat) (f : CoreSt → CoreSt) : (s.modCore c f).fuse = s.fuse := rfl
@[simp] theorem State.modCore_time (s : State) (c : Nat) (f : CoreSt → CoreSt) : (s.modCore c f).time = s.time := rfl
@[simp] theorem State.modCore_period (s : State) (c : Nat) (f : CoreSt → CoreSt) : (s.modCore c f).period = s.period := rfl
@[simp] theorem State.modCore_irqs (s : State) (c : Nat) (f : CoreSt → CoreSt) : (s.modCore c f).irqs = s.irqs := rfl
@[simp] theorem State.modCore_parts (s : State) (c : Nat) (f : CoreSt → CoreSt) : (s.modCore c f).parts = s.parts := rfl
@[simp] theorem State.modCore_dies (s : State) (c : Nat) (f : CoreSt → CoreSt) : (s.modCore c f).dies = s.dies := rfl
@[simp] theorem State.modCore_clusters (s : State) (c : Nat) (f : CoreSt → CoreSt) : (s.modCore c f).clusters = s.clusters := rfl
@[simp] theorem State.modCore_cores (s : State) (c : Nat) (f : CoreSt → CoreSt) : (s.modCore c f).cores = vmod s.cores c f := rfl
@[simp] theorem State.modCore_ports (s : State) (c : Nat) (f : CoreSt → CoreSt) : (s.modCore c f).ports = s.ports := rfl
@[simp] theorem State.modCore_launches (s : State) (c : Nat) (f : CoreSt → CoreSt) : (s.modCore c f).launches = s.launches := rfl
@[simp] theorem State.modCore_gangs (s : State) (c : Nat) (f : CoreSt → CoreSt) : (s.modCore c f).gangs = s.gangs := rfl
@[simp] theorem State.modCore_teams (s : State) (c : Nat) (f : CoreSt → CoreSt) : (s.modCore c f).teams = s.teams := rfl
@[simp] theorem State.modCore_visitors (s : State) (c : Nat) (f : CoreSt → CoreSt) : (s.modCore c f).visitors = s.visitors := rfl
@[simp] theorem State.modCore_caddySets (s : State) (c : Nat) (f : CoreSt → CoreSt) : (s.modCore c f).caddySets = s.caddySets := rfl
@[simp] theorem State.modCore_channel (s : State) (c : Nat) (f : CoreSt → CoreSt) : (s.modCore c f).channel = s.channel := rfl
@[simp] theorem State.modCore_fwd (s : State) (c : Nat) (f : CoreSt → CoreSt) : (s.modCore c f).fwd = s.fwd := rfl
@[simp] theorem State.modCore_arr (s : State) (c : Nat) (f : CoreSt → CoreSt) : (s.modCore c f).arr = s.arr := rfl
@[simp] theorem State.modCore_mem (s : State) (c : Nat) (f : CoreSt → CoreSt) : (s.modCore c f).mem = s.mem := rfl
@[simp] theorem State.modCore_hostMem (s : State) (c : Nat) (f : CoreSt → CoreSt) : (s.modCore c f).hostMem = s.hostMem := rfl
@[simp] theorem State.modCore_bad (s : State) (c : Nat) (f : CoreSt → CoreSt) : (s.modCore c f).bad = s.bad := rfl
@[simp] theorem State.modCore_nextId (s : State) (c : Nat) (f : CoreSt → CoreSt) : (s.modCore c f).nextId = s.nextId := rfl
@[simp] theorem State.modCore_agenda (s : State) (c : Nat) (f : CoreSt → CoreSt) : (s.modCore c f).agenda = s.agenda := rfl
@[simp] theorem State.modCore_rotor (s : State) (c : Nat) (f : CoreSt → CoreSt) : (s.modCore c f).rotor = s.rotor := rfl
@[simp] theorem State.modCore_cur (s : State) (c : Nat) (f : CoreSt → CoreSt) : (s.modCore c f).cur = s.cur := rfl
@[simp] theorem State.modCore_choice (s : State) (c : Nat) (f : CoreSt → CoreSt) : (s.modCore c f).choice = s.choice := rfl
@[simp] theorem State.modCore_observer (s : State) (c : Nat) (f : CoreSt → CoreSt) : (s.modCore c f).observer = s.observer := rfl
@[simp] theorem State.modCore_walks (s : State) (c : Nat) (f : CoreSt → CoreSt) : (s.modCore c f).walks = s.walks := rfl
@[simp] theorem State.modCore_touched (s : State) (c : Nat) (f : CoreSt → CoreSt) : (s.modCore c f).touched = s.touched := rfl
@[simp] theorem State.modCore_freeCtr (s : State) (c : Nat) (f : CoreSt → CoreSt) : (s.modCore c f).freeCtr = s.freeCtr := rfl

@[simp] theorem State.modDie_stage (s : State) (d : Nat) (f : Die → Die) : (s.modDie d f).stage = s.stage := rfl
@[simp] theorem State.modDie_wdReset (s : State) (d : Nat) (f : Die → Die) : (s.modDie d f).wdReset = s.wdReset := rfl
@[simp] theorem State.modDie_cmdAddr (s : State) (d : Nat) (f : Die → Die) : (s.modDie d f).cmdAddr = s.cmdAddr := rfl
@[simp] theorem State.modDie_cmdBusy (s : State) (d : Nat) (f : Die → Die) : (s.modDie d f).cmdBusy = s.cmdBusy := rfl
@[simp] theorem State.modDie_derr (s : State) (d : Nat) (f : Die → Die) : (s.modDie d f).derr = s.derr := rfl
@[simp] theorem State.modDie_cmd (s : State) (d : Nat) (f : Die → Die) : (s.modDie d f).cmd = s.cmd := rfl
@[simp] theorem State.modDie_cmdBegun (s : State) (d : Nat) (f : Die → Die) : (s.modDie d f).cmdBegun = s.cmdBegun := rfl
@[simp] theorem State.modDie_cmdWait (s : State) (d : Nat) (f : Die → Die) : (s.modDie d f).cmdWait = s.cmdWait := rfl
@[simp] theorem State.modDie_meas (s : State) (d : Nat) (f : Die → Die) : (s.modDie d f).meas = s.meas := rfl
@[simp] theorem State.modDie_wdTime (s : State) (d : Nat) (f : Die → Die) : (s.modDie d f).wdTime = s.wdTime := rfl
@[simp] theorem State.modDie_node (s : State) (d : Nat) (f : Die → Die) : (s.modDie d f).node = s.node := rfl
@[simp] theorem State.modDie_pwrCap (s : State) (d : Nat) (f : Die → Die) : (s.modDie d f).pwrCap = s.pwrCap := rfl
@[simp] theorem State.modDie_limitsLocked (s : State) (d : Nat) (f : Die → Die) : (s.modDie d f).limitsLocked = s.limitsLocked := rfl
@[simp] theorem State.modDie_keyFuse (s : State) (d : Nat) (f : Die → Die) : (s.modDie d f).keyFuse = s.keyFuse := rfl
@[simp] theorem State.modDie_thermal (s : State) (d : Nat) (f : Die → Die) : (s.modDie d f).thermal = s.thermal := rfl
@[simp] theorem State.modDie_powered (s : State) (d : Nat) (f : Die → Die) : (s.modDie d f).powered = s.powered := rfl
@[simp] theorem State.modDie_fused (s : State) (d : Nat) (f : Die → Die) : (s.modDie d f).fused = s.fused := rfl
@[simp] theorem State.modDie_fuse (s : State) (d : Nat) (f : Die → Die) : (s.modDie d f).fuse = s.fuse := rfl
@[simp] theorem State.modDie_time (s : State) (d : Nat) (f : Die → Die) : (s.modDie d f).time = s.time := rfl
@[simp] theorem State.modDie_period (s : State) (d : Nat) (f : Die → Die) : (s.modDie d f).period = s.period := rfl
@[simp] theorem State.modDie_irqs (s : State) (d : Nat) (f : Die → Die) : (s.modDie d f).irqs = s.irqs := rfl
@[simp] theorem State.modDie_parts (s : State) (d : Nat) (f : Die → Die) : (s.modDie d f).parts = s.parts := rfl
@[simp] theorem State.modDie_dies (s : State) (d : Nat) (f : Die → Die) : (s.modDie d f).dies = vmod s.dies d f := rfl
@[simp] theorem State.modDie_clusters (s : State) (d : Nat) (f : Die → Die) : (s.modDie d f).clusters = s.clusters := rfl
@[simp] theorem State.modDie_cores (s : State) (d : Nat) (f : Die → Die) : (s.modDie d f).cores = s.cores := rfl
@[simp] theorem State.modDie_ports (s : State) (d : Nat) (f : Die → Die) : (s.modDie d f).ports = s.ports := rfl
@[simp] theorem State.modDie_launches (s : State) (d : Nat) (f : Die → Die) : (s.modDie d f).launches = s.launches := rfl
@[simp] theorem State.modDie_gangs (s : State) (d : Nat) (f : Die → Die) : (s.modDie d f).gangs = s.gangs := rfl
@[simp] theorem State.modDie_teams (s : State) (d : Nat) (f : Die → Die) : (s.modDie d f).teams = s.teams := rfl
@[simp] theorem State.modDie_visitors (s : State) (d : Nat) (f : Die → Die) : (s.modDie d f).visitors = s.visitors := rfl
@[simp] theorem State.modDie_caddySets (s : State) (d : Nat) (f : Die → Die) : (s.modDie d f).caddySets = s.caddySets := rfl
@[simp] theorem State.modDie_channel (s : State) (d : Nat) (f : Die → Die) : (s.modDie d f).channel = s.channel := rfl
@[simp] theorem State.modDie_fwd (s : State) (d : Nat) (f : Die → Die) : (s.modDie d f).fwd = s.fwd := rfl
@[simp] theorem State.modDie_arr (s : State) (d : Nat) (f : Die → Die) : (s.modDie d f).arr = s.arr := rfl
@[simp] theorem State.modDie_mem (s : State) (d : Nat) (f : Die → Die) : (s.modDie d f).mem = s.mem := rfl
@[simp] theorem State.modDie_hostMem (s : State) (d : Nat) (f : Die → Die) : (s.modDie d f).hostMem = s.hostMem := rfl
@[simp] theorem State.modDie_bad (s : State) (d : Nat) (f : Die → Die) : (s.modDie d f).bad = s.bad := rfl
@[simp] theorem State.modDie_nextId (s : State) (d : Nat) (f : Die → Die) : (s.modDie d f).nextId = s.nextId := rfl
@[simp] theorem State.modDie_agenda (s : State) (d : Nat) (f : Die → Die) : (s.modDie d f).agenda = s.agenda := rfl
@[simp] theorem State.modDie_rotor (s : State) (d : Nat) (f : Die → Die) : (s.modDie d f).rotor = s.rotor := rfl
@[simp] theorem State.modDie_cur (s : State) (d : Nat) (f : Die → Die) : (s.modDie d f).cur = s.cur := rfl
@[simp] theorem State.modDie_choice (s : State) (d : Nat) (f : Die → Die) : (s.modDie d f).choice = s.choice := rfl
@[simp] theorem State.modDie_observer (s : State) (d : Nat) (f : Die → Die) : (s.modDie d f).observer = s.observer := rfl
@[simp] theorem State.modDie_walks (s : State) (d : Nat) (f : Die → Die) : (s.modDie d f).walks = s.walks := rfl
@[simp] theorem State.modDie_touched (s : State) (d : Nat) (f : Die → Die) : (s.modDie d f).touched = s.touched := rfl
@[simp] theorem State.modDie_freeCtr (s : State) (d : Nat) (f : Die → Die) : (s.modDie d f).freeCtr = s.freeCtr := rfl

@[simp] theorem State.modPort_stage (s : State) (p : Nat) (f : Port → Port) : (s.modPort p f).stage = s.stage := rfl
@[simp] theorem State.modPort_wdReset (s : State) (p : Nat) (f : Port → Port) : (s.modPort p f).wdReset = s.wdReset := rfl
@[simp] theorem State.modPort_cmdAddr (s : State) (p : Nat) (f : Port → Port) : (s.modPort p f).cmdAddr = s.cmdAddr := rfl
@[simp] theorem State.modPort_cmdBusy (s : State) (p : Nat) (f : Port → Port) : (s.modPort p f).cmdBusy = s.cmdBusy := rfl
@[simp] theorem State.modPort_derr (s : State) (p : Nat) (f : Port → Port) : (s.modPort p f).derr = s.derr := rfl
@[simp] theorem State.modPort_cmd (s : State) (p : Nat) (f : Port → Port) : (s.modPort p f).cmd = s.cmd := rfl
@[simp] theorem State.modPort_cmdBegun (s : State) (p : Nat) (f : Port → Port) : (s.modPort p f).cmdBegun = s.cmdBegun := rfl
@[simp] theorem State.modPort_cmdWait (s : State) (p : Nat) (f : Port → Port) : (s.modPort p f).cmdWait = s.cmdWait := rfl
@[simp] theorem State.modPort_meas (s : State) (p : Nat) (f : Port → Port) : (s.modPort p f).meas = s.meas := rfl
@[simp] theorem State.modPort_wdTime (s : State) (p : Nat) (f : Port → Port) : (s.modPort p f).wdTime = s.wdTime := rfl
@[simp] theorem State.modPort_node (s : State) (p : Nat) (f : Port → Port) : (s.modPort p f).node = s.node := rfl
@[simp] theorem State.modPort_pwrCap (s : State) (p : Nat) (f : Port → Port) : (s.modPort p f).pwrCap = s.pwrCap := rfl
@[simp] theorem State.modPort_limitsLocked (s : State) (p : Nat) (f : Port → Port) : (s.modPort p f).limitsLocked = s.limitsLocked := rfl
@[simp] theorem State.modPort_keyFuse (s : State) (p : Nat) (f : Port → Port) : (s.modPort p f).keyFuse = s.keyFuse := rfl
@[simp] theorem State.modPort_thermal (s : State) (p : Nat) (f : Port → Port) : (s.modPort p f).thermal = s.thermal := rfl
@[simp] theorem State.modPort_powered (s : State) (p : Nat) (f : Port → Port) : (s.modPort p f).powered = s.powered := rfl
@[simp] theorem State.modPort_fused (s : State) (p : Nat) (f : Port → Port) : (s.modPort p f).fused = s.fused := rfl
@[simp] theorem State.modPort_fuse (s : State) (p : Nat) (f : Port → Port) : (s.modPort p f).fuse = s.fuse := rfl
@[simp] theorem State.modPort_time (s : State) (p : Nat) (f : Port → Port) : (s.modPort p f).time = s.time := rfl
@[simp] theorem State.modPort_period (s : State) (p : Nat) (f : Port → Port) : (s.modPort p f).period = s.period := rfl
@[simp] theorem State.modPort_irqs (s : State) (p : Nat) (f : Port → Port) : (s.modPort p f).irqs = s.irqs := rfl
@[simp] theorem State.modPort_parts (s : State) (p : Nat) (f : Port → Port) : (s.modPort p f).parts = s.parts := rfl
@[simp] theorem State.modPort_dies (s : State) (p : Nat) (f : Port → Port) : (s.modPort p f).dies = s.dies := rfl
@[simp] theorem State.modPort_clusters (s : State) (p : Nat) (f : Port → Port) : (s.modPort p f).clusters = s.clusters := rfl
@[simp] theorem State.modPort_cores (s : State) (p : Nat) (f : Port → Port) : (s.modPort p f).cores = s.cores := rfl
@[simp] theorem State.modPort_ports (s : State) (p : Nat) (f : Port → Port) : (s.modPort p f).ports = vmod s.ports p f := rfl
@[simp] theorem State.modPort_launches (s : State) (p : Nat) (f : Port → Port) : (s.modPort p f).launches = s.launches := rfl
@[simp] theorem State.modPort_gangs (s : State) (p : Nat) (f : Port → Port) : (s.modPort p f).gangs = s.gangs := rfl
@[simp] theorem State.modPort_teams (s : State) (p : Nat) (f : Port → Port) : (s.modPort p f).teams = s.teams := rfl
@[simp] theorem State.modPort_visitors (s : State) (p : Nat) (f : Port → Port) : (s.modPort p f).visitors = s.visitors := rfl
@[simp] theorem State.modPort_caddySets (s : State) (p : Nat) (f : Port → Port) : (s.modPort p f).caddySets = s.caddySets := rfl
@[simp] theorem State.modPort_channel (s : State) (p : Nat) (f : Port → Port) : (s.modPort p f).channel = s.channel := rfl
@[simp] theorem State.modPort_fwd (s : State) (p : Nat) (f : Port → Port) : (s.modPort p f).fwd = s.fwd := rfl
@[simp] theorem State.modPort_arr (s : State) (p : Nat) (f : Port → Port) : (s.modPort p f).arr = s.arr := rfl
@[simp] theorem State.modPort_mem (s : State) (p : Nat) (f : Port → Port) : (s.modPort p f).mem = s.mem := rfl
@[simp] theorem State.modPort_hostMem (s : State) (p : Nat) (f : Port → Port) : (s.modPort p f).hostMem = s.hostMem := rfl
@[simp] theorem State.modPort_bad (s : State) (p : Nat) (f : Port → Port) : (s.modPort p f).bad = s.bad := rfl
@[simp] theorem State.modPort_nextId (s : State) (p : Nat) (f : Port → Port) : (s.modPort p f).nextId = s.nextId := rfl
@[simp] theorem State.modPort_agenda (s : State) (p : Nat) (f : Port → Port) : (s.modPort p f).agenda = s.agenda := rfl
@[simp] theorem State.modPort_rotor (s : State) (p : Nat) (f : Port → Port) : (s.modPort p f).rotor = s.rotor := rfl
@[simp] theorem State.modPort_cur (s : State) (p : Nat) (f : Port → Port) : (s.modPort p f).cur = s.cur := rfl
@[simp] theorem State.modPort_choice (s : State) (p : Nat) (f : Port → Port) : (s.modPort p f).choice = s.choice := rfl
@[simp] theorem State.modPort_observer (s : State) (p : Nat) (f : Port → Port) : (s.modPort p f).observer = s.observer := rfl
@[simp] theorem State.modPort_walks (s : State) (p : Nat) (f : Port → Port) : (s.modPort p f).walks = s.walks := rfl
@[simp] theorem State.modPort_touched (s : State) (p : Nat) (f : Port → Port) : (s.modPort p f).touched = s.touched := rfl
@[simp] theorem State.modPort_freeCtr (s : State) (p : Nat) (f : Port → Port) : (s.modPort p f).freeCtr = s.freeCtr := rfl

/-! ### Reading back -/

theorem State.part_modPart_self (s : State) {p : Nat} (f : Part → Part) (h : p < 8) :
    (s.modPart p f).part p = f (s.part p) := vget_vmod_self _ f h
theorem State.part_modPart_ne (s : State) {p j : Nat} (f : Part → Part) (hj : j < 8) (h : j ≠ p) :
    (s.modPart p f).part j = s.part j := vget_vmod_ne _ f hj h
theorem State.cluster_modCluster_self (s : State) {c : Nat} (f : Cluster → Cluster) (h : c < 72) :
    (s.modCluster c f).cluster c = f (s.cluster c) := vget_vmod_self _ f h
theorem State.cluster_modCluster_ne (s : State) {c j : Nat} (f : Cluster → Cluster) (hj : j < 72) (h : j ≠ c) :
    (s.modCluster c f).cluster j = s.cluster j := vget_vmod_ne _ f hj h
theorem State.core_modCore_self (s : State) {c : Nat} (f : CoreSt → CoreSt) (h : c < 288) :
    (s.modCore c f).core c = f (s.core c) := vget_vmod_self _ f h
theorem State.core_modCore_ne (s : State) {c j : Nat} (f : CoreSt → CoreSt) (hj : j < 288) (h : j ≠ c) :
    (s.modCore c f).core j = s.core j := vget_vmod_ne _ f hj h
theorem State.die_modDie_self (s : State) {d : Nat} (f : Die → Die) (h : d < 8) :
    (s.modDie d f).die d = f (s.die d) := vget_vmod_self _ f h
theorem State.die_modDie_ne (s : State) {d j : Nat} (f : Die → Die) (hj : j < 8) (h : j ≠ d) :
    (s.modDie d f).die j = s.die j := vget_vmod_ne _ f hj h
theorem State.port_modPort_self (s : State) {p : Nat} (f : Port → Port) (h : p < 16) :
    (s.modPort p f).port p = f (s.port p) := vget_vmod_self _ f h
theorem State.port_modPort_ne (s : State) {p j : Nat} (f : Port → Port) (hj : j < 16) (h : j ≠ p) :
    (s.modPort p f).port j = s.port j := vget_vmod_ne _ f hj h
theorem State.modTeam_get_self (s : State) (i : Nat) (f : Team → Team) :
    (s.modTeam i f).teams[i]? = s.teams[i]?.map f := modifyAt_getElem?_self ..
theorem State.modTeam_get_ne (s : State) {i j : Nat} (f : Team → Team) (h : j ≠ i) :
    (s.modTeam i f).teams[j]? = s.teams[j]? := modifyAt_getElem?_ne _ f h
theorem State.modGang_get_self (s : State) (i : Nat) (f : Gang → Gang) :
    (s.modGang i f).gangs[i]? = s.gangs[i]?.map f := modifyAt_getElem?_self ..
theorem State.modGang_get_ne (s : State) {i j : Nat} (f : Gang → Gang) (h : j ≠ i) :
    (s.modGang i f).gangs[j]? = s.gangs[j]? := modifyAt_getElem?_ne _ f h
theorem State.modLaunch_get_self (s : State) (i : Nat) (f : Launch → Launch) :
    (s.modLaunch i f).launches[i]? = s.launches[i]?.map f := modifyAt_getElem?_self ..
theorem State.modLaunch_get_ne (s : State) {i j : Nat} (f : Launch → Launch) (h : j ≠ i) :
    (s.modLaunch i f).launches[j]? = s.launches[j]? := modifyAt_getElem?_ne _ f h
theorem State.modVisitor_get_self (s : State) (i : Nat) (f : Visitor → Visitor) :
    (s.modVisitor i f).visitors[i]? = s.visitors[i]?.map f := modifyAt_getElem?_self ..
theorem State.modVisitor_get_ne (s : State) {i j : Nat} (f : Visitor → Visitor) (h : j ≠ i) :
    (s.modVisitor i f).visitors[j]? = s.visitors[j]? := modifyAt_getElem?_ne _ f h
theorem State.modSet_get_self (s : State) (i : Nat) (f : CaddySet → CaddySet) :
    (s.modSet i f).caddySets[i]? = s.caddySets[i]?.map f := modifyAt_getElem?_self ..
theorem State.modSet_get_ne (s : State) {i j : Nat} (f : CaddySet → CaddySet) (h : j ≠ i) :
    (s.modSet i f).caddySets[j]? = s.caddySets[j]? := modifyAt_getElem?_ne _ f h

/-! ### The `s` registers of a team (03/R58) -/

@[simp] theorem Team.wr_launch (T : Team) (r : BitVec 6) (x : Word) : (T.wr r x).launch = T.launch := by
  unfold Team.wr; split <;> rfl
@[simp] theorem Team.wr_gang (T : Team) (r : BitVec 6) (x : Word) : (T.wr r x).gang = T.gang := by
  unfold Team.wr; split <;> rfl
@[simp] theorem Team.wr_tid (T : Team) (r : BitVec 6) (x : Word) : (T.wr r x).tid = T.tid := by
  unfold Team.wr; split <;> rfl
@[simp] theorem Team.wr_rank (T : Team) (r : BitVec 6) (x : Word) : (T.wr r x).rank = T.rank := by
  unfold Team.wr; split <;> rfl
@[simp] theorem Team.wr_core (T : Team) (r : BitVec 6) (x : Word) : (T.wr r x).core = T.core := by
  unfold Team.wr; split <;> rfl
@[simp] theorem Team.wr_resident (T : Team) (r : BitVec 6) (x : Word) : (T.wr r x).resident = T.resident := by
  unfold Team.wr; split <;> rfl
@[simp] theorem Team.wr_phase (T : Team) (r : BitVec 6) (x : Word) : (T.wr r x).phase = T.phase := by
  unfold Team.wr; split <;> rfl
@[simp] theorem Team.wr_blocked (T : Team) (r : BitVec 6) (x : Word) : (T.wr r x).blocked = T.blocked := by
  unfold Team.wr; split <;> rfl
@[simp] theorem Team.wr_lblocked (T : Team) (r : BitVec 6) (x : Word) : (T.wr r x).lblocked = T.lblocked := by
  unfold Team.wr; split <;> rfl
@[simp] theorem Team.wr_w (T : Team) (r : BitVec 6) (x : Word) : (T.wr r x).w = T.w := by
  unfold Team.wr; split <;> rfl
@[simp] theorem Team.wr_n (T : Team) (r : BitVec 6) (x : Word) : (T.wr r x).n = T.n := by
  unfold Team.wr; split <;> rfl
@[simp] theorem Team.wr_rows (T : Team) (r : BitVec 6) (x : Word) : (T.wr r x).rows = T.rows := by
  unfold Team.wr; split <;> rfl
@[simp] theorem Team.wr_spc (T : Team) (r : BitVec 6) (x : Word) : (T.wr r x).spc = T.spc := by
  unfold Team.wr; split <;> rfl
@[simp] theorem Team.wr_resume (T : Team) (r : BitVec 6) (x : Word) : (T.wr r x).resume = T.resume := by
  unfold Team.wr; split <;> rfl
@[simp] theorem Team.wr_nfc (T : Team) (r : BitVec 6) (x : Word) : (T.wr r x).nfc = T.nfc := by
  unfold Team.wr; split <;> rfl
@[simp] theorem Team.wr_fpstat (T : Team) (r : BitVec 6) (x : Word) : (T.wr r x).fpstat = T.fpstat := by
  unfold Team.wr; split <;> rfl
@[simp] theorem Team.wr_mstat (T : Team) (r : BitVec 6) (x : Word) : (T.wr r x).mstat = T.mstat := by
  unfold Team.wr; split <;> rfl
@[simp] theorem Team.wr_tcause (T : Team) (r : BitVec 6) (x : Word) : (T.wr r x).tcause = T.tcause := by
  unfold Team.wr; split <;> rfl
@[simp] theorem Team.wr_tlpc (T : Team) (r : BitVec 6) (x : Word) : (T.wr r x).tlpc = T.tlpc := by
  unfold Team.wr; split <;> rfl
@[simp] theorem Team.wr_tspc (T : Team) (r : BitVec 6) (x : Word) : (T.wr r x).tspc = T.tspc := by
  unfold Team.wr; split <;> rfl
@[simp] theorem Team.wr_taddr (T : Team) (r : BitVec 6) (x : Word) : (T.wr r x).taddr = T.taddr := by
  unfold Team.wr; split <;> rfl
@[simp] theorem Team.wr_tlog (T : Team) (r : BitVec 6) (x : Word) : (T.wr r x).tlog = T.tlog := by
  unfold Team.wr; split <;> rfl
@[simp] theorem Team.wr_tseq (T : Team) (r : BitVec 6) (x : Word) : (T.wr r x).tseq = T.tseq := by
  unfold Team.wr; split <;> rfl
@[simp] theorem Team.wr_fmt (T : Team) (r : BitVec 6) (x : Word) : (T.wr r x).fmt = T.fmt := by
  unfold Team.wr; split <;> rfl
@[simp] theorem Team.wr_rkey (T : Team) (r : BitVec 6) (x : Word) : (T.wr r x).rkey = T.rkey := by
  unfold Team.wr; split <;> rfl
@[simp] theorem Team.wr_mcr (T : Team) (r : BitVec 6) (x : Word) : (T.wr r x).mcr = T.mcr := by
  unfold Team.wr; split <;> rfl
@[simp] theorem Team.wr_handler (T : Team) (r : BitVec 6) (x : Word) : (T.wr r x).handler = T.handler := by
  unfold Team.wr; split <;> rfl
@[simp] theorem Team.wr_migctl (T : Team) (r : BitVec 6) (x : Word) : (T.wr r x).migctl = T.migctl := by
  unfold Team.wr; split <;> rfl
@[simp] theorem Team.wr_tok (T : Team) (r : BitVec 6) (x : Word) : (T.wr r x).tok = T.tok := by
  unfold Team.wr; split <;> rfl
@[simp] theorem Team.wr_cmdCtr (T : Team) (r : BitVec 6) (x : Word) : (T.wr r x).cmdCtr = T.cmdCtr := by
  unfold Team.wr; split <;> rfl
@[simp] theorem Team.wr_softSeq (T : Team) (r : BitVec 6) (x : Word) : (T.wr r x).softSeq = T.softSeq := by
  unfold Team.wr; split <;> rfl
@[simp] theorem Team.wr_wait (T : Team) (r : BitVec 6) (x : Word) : (T.wr r x).wait = T.wait := by
  unfold Team.wr; split <;> rfl
@[simp] theorem Team.wr_savedWait (T : Team) (r : BitVec 6) (x : Word) : (T.wr r x).savedWait = T.savedWait := by
  unfold Team.wr; split <;> rfl
@[simp] theorem Team.wr_shold (T : Team) (r : BitVec 6) (x : Word) : (T.wr r x).shold = T.shold := by
  unfold Team.wr; split <;> rfl
@[simp] theorem Team.wr_pend (T : Team) (r : BitVec 6) (x : Word) : (T.wr r x).pend = T.pend := by
  unfold Team.wr; split <;> rfl
@[simp] theorem Team.wr_sOrd (T : Team) (r : BitVec 6) (x : Word) : (T.wr r x).sOrd = T.sOrd := by
  unfold Team.wr; split <;> rfl
@[simp] theorem Team.wr_lOrd (T : Team) (r : BitVec 6) (x : Word) : (T.wr r x).lOrd = T.lOrd := by
  unfold Team.wr; split <;> rfl
@[simp] theorem Team.wr_lMark (T : Team) (r : BitVec 6) (x : Word) : (T.wr r x).lMark = T.lMark := by
  unfold Team.wr; split <;> rfl
@[simp] theorem Team.wr_recMark (T : Team) (r : BitVec 6) (x : Word) : (T.wr r x).recMark = T.recMark := by
  unfold Team.wr; split <;> rfl
@[simp] theorem Team.wr_fqHeld (T : Team) (r : BitVec 6) (x : Word) : (T.wr r x).fqHeld = T.fqHeld := by
  unfold Team.wr; split <;> rfl
@[simp] theorem Team.wr_fqGen (T : Team) (r : BitVec 6) (x : Word) : (T.wr r x).fqGen = T.fqGen := by
  unfold Team.wr; split <;> rfl
@[simp] theorem Team.wr_regs (T : Team) (r : BitVec 6) (x : Word) : (T.wr r x).regs = T.regs := by
  unfold Team.wr; split <;> rfl
@[simp] theorem Team.wr_wcodes (T : Team) (r : BitVec 6) (x : Word) : (T.wr r x).wcodes = T.wcodes := by
  unfold Team.wr; split <;> rfl
@[simp] theorem Team.wr_slots (T : Team) (r : BitVec 6) (x : Word) : (T.wr r x).slots = T.slots := by
  unfold Team.wr; split <;> rfl
@[simp] theorem Team.wr_laneQ (T : Team) (r : BitVec 6) (x : Word) : (T.wr r x).laneQ = T.laneQ := by
  unfold Team.wr; split <;> rfl
@[simp] theorem Team.wr_blk (T : Team) (r : BitVec 6) (x : Word) : (T.wr r x).blk = T.blk := by
  unfold Team.wr; split <;> rfl
@[simp] theorem Team.wr_asideQ (T : Team) (r : BitVec 6) (x : Word) : (T.wr r x).asideQ = T.asideQ := by
  unfold Team.wr; split <;> rfl
@[simp] theorem Team.wr_held (T : Team) (r : BitVec 6) (x : Word) : (T.wr r x).held = T.held := by
  unfold Team.wr; split <;> rfl
@[simp] theorem Team.wr_fmtAside (T : Team) (r : BitVec 6) (x : Word) : (T.wr r x).fmtAside = T.fmtAside := by
  unfold Team.wr; split <;> rfl
@[simp] theorem Team.wr_nested (T : Team) (r : BitVec 6) (x : Word) : (T.wr r x).nested = T.nested := by
  unfold Team.wr; split <;> rfl
@[simp] theorem Team.wr_pendL (T : Team) (r : BitVec 6) (x : Word) : (T.wr r x).pendL = T.pendL := by
  unfold Team.wr; split <;> rfl
@[simp] theorem Team.wr_away (T : Team) (r : BitVec 6) (x : Word) : (T.wr r x).away = T.away := by
  unfold Team.wr; split <;> rfl
@[simp] theorem Team.wr_returned (T : Team) (r : BitVec 6) (x : Word) : (T.wr r x).returned = T.returned := by
  unfold Team.wr; split <;> rfl
@[simp] theorem Team.wr_vtrap (T : Team) (r : BitVec 6) (x : Word) : (T.wr r x).vtrap = T.vtrap := by
  unfold Team.wr; split <;> rfl
@[simp] theorem Team.wr_oplog (T : Team) (r : BitVec 6) (x : Word) : (T.wr r x).oplog = T.oplog := by
  unfold Team.wr; split <;> rfl
@[simp] theorem Team.wr_lastPage (T : Team) (r : BitVec 6) (x : Word) : (T.wr r x).lastPage = T.lastPage := by
  unfold Team.wr; split <;> rfl
@[simp] theorem Team.wr_early (T : Team) (r : BitVec 6) (x : Word) : (T.wr r x).early = T.early := by
  unfold Team.wr; split <;> rfl
@[simp] theorem Team.wr_low (T : Team) (r : BitVec 6) (x : Word) : (T.wr r x).low = T.low := by
  unfold Team.wr; split <;> rfl
@[simp] theorem Team.wr_shrinks (T : Team) (r : BitVec 6) (x : Word) : (T.wr r x).shrinks = T.shrinks := by
  unfold Team.wr; split <;> rfl
@[simp] theorem Team.wrp_launch (T : Team) (r : BitVec 6) (x : DWord) : (T.wrp r x).launch = T.launch := by simp [Team.wrp]
@[simp] theorem Team.wrp_gang (T : Team) (r : BitVec 6) (x : DWord) : (T.wrp r x).gang = T.gang := by simp [Team.wrp]
@[simp] theorem Team.wrp_tid (T : Team) (r : BitVec 6) (x : DWord) : (T.wrp r x).tid = T.tid := by simp [Team.wrp]
@[simp] theorem Team.wrp_rank (T : Team) (r : BitVec 6) (x : DWord) : (T.wrp r x).rank = T.rank := by simp [Team.wrp]
@[simp] theorem Team.wrp_core (T : Team) (r : BitVec 6) (x : DWord) : (T.wrp r x).core = T.core := by simp [Team.wrp]
@[simp] theorem Team.wrp_resident (T : Team) (r : BitVec 6) (x : DWord) : (T.wrp r x).resident = T.resident := by simp [Team.wrp]
@[simp] theorem Team.wrp_phase (T : Team) (r : BitVec 6) (x : DWord) : (T.wrp r x).phase = T.phase := by simp [Team.wrp]
@[simp] theorem Team.wrp_blocked (T : Team) (r : BitVec 6) (x : DWord) : (T.wrp r x).blocked = T.blocked := by simp [Team.wrp]
@[simp] theorem Team.wrp_lblocked (T : Team) (r : BitVec 6) (x : DWord) : (T.wrp r x).lblocked = T.lblocked := by simp [Team.wrp]
@[simp] theorem Team.wrp_w (T : Team) (r : BitVec 6) (x : DWord) : (T.wrp r x).w = T.w := by simp [Team.wrp]
@[simp] theorem Team.wrp_n (T : Team) (r : BitVec 6) (x : DWord) : (T.wrp r x).n = T.n := by simp [Team.wrp]
@[simp] theorem Team.wrp_rows (T : Team) (r : BitVec 6) (x : DWord) : (T.wrp r x).rows = T.rows := by simp [Team.wrp]
@[simp] theorem Team.wrp_spc (T : Team) (r : BitVec 6) (x : DWord) : (T.wrp r x).spc = T.spc := by simp [Team.wrp]
@[simp] theorem Team.wrp_resume (T : Team) (r : BitVec 6) (x : DWord) : (T.wrp r x).resume = T.resume := by simp [Team.wrp]
@[simp] theorem Team.wrp_nfc (T : Team) (r : BitVec 6) (x : DWord) : (T.wrp r x).nfc = T.nfc := by simp [Team.wrp]
@[simp] theorem Team.wrp_fpstat (T : Team) (r : BitVec 6) (x : DWord) : (T.wrp r x).fpstat = T.fpstat := by simp [Team.wrp]
@[simp] theorem Team.wrp_mstat (T : Team) (r : BitVec 6) (x : DWord) : (T.wrp r x).mstat = T.mstat := by simp [Team.wrp]
@[simp] theorem Team.wrp_tcause (T : Team) (r : BitVec 6) (x : DWord) : (T.wrp r x).tcause = T.tcause := by simp [Team.wrp]
@[simp] theorem Team.wrp_tlpc (T : Team) (r : BitVec 6) (x : DWord) : (T.wrp r x).tlpc = T.tlpc := by simp [Team.wrp]
@[simp] theorem Team.wrp_tspc (T : Team) (r : BitVec 6) (x : DWord) : (T.wrp r x).tspc = T.tspc := by simp [Team.wrp]
@[simp] theorem Team.wrp_taddr (T : Team) (r : BitVec 6) (x : DWord) : (T.wrp r x).taddr = T.taddr := by simp [Team.wrp]
@[simp] theorem Team.wrp_tlog (T : Team) (r : BitVec 6) (x : DWord) : (T.wrp r x).tlog = T.tlog := by simp [Team.wrp]
@[simp] theorem Team.wrp_tseq (T : Team) (r : BitVec 6) (x : DWord) : (T.wrp r x).tseq = T.tseq := by simp [Team.wrp]
@[simp] theorem Team.wrp_fmt (T : Team) (r : BitVec 6) (x : DWord) : (T.wrp r x).fmt = T.fmt := by simp [Team.wrp]
@[simp] theorem Team.wrp_rkey (T : Team) (r : BitVec 6) (x : DWord) : (T.wrp r x).rkey = T.rkey := by simp [Team.wrp]
@[simp] theorem Team.wrp_mcr (T : Team) (r : BitVec 6) (x : DWord) : (T.wrp r x).mcr = T.mcr := by simp [Team.wrp]
@[simp] theorem Team.wrp_handler (T : Team) (r : BitVec 6) (x : DWord) : (T.wrp r x).handler = T.handler := by simp [Team.wrp]
@[simp] theorem Team.wrp_migctl (T : Team) (r : BitVec 6) (x : DWord) : (T.wrp r x).migctl = T.migctl := by simp [Team.wrp]
@[simp] theorem Team.wrp_tok (T : Team) (r : BitVec 6) (x : DWord) : (T.wrp r x).tok = T.tok := by simp [Team.wrp]
@[simp] theorem Team.wrp_cmdCtr (T : Team) (r : BitVec 6) (x : DWord) : (T.wrp r x).cmdCtr = T.cmdCtr := by simp [Team.wrp]
@[simp] theorem Team.wrp_softSeq (T : Team) (r : BitVec 6) (x : DWord) : (T.wrp r x).softSeq = T.softSeq := by simp [Team.wrp]
@[simp] theorem Team.wrp_wait (T : Team) (r : BitVec 6) (x : DWord) : (T.wrp r x).wait = T.wait := by simp [Team.wrp]
@[simp] theorem Team.wrp_savedWait (T : Team) (r : BitVec 6) (x : DWord) : (T.wrp r x).savedWait = T.savedWait := by simp [Team.wrp]
@[simp] theorem Team.wrp_shold (T : Team) (r : BitVec 6) (x : DWord) : (T.wrp r x).shold = T.shold := by simp [Team.wrp]
@[simp] theorem Team.wrp_pend (T : Team) (r : BitVec 6) (x : DWord) : (T.wrp r x).pend = T.pend := by simp [Team.wrp]
@[simp] theorem Team.wrp_sOrd (T : Team) (r : BitVec 6) (x : DWord) : (T.wrp r x).sOrd = T.sOrd := by simp [Team.wrp]
@[simp] theorem Team.wrp_lOrd (T : Team) (r : BitVec 6) (x : DWord) : (T.wrp r x).lOrd = T.lOrd := by simp [Team.wrp]
@[simp] theorem Team.wrp_lMark (T : Team) (r : BitVec 6) (x : DWord) : (T.wrp r x).lMark = T.lMark := by simp [Team.wrp]
@[simp] theorem Team.wrp_recMark (T : Team) (r : BitVec 6) (x : DWord) : (T.wrp r x).recMark = T.recMark := by simp [Team.wrp]
@[simp] theorem Team.wrp_fqHeld (T : Team) (r : BitVec 6) (x : DWord) : (T.wrp r x).fqHeld = T.fqHeld := by simp [Team.wrp]
@[simp] theorem Team.wrp_fqGen (T : Team) (r : BitVec 6) (x : DWord) : (T.wrp r x).fqGen = T.fqGen := by simp [Team.wrp]
@[simp] theorem Team.wrp_regs (T : Team) (r : BitVec 6) (x : DWord) : (T.wrp r x).regs = T.regs := by simp [Team.wrp]
@[simp] theorem Team.wrp_wcodes (T : Team) (r : BitVec 6) (x : DWord) : (T.wrp r x).wcodes = T.wcodes := by simp [Team.wrp]
@[simp] theorem Team.wrp_slots (T : Team) (r : BitVec 6) (x : DWord) : (T.wrp r x).slots = T.slots := by simp [Team.wrp]
@[simp] theorem Team.wrp_laneQ (T : Team) (r : BitVec 6) (x : DWord) : (T.wrp r x).laneQ = T.laneQ := by simp [Team.wrp]
@[simp] theorem Team.wrp_blk (T : Team) (r : BitVec 6) (x : DWord) : (T.wrp r x).blk = T.blk := by simp [Team.wrp]
@[simp] theorem Team.wrp_asideQ (T : Team) (r : BitVec 6) (x : DWord) : (T.wrp r x).asideQ = T.asideQ := by simp [Team.wrp]
@[simp] theorem Team.wrp_held (T : Team) (r : BitVec 6) (x : DWord) : (T.wrp r x).held = T.held := by simp [Team.wrp]
@[simp] theorem Team.wrp_fmtAside (T : Team) (r : BitVec 6) (x : DWord) : (T.wrp r x).fmtAside = T.fmtAside := by simp [Team.wrp]
@[simp] theorem Team.wrp_nested (T : Team) (r : BitVec 6) (x : DWord) : (T.wrp r x).nested = T.nested := by simp [Team.wrp]
@[simp] theorem Team.wrp_pendL (T : Team) (r : BitVec 6) (x : DWord) : (T.wrp r x).pendL = T.pendL := by simp [Team.wrp]
@[simp] theorem Team.wrp_away (T : Team) (r : BitVec 6) (x : DWord) : (T.wrp r x).away = T.away := by simp [Team.wrp]
@[simp] theorem Team.wrp_returned (T : Team) (r : BitVec 6) (x : DWord) : (T.wrp r x).returned = T.returned := by simp [Team.wrp]
@[simp] theorem Team.wrp_vtrap (T : Team) (r : BitVec 6) (x : DWord) : (T.wrp r x).vtrap = T.vtrap := by simp [Team.wrp]
@[simp] theorem Team.wrp_oplog (T : Team) (r : BitVec 6) (x : DWord) : (T.wrp r x).oplog = T.oplog := by simp [Team.wrp]
@[simp] theorem Team.wrp_lastPage (T : Team) (r : BitVec 6) (x : DWord) : (T.wrp r x).lastPage = T.lastPage := by simp [Team.wrp]
@[simp] theorem Team.wrp_early (T : Team) (r : BitVec 6) (x : DWord) : (T.wrp r x).early = T.early := by simp [Team.wrp]
@[simp] theorem Team.wrp_low (T : Team) (r : BitVec 6) (x : DWord) : (T.wrp r x).low = T.low := by simp [Team.wrp]
@[simp] theorem Team.wrp_shrinks (T : Team) (r : BitVec 6) (x : DWord) : (T.wrp r x).shrinks = T.shrinks := by simp [Team.wrp]

@[simp] theorem Team.wr_zero (T : Team) (x : Word) : T.wr 0 x = T := rfl
@[simp] theorem Team.rd_zero (T : Team) : T.rd 0 = 0 := rfl

theorem Team.wr_s (T : Team) {r : BitVec 6} (x : Word) (h : r ≠ 0) : (T.wr r x).s = T.s.set r.toNat x := by
  unfold Team.wr; rw [if_neg h]

theorem Team.rd_wr_self (T : Team) {r : BitVec 6} (x : Word) (h : r ≠ 0) : (T.wr r x).rd r = x := by
  rw [Team.rd, if_neg h]; simp [Team.wr_s T x h]

theorem Team.rd_wr_ne (T : Team) {r q : BitVec 6} (x : Word) (h : q ≠ r) : (T.wr r x).rd q = T.rd q := by
  by_cases hr : r = 0
  · subst hr; rfl
  · have hn : r.toNat ≠ q.toNat := fun e => h (BitVec.eq_of_toNat_eq e.symm)
    simp [Team.rd, Team.wr_s T x hr, hn]

/-- A pair reads back what was written to it, but for its half in `s0`. -/
theorem Team.rdp_wrp (T : Team) {r : BitVec 6} (x : DWord) (h0 : r ≠ 0) (h1 : r + 1 ≠ 0) : (T.wrp r x).rdp r = x := by
  have hne : r ≠ r + 1 := by simp
  rw [Team.rdp, Team.wrp, Team.rd_wr_self _ _ h1, Team.rd_wr_ne _ _ hne, Team.rd_wr_self _ _ h0]
  apply BitVec.eq_of_getLsbD_eq
  intro i hi
  simp only [BitVec.getLsbD_append, BitVec.getLsbD_extractLsb']
  split
  · simp [*]
  · have : i - 32 < 32 := by omega
    simp only [this, decide_true, Bool.true_and]
    congr 1; omega

/-! ### What a trap leaves of a team (03/R54, R55) -/

@[simp] theorem Team.setAside_launch (T : Team) : T.setAside.launch = T.launch := rfl
@[simp] theorem Team.setAside_gang (T : Team) : T.setAside.gang = T.gang := rfl
@[simp] theorem Team.setAside_tid (T : Team) : T.setAside.tid = T.tid := rfl
@[simp] theorem Team.setAside_rank (T : Team) : T.setAside.rank = T.rank := rfl
@[simp] theorem Team.setAside_core (T : Team) : T.setAside.core = T.core := rfl
@[simp] theorem Team.setAside_resident (T : Team) : T.setAside.resident = T.resident := rfl
@[simp] theorem Team.setAside_w (T : Team) : T.setAside.w = T.w := rfl
@[simp] theorem Team.setAside_n (T : Team) : T.setAside.n = T.n := rfl
@[simp] theorem Team.setAside_rows (T : Team) : T.setAside.rows = T.rows := rfl
@[simp] theorem Team.setAside_spc (T : Team) : T.setAside.spc = T.spc := rfl
@[simp] theorem Team.setAside_s (T : Team) : T.setAside.s = T.s := rfl
@[simp] theorem Team.setAside_resume (T : Team) : T.setAside.resume = T.resume := rfl
@[simp] theorem Team.setAside_nfc (T : Team) : T.setAside.nfc = T.nfc := rfl
@[simp] theorem Team.setAside_fpstat (T : Team) : T.setAside.fpstat = T.fpstat := rfl
@[simp] theorem Team.setAside_mstat (T : Team) : T.setAside.mstat = T.mstat := rfl
@[simp] theorem Team.setAside_tcause (T : Team) : T.setAside.tcause = T.tcause := rfl
@[simp] theorem Team.setAside_tlpc (T : Team) : T.setAside.tlpc = T.tlpc := rfl
@[simp] theorem Team.setAside_tspc (T : Team) : T.setAside.tspc = T.tspc := rfl
@[simp] theorem Team.setAside_taddr (T : Team) : T.setAside.taddr = T.taddr := rfl
@[simp] theorem Team.setAside_tlog (T : Team) : T.setAside.tlog = T.tlog := rfl
@[simp] theorem Team.setAside_tseq (T : Team) : T.setAside.tseq = T.tseq := rfl
@[simp] theorem Team.setAside_rkey (T : Team) : T.setAside.rkey = T.rkey := rfl
@[simp] theorem Team.setAside_mcr (T : Team) : T.setAside.mcr = T.mcr := rfl
@[simp] theorem Team.setAside_handler (T : Team) : T.setAside.handler = T.handler := rfl
@[simp] theorem Team.setAside_migctl (T : Team) : T.setAside.migctl = T.migctl := rfl
@[simp] theorem Team.setAside_tok (T : Team) : T.setAside.tok = T.tok := rfl
@[simp] theorem Team.setAside_cmdCtr (T : Team) : T.setAside.cmdCtr = T.cmdCtr := rfl
@[simp] theorem Team.setAside_softSeq (T : Team) : T.setAside.softSeq = T.softSeq := rfl
@[simp] theorem Team.setAside_pend (T : Team) : T.setAside.pend = T.pend := rfl
@[simp] theorem Team.setAside_sOrd (T : Team) : T.setAside.sOrd = T.sOrd := rfl
@[simp] theorem Team.setAside_lOrd (T : Team) : T.setAside.lOrd = T.lOrd := rfl
@[simp] theorem Team.setAside_lMark (T : Team) : T.setAside.lMark = T.lMark := rfl
@[simp] theorem Team.setAside_recMark (T : Team) : T.setAside.recMark = T.recMark := rfl
@[simp] theorem Team.setAside_fqHeld (T : Team) : T.setAside.fqHeld = T.fqHeld := rfl
@[simp] theorem Team.setAside_fqGen (T : Team) : T.setAside.fqGen = T.fqGen := rfl
@[simp] theorem Team.setAside_regs (T : Team) : T.setAside.regs = T.regs := rfl
@[simp] theorem Team.setAside_wcodes (T : Team) : T.setAside.wcodes = T.wcodes := rfl
@[simp] theorem Team.setAside_slots (T : Team) : T.setAside.slots = T.slots := rfl
@[simp] theorem Team.setAside_nested (T : Team) : T.setAside.nested = T.nested := rfl
@[simp] theorem Team.setAside_pendL (T : Team) : T.setAside.pendL = T.pendL := rfl
@[simp] theorem Team.setAside_away (T : Team) : T.setAside.away = T.away := rfl
@[simp] theorem Team.setAside_returned (T : Team) : T.setAside.returned = T.returned := rfl
@[simp] theorem Team.setAside_vtrap (T : Team) : T.setAside.vtrap = T.vtrap := rfl
@[simp] theorem Team.setAside_lastPage (T : Team) : T.setAside.lastPage = T.lastPage := rfl
@[simp] theorem Team.setAside_low (T : Team) : T.setAside.low = T.low := rfl
@[simp] theorem Team.setAside_shrinks (T : Team) : T.setAside.shrinks = T.shrinks := rfl
@[simp] theorem Team.setAside_phase (T : Team) : T.setAside.phase = .trapped := rfl
@[simp] theorem Team.setAside_laneQ (T : Team) : T.setAside.laneQ = [] := rfl
@[simp] theorem Team.setAside_asideQ (T : Team) : T.setAside.asideQ = T.laneQ := rfl
@[simp] theorem Team.setAside_blk (T : Team) : T.setAside.blk = none := rfl
@[simp] theorem Team.setAside_wait (T : Team) : T.setAside.wait = .none := rfl
@[simp] theorem Team.setAside_shold (T : Team) : T.setAside.shold = none := rfl
@[simp] theorem Team.setAside_blocked (T : Team) : T.setAside.blocked = false := rfl
@[simp] theorem Team.setAside_lblocked (T : Team) : T.setAside.lblocked = false := rfl
@[simp] theorem Team.setAside_early (T : Team) : T.setAside.early = [] := rfl
@[simp] theorem Team.setAside_fmtAside (T : Team) : T.setAside.fmtAside = T.fmt := rfl
theorem Team.setAside_held (T : Team) : T.setAside.held.isSome = T.blk.isSome := by
  unfold Team.setAside; cases T.blk <;> rfl

end Sys2Proof.Machine
end

