-- ==== Sys2Proof/Laws/Steps.lean ====
section
/-!
SUPPORT. What the shared operations of S and L instructions can do, said once: how an instruction is issued and ends,
what an S trap leaves, and what an instruction with lanes to act on comes to.
-/

namespace Sys2Proof.Machine

/-! ### Memory alone -/

theorem State.sameMemory_refl (s : State) : s.sameMemory s := ⟨fun _ => rfl, fun _ => rfl, fun _ _ => rfl⟩

theorem State.sameMemory_trans {s s' s'' : State} (h : s.sameMemory s') (g : s'.sameMemory s'') : s.sameMemory s'' :=
  ⟨fun a => (g.1 a).trans (h.1 a), fun a => (g.2.1 a).trans (h.2.1 a), fun x a => (g.2.2 x a).trans (h.2.2 x a)⟩

/-- A state with the same memories and gangs has the same memory. -/
theorem State.sameMemory_of {s s' : State} (h1 : s'.mem = s.mem) (h2 : s'.hostMem = s.hostMem) (h3 : s'.gangs = s.gangs) :
    s.sameMemory s' :=
  ⟨fun a => by rw [h1], fun a => by rw [h2], fun g a => by simp only [State.gang, h3]⟩

theorem State.sameMemory_modTeam (s : State) (t : Nat) (f : Team → Team) : s.sameMemory (s.modTeam t f) :=
  State.sameMemory_of rfl rfl rfl

theorem State.sameOthers_refl (s : State) (t : Nat) : s.sameOthers s t := fun _ _ => rfl

theorem State.sameOthers_trans {s s' s'' : State} {t : Nat} (h : s.sameOthers s' t) (g : s'.sameOthers s'' t) :
    s.sameOthers s'' t := fun u hu => (g u hu).trans (h u hu)

theorem State.sameOthers_modTeam (s : State) (t : Nat) (f : Team → Team) : s.sameOthers (s.modTeam t f) t :=
  fun _ hu => State.modTeam_get_ne s f hu

/-- A charge to a budget changes nothing but budgets of partitions. -/
theorem State.charge_eq (s : State) (p k n : Nat) : ∃ f, s.charge p k n = s.modPart p f := ⟨_, rfl⟩

@[simp] theorem State.charge_teams (s : State) (p k n : Nat) : (s.charge p k n).teams = s.teams := rfl
@[simp] theorem State.charge_gangs (s : State) (p k n : Nat) : (s.charge p k n).gangs = s.gangs := rfl
@[simp] theorem State.charge_mem (s : State) (p k n : Nat) : (s.charge p k n).mem = s.mem := rfl
@[simp] theorem State.charge_hostMem (s : State) (p k n : Nat) : (s.charge p k n).hostMem = s.hostMem := rfl
@[simp] theorem State.charge_clusters (s : State) (p k n : Nat) : (s.charge p k n).clusters = s.clusters := rfl

/-! ### S instructions: issue and end -/

/-- An S instruction that can issue comes to what its rule says. -/
theorem State.runS_eq {s : State} {t : Nat} {T : Team} {rs : List (BitVec 6)} (h : s.runsS t T rs) (f : Nat → Team → Eff) :
    s.runS rs f = .next (s.finishS t (f t T)) := by
  obtain ⟨h1, h2, h3⟩ := h
  simp [State.runS, h1, h2, h3]

/-- Everything that an S instruction can come to: no S-stream is current, or it waits for a load in flight, or its rule
has its effect. -/
theorem State.runS_cases (s : State) (rs : List (BitVec 6)) (f : Nat → Team → Eff) :
    s.runS rs f = .fault .noStream ∨
    ∃ t T, s.cur = .s t ∧ s.teams[t]? = some T ∧
      ((T.busy rs = true ∧ s.runS rs f = .next (s.finishS t (.stall s))) ∨
       (T.busy rs = false ∧ s.runS rs f = .next (s.finishS t (f t T)))) := by
  unfold State.runS
  split
  · rename_i t hc
    split
    · rename_i T hT
      refine .inr ⟨t, T, hc, hT, ?_⟩
      cases hb : T.busy rs <;> simp
    · exact .inl rfl
  · exact .inl rfl

/-- An S instruction that changes only its team ends so. -/
theorem State.finishS_setTeam (s : State) (t : Nat) {T U : Team} (_h : U.spc = T.spc) :
    s.finishS t (.done (s.setTeam t U)) = s.sNext t U := by
  simp [State.finishS, State.sNext, State.sDone, State.setTeam, State.modTeam, modifyAt_modifyAt]

theorem State.runReg_eq {s : State} {t : Nat} {T : Team} {rs : List (BitVec 6)} (h : s.runsS t T rs) {f : Team → Team}
    (hf : (f T).spc = T.spc) : s.runReg rs f = .next (s.sNext t (f T)) := by
  rw [State.runReg, State.runS_eq h, State.finishS_setTeam s t hf]

/-- An S instruction that completes changes, of what its rule left, the S-PC and wait of its team and a budget. -/
theorem State.finishS_done_frame (s s1 : State) (t : Nat) :
    (s.finishS t (.done s1)).mem = s1.mem ∧ (s.finishS t (.done s1)).hostMem = s1.hostMem ∧
    (s.finishS t (.done s1)).gangs = s1.gangs ∧ (s.finishS t (.done s1)).clusters = s1.clusters ∧
    (s.finishS t (.done s1)).teams =
      modifyAt s1.teams t (fun T => { T with spc := T.spc + 4, wait := .none, blocked := false }) :=
  ⟨rfl, rfl, rfl, rfl, rfl⟩

/-! ### S traps -/

theorem State.leaveWait_teams (s : State) (t : Nat) : (s.leaveWait t).teams = s.teams := rfl
theorem State.leaveWait_gangs (s : State) (t : Nat) : (s.leaveWait t).gangs = s.gangs := rfl
theorem State.leaveWait_mem (s : State) (t : Nat) : (s.leaveWait t).mem = s.mem := rfl
theorem State.leaveWait_hostMem (s : State) (t : Nat) : (s.leaveWait t).hostMem = s.hostMem := rfl

theorem State.team_of {s : State} {t : Nat} {T : Team} (h : s.teams[t]? = some T) : s.team t = T := by
  simp [State.team, h]

/-- The handler takes a trap: the team is set aside and its S-PC is HANDLER. -/
theorem State.divert_handler {s : State} {t : Nat} {T : Team} (c : Cause) (h : s.teams[t]? = some T) (hh : T.hasHandler) :
    s.divert t c = (s.leaveWait t).modTeam t (fun U => { U.setAside with spc := U.handler }) := by
  have hT : s.team t = T := State.team_of h
  have hc : ¬((decide (T.handler = 0) || T.phase == TPhase.trapped) = true) := by
    rw [hh.2, decide_eq_false hh.1]; decide
  unfold State.divert
  rw [hT]
  exact if_neg hc

theorem sDiverted_of (T : Team) (c : Cause) (a : DWord) :
    SDiverted T { ({ T.sTrapRegs c a with wait := .none } : Team).setAside with spc := T.handler } c a where
  spc := rfl
  phase := rfl
  tcause := rfl
  taddr := rfl
  tspc := rfl
  tlog := rfl
  resume := rfl
  laneQ := ⟨rfl, rfl⟩
  blk := ⟨rfl, Team.setAside_held { T.sTrapRegs c a with wait := .none }⟩
  kept := ⟨rfl, rfl, rfl, rfl, rfl, rfl, rfl, rfl, rfl, rfl, rfl, rfl, rfl⟩

/-- What an S trap of a team with a handler leaves (03/R54, R55). -/
theorem State.trapS_handler {s : State} {t : Nat} {T : Team} (c : Cause) (a : DWord) (h : s.teams[t]? = some T)
    (hh : T.hasHandler) :
    ∃ U, (s.trapS t c a).teams[t]? = some U ∧ SDiverted T U c a ∧ s.sameMemory (s.trapS t c a) ∧
      s.sameOthers (s.trapS t c a) t := by
  let V : Team := { T.sTrapRegs c a with wait := .none }
  let s1 := s.modTeam t (fun T => { T.sTrapRegs c a with wait := .none })
  have h1 : s1.teams[t]? = some V := by rw [State.modTeam_get_self, h]; rfl
  have e : s.trapS t c a = (s1.leaveWait t).modTeam t (fun U => { U.setAside with spc := U.handler }) :=
    State.divert_handler c h1 hh
  rw [e]
  refine ⟨{ V.setAside with spc := V.handler }, ?_, sDiverted_of T c a, ?_, ?_⟩
  · have h2 : (s1.leaveWait t).teams[t]? = some V := h1
    rw [State.modTeam_get_self, h2]; rfl
  · have h2 : s1.sameMemory (s1.leaveWait t) :=
      State.sameMemory_of (s1.leaveWait_mem t) (s1.leaveWait_hostMem t) (s1.leaveWait_gangs t)
    exact State.sameMemory_trans (State.sameMemory_modTeam s t _)
      (State.sameMemory_trans h2 (State.sameMemory_modTeam (s1.leaveWait t) t _))
  · intro u hu
    have h3 : (s1.leaveWait t).teams[u]? = s.teams[u]? := State.modTeam_get_ne s _ hu
    exact (State.modTeam_get_ne (s1.leaveWait t) _ hu).trans h3

/-- An S instruction whose rule traps, in a team with a handler, traps precisely; `s1` is the state as its checks left
it. -/
theorem State.runS_traps {s s1 : State} {t : Nat} {T : Team} {rs : List (BitVec 6)} {f : Nat → Team → Eff} {c : Cause}
    {a : DWord} (h : s.runsS t T rs) (hh : T.hasHandler) (hf : f t T = .trap s1 c a) (h1 : s1.teams = s.teams)
    (hm : s.sameMemory s1) : TrapsS (s.runS rs f) s t T c a := by
  rw [State.runS_eq h, hf]
  obtain ⟨U, g1, g2, g3, g4⟩ := State.trapS_handler (s := s1) c a (by rw [h1]; exact h.2.1) hh
  refine ⟨_, U, rfl, ?_, g2, ?_, ?_⟩
  · simpa [State.finishS] using g1
  · exact State.sameMemory_trans hm (State.sameMemory_trans g3 (State.sameMemory_of rfl rfl rfl))
  · intro u hu
    have := g4 u hu
    rw [h1] at this
    simpa [State.finishS] using this

/-- A privileged instruction in a team that is no supervisor traps (15/R383). -/
theorem State.runPriv_user {s : State} {t : Nat} {T : Team} {rs : List (BitVec 6)} (f : Nat → Team → Eff)
    (h : s.runsS t T rs) (hh : T.hasHandler) (hu : (s.descOf t).sup = false) :
    TrapsS (s.runPriv rs f) s t T .privileged T.spc :=
  State.runS_traps h hh (by simp [hu]) rfl (State.sameMemory_refl s)

/-- A privileged instruction in a supervisor team comes to what its rule says. -/
theorem State.runPriv_sup {s : State} {t : Nat} {T : Team} {rs : List (BitVec 6)} (f : Nat → Team → Eff)
    (h : s.runsS t T rs) (hu : (s.descOf t).sup = true) : s.runPriv rs f = .next (s.finishS t (f t T)) := by
  rw [State.runPriv, State.runS_eq h]; simp [hu]

/-! ### L instructions -/

theorem Mask.or_zero (m : Mask) : m ||| 0 = m := by simp

/-- Registers that are sound leave the rule of an instruction as it is. -/
theorem State.runSound_sound {s : State} {C : LCtx} {i : Instr} {d : Nat} (h : s.lBroken C i d = 0)
    (f : State → LCtx → LEff) : s.runSound C i d f = f s C := by
  unfold State.runSound
  rw [h]
  exact if_pos (beq_self_eq_true _)

/-- An L instruction with lanes to act on comes to what its rule says of them, and what it wrote is whole. -/
theorem State.runLAdj_acts {s : State} {i : Instr} {ms : BitVec 3} {C : LCtx} (h : s.actsL i ms C) (team : Bool)
    (f : State → LCtx → LEff) :
    s.runLAdj i ms team (fun s C => (s, C)) (fun _ => none) f =
      .next ((s.finishL (f s C)).healL C i (if isPending i then 0 else (f s C).wrote)) := by
  obtain ⟨⟨⟨D, b, hD, h1, h2, h3, hm, rfl⟩, h4, h6⟩, h5⟩ := h
  have h6' : s.lBroken { D with blk := b, eff := D.effOf ms } i (s.softD D.t i) = 0 := h6
  have h4' : LCtx.regCheck { D with blk := b, eff := D.effOf ms } (touch i (s.softD D.t i)) = none := h4
  have h5' : D.effOf ms ≠ 0 := h5
  unfold State.runLAdj
  rw [hD]
  simp only [h1, h2, h3, hm, Mask.or_zero, h4']
  rw [if_neg (by decide), if_neg (by decide), if_neg (by rw [decide_eq_false h5', Bool.false_and]; decide)]
  simp only [State.runSound_sound h6']

theorem State.runL_acts {s : State} {i : Instr} {ms : BitVec 3} {C : LCtx} (h : s.actsL i ms C) (team : Bool)
    (f : LCtx → LEff) :
    s.runL i ms team f = .next ((s.finishL (f C)).healL C i (if isPending i then 0 else (f C).wrote)) :=
  State.runLAdj_acts h team (fun _ => f)

/-- Under an empty mask an instruction that acts per lane completes with nothing done (02/R30). -/
theorem State.runLAdj_empty {s : State} {i : Instr} {ms : BitVec 3} {C : LCtx} (h : s.issuesL i ms C) (he : C.eff = 0)
    (pre : LCtx → Option (Cause × DWord)) (f : State → LCtx → LEff) :
    s.runLAdj i ms false (fun s C => (s, C)) pre f = .next (s.finishL (.done s C)) := by
  obtain ⟨D, b, hD, h1, h2, h3, hm, rfl⟩ := h
  have he' : D.effOf ms = 0 := he
  unfold State.runLAdj
  rw [hD]
  simp only [h1, h2, h3, hm, Mask.or_zero]
  rw [if_neg (by decide), if_neg (by decide), if_pos (by simp [he'])]

/-- An L instruction never refuses, and it faults only when no L-stream or visitor is current. -/
theorem State.runLAdj_next (s : State) (i : Instr) (ms : BitVec 3) (team : Bool) (adj : State → LCtx → State × LCtx)
    (pre : LCtx → Option (Cause × DWord)) (f : State → LCtx → LEff) :
    (s.lctx = none ∧ s.runLAdj i ms team adj pre f = .fault .noStream) ∨
      ∃ s', s.runLAdj i ms team adj pre f = .next s' := by
  unfold State.runLAdj
  split
  · exact .inl ⟨by assumption, rfl⟩
  · right
    simp only []
    repeat' split
    all_goals exact ⟨_, rfl⟩

theorem State.finishL_done (s : State) (C : LCtx) : s.finishL (.done s C) = s.lDone C := rfl

/-- What the results of lanes come to when no lane faults and PRC takes only well-formed values. -/
theorem LCtx.finishLanes_good (C : LCtx) (s : State) (d : Dst) (cnt : Nat) (sh : Shape) (outs : List (Nat × LOut))
    (h : ∀ o ∈ outs, o.2.bad = none) (hp : dstReg d = some .prc → ∀ o ∈ outs, prcOk ((o.2.xs[0]?).getD 0) = true) :
    ∃ D, C.finishLanes s d cnt sh outs = .done s D ∧ D.who = C.who ∧
      D.flags = outs.foldl (fun fl o => fl ||| o.2.fl) (C.writeDst d cnt C.full sh outs).flags := by
  have hmap : (outs.map (fun o => if dstReg d == some .prc && o.2.bad.isNone && !prcOk ((o.2.xs[0]?).getD 0) then
      (o.1, { o.2 with bad := some (Cause.reservedField, s.lAddr C) }) else o)) = outs := by
    conv => rhs; rw [← List.map_id outs]
    apply List.map_congr_left
    intro o ho
    by_cases hd : dstReg d = some .prc
    · rw [if_neg]
      · rfl
      · rw [hp hd o ho]; simp
    · rw [if_neg (by simp [hd])]; rfl
  have hgood : outs.filter (fun o => o.2.bad.isNone) = outs :=
    List.filter_eq_self.mpr (fun o ho => by simp [h o ho])
  have hbad : outs.filterMap (fun o => o.2.bad.map (fun b => (o.1, b.1, b.2))) = [] := by
    apply List.filterMap_eq_nil_iff.mpr
    intro o ho; simp [h o ho]
  unfold LCtx.finishLanes
  simp only [hmap, hgood, hbad]
  refine ⟨_, rfl, ?_, ?_⟩
  · simp only []
    unfold LCtx.writeDst
    repeat' split
    all_goals rfl
  · simp

/-! ### Moves -/

/-- A step is a move of the schedule; loads performed ahead at the lines it enters are given up, and time passes. -/
theorem step_eq (s : State) :
    step s = andThen (move s.mover.1 s.mover.2) (fun s' => (s'.dropEarly s.mover.2.nextId).tick) := rfl

/-- An issued instruction is executed on the state that its fetch left. -/
theorem issue_instr (i : Instr) (s : State) (f : Option Instr → State → State) :
    issue (.instr i s) f = andThen (exec i s) (f (some i)) := rfl

end Sys2Proof.Machine
end

