-- ==== Sys2Proof/Tests/Slice0.lean ====
section
/-!
SUPPORT. The tests of the model: ill-formed terms that WellFormed refuses, instruction words written out from the
spec's encodings, single steps on small states, and for every statement with hypotheses states and operands that meet
them. Expected values are the spec's worked examples or hand calculation from its rules.
-/

namespace Sys2Proof.Tests

open Sys2Proof Sys2Proof.Machine Sys2Proof.Claims

-- One theorem at a time: many kernel evaluations at once need more threads than the compile has memory for.
set_option Elab.async false


/-! ## Small states -/

/-- A team at its start, 32 lanes wide with 128 registers, whose handler is at 0x1000. -/
def T0 : Team := { probeTeam 0 0 false with handler := 0x1000 }

theorem T0_handler : T0.handler ≠ 0 := by decide +kernel

/-- A machine that runs the S-stream of one supervisor team. -/
def st (T : Team) : State := { State.reset.placeCode false [] with teams := T :: [], cur := .s 0 }

/-- The same with a user team. -/
def user (s : State) : State := s.modLaunch 0 (fun L => { L with desc := { L.desc with sup := false } })

/-- The team after an instruction. -/
def after (o : Host.Outcome State Fault Refusal) : Team :=
  match o with
  | .next s => s.team 0
  | _ => .blank

/-- The state after an instruction. -/
def nextOf (o : Host.Outcome State Fault Refusal) : State :=
  match o with
  | .next s => s
  | _ => .reset

/-- A register after an S instruction of a team. -/
def sReg (i : Instr) (T : Team) (r : BitVec 6) : Word := (after (exec i (st T))).rd r

/-! ## WellFormed -/

def lf : LF := ⟨.i32, 0, 0, .r (.v 1), .reg (.v 2), .reg (.v 3), .reg (.v 0), 0, 0⟩

theorem test_wellformed : WellFormed (.add 1 2 3) ∧ WellFormed (.vadd lf) := by decide +kernel

/-- Odd registers for pairs, specials that are not listed or take no write, an unassigned atomic, a scope under relaxed
order or in the scratchpad (05/R115, R118, R122). -/
theorem test_illformed_scalar_illegal : ∀ i ∈ ([.dadd 1 2 4, .dshl 2 3 4, .daddi 2 5 0, .rdx 1 0x06, .rdx 2 0x15, .wrx 2 0x00,
    .wrx 3 0x11, .ld 1 0 3 0, .sts 1 0 3 0, .atom 2 4 6 0 0 15, .atom 2 4 6 0 1 0, .atom 2 5 6 0 0 0, .atom 3 4 6 0 0 12,
    .atoms 2 4 6 2 1 0, .jr 5, .lget 1 0, .cinfo 1 1 0, .pour 1, .kpour 1 0 0, .mma 2 3 4 0 0 0 0, .sysr 1 0x020] : List Instr),
    checkInstr i = some .illegal := by decide +kernel

/-- Reserved orders, scopes, conditions, counts and gang-circle numbers (05/R121). -/
theorem test_illformed_scalar_reserved : ∀ i ∈ ([.fence 0 0, .fence 1 5, .bCond 1 6 0, .grow 0, .shrink 0, .cjoin 0 16,
    .csync 0 63] : List Instr), checkInstr i = some .reservedField := by decide +kernel

/-- A type or sub-operation that the opcode does not accept (05/R127, R128), and a pair of types that does not convert. -/
theorem test_illformed_type : ∀ i ∈ ([.vand { lf with ty := .f32 }, .vcmp { lf with sub := 6, d := .r (.m 1) },
    .vred { lf with ty := .f32, sub := 3, b := .reg (.v 0) }, .vrng { lf with a := .reg (.v 2), b := .reg (.v 0) },
    .vcvt { lf with ty := .i8, b := .reg (.v 0) }] : List Instr), checkInstr i = some .illegal := by decide +kernel

/-- Registers of classes that the slots do not accept, latches as pairs, and latch writes without a 32-bit result (05/R124
to R126). -/
theorem test_illformed_operand : ∀ i ∈ ([.vadd { lf with d := .r (.m 1) }, .vadd { lf with d := .r (.p 1) },
    .vadd { lf with a := .reg (.m 1) }, .vadd { lf with a := .reg (.e 1) }, .vadd { lf with ty := .i64, a := .reg (.v 3) },
    .vadd { lf with ty := .i64, d := .r (.v 2), b := .lat 1 }, .vadd { lf with ty := .i64, d := .rl (.v 2) 0, b := .reg (.v 4) },
    .vst { lf with d := .l 0 }, .mmov { lf with b := .reg (.v 0) }] : List Instr),
    checkInstr i = some .illegal := by decide +kernel

/-- A field that is not used and not zero, a reserved modifier or immediate, and a mask select where there is none (05/R124,
R125, R129, R130). -/
theorem test_illformed_lane_reserved : ∀ i ∈ ([.vadd { lf with c := .reg (.v 1) }, .vadd { lf with md := 2 }, .vadd { lf with imm := 1 },
    .vst { lf with d := .r (.v 1) }, .vld { lf with b := .reg (.v 0), md := 1 }, .vld { lf with b := .reg (.v 0), md := 8 },
    .vfence { lf with d := .r (.v 0), a := .reg (.v 0), b := .reg (.v 0) },
    .vbcast { lf with b := .reg (.v 0), imm := 1024 },
    .lif { lf with ms := 2, d := .r (.v 0), a := .reg (.m 1), b := .reg (.v 0), imm := 4 },
    .vmovImm .i32 0 (.r (.v 1)) 0x100000000] : List Instr), checkInstr i = some .reservedField := by decide +kernel

/-! ## Decoding: words written out from the encodings of the spec -/

/-- Scalar words from the encodings of 05/R117 to R122. -/
theorem test_decode_alu : ∀ p ∈ (([
  (0x04A52600, .add 10 20 38),
  (0x04A52601, .sub 10 20 38),
  (0x04A52602, .mul 10 20 38),
  (0x04A52603, .mulh 10 20 38),
  (0x04A52604, .mulhu 10 20 38),
  (0x04A52605, .div 10 20 38),
  (0x04A52606, .divu 10 20 38),
  (0x04A52607, .rem 10 20 38),
  (0x04A52608, .remu 10 20 38),
  (0x04A52610, .and 10 20 38),
  (0x04A52611, .or 10 20 38),
  (0x04A52612, .xor 10 20 38),
  (0x04A52613, .andn 10 20 38),
  (0x04A52614, .shl 10 20 38),
  (0x04A52615, .shr 10 20 38),
  (0x04A52616, .sra 10 20 38),
  (0x04A52617, .rot 10 20 38),
  (0x04A52620, .min 10 20 38),
  (0x04A52621, .minu 10 20 38),
  (0x04A52622, .max 10 20 38),
  (0x04A52623, .maxu 10 20 38),
  (0x04A50024, .clz 10 20),
  (0x04A50025, .popc 10 20),
  (0x04A52630, .seq 10 20 38),
  (0x04A52631, .sne 10 20 38),
  (0x04A52632, .slt 10 20 38),
  (0x04A52633, .sltu 10 20 38),
  (0x04A52634, .sle 10 20 38),
  (0x04A52635, .sleu 10 20 38)] : List (Nat × Instr))), decodeTableWord 32 p.1 = some p.2 := by decide +kernel

/-- Scalar words from the encodings of 05/R117 to R122. -/
theorem test_decode_immediates : ∀ p ∈ (([
  (0x08A52ABC, .addi 10 20 0x2abc),
  (0x0CA52ABC, .andi 10 20 0x2abc),
  (0x10A52ABC, .ori 10 20 0x2abc),
  (0x14A52ABC, .xori 10 20 0x2abc),
  (0x18A50015, .shli 10 20 21),
  (0x18A51015, .shri 10 20 21),
  (0x18A52015, .srai 10 20 21),
  (0x18A53015, .roti 10 20 21),
  (0x1CA52ABC, .slti 10 20 0x2abc),
  (0x20AABCDE, .lui 10 0xabcde)] : List (Nat × Instr))), decodeTableWord 32 p.1 = some p.2 := by decide +kernel

/-- Scalar words from the encodings of 05/R117 to R122. -/
theorem test_decode_pairs : ∀ p ∈ (([
  (0x24A52600, .dadd 10 20 38),
  (0x24A52601, .dsub 10 20 38),
  (0x24A52602, .dshl 10 20 38),
  (0x24A52603, .dshr 10 20 38),
  (0x24A52604, .dsra 10 20 38),
  (0x28A52ABC, .daddi 10 20 0x2abc),
  (0x2CA0000E, .rdx 10 14),
  (0x30050011, .wrx 20 17)] : List (Nat × Instr))), decodeTableWord 32 p.1 = some p.2 := by decide +kernel

/-- Scalar words from the encodings of 05/R117 to R122. -/
theorem test_decode_memory : ∀ p ∈ (([
  (0x40A9DABC, .ld 10 19 2 0x1abc),
  (0x44A9FABC, .st 10 19 3 0x1abc),
  (0x48A52699, .atom 10 20 38 2 1 9),
  (0x50A99ABC, .lds 10 19 0 0x1abc),
  (0x54A9BABC, .sts 10 19 1 0x1abc),
  (0x58A526CE, .atoms 10 20 38 3 0 14),
  (0x5C000E00, .fence 3 4),
  (0x5C001000, .rfence)] : List (Nat × Instr))), decodeTableWord 32 p.1 = some p.2 := by decide +kernel

/-- Scalar words from the encodings of 05/R117 to R122. -/
theorem test_decode_transfers : ∀ p ∈ (([
  (0x61458001, .bCond 20 5 0x8001),
  (0x66000001, .jmp 0x2000001),
  (0x6BFFFFFF, .call 0x3ffffff),
  (0x6C050000, .jr 20),
  (0x6C050001, .ret 20)] : List (Nat × Instr))), decodeTableWord 32 p.1 = some p.2 := by decide +kernel

/-- Scalar words from the encodings of 05/R117 to R122. -/
theorem test_decode_lane_work : ∀ p ∈ (([
  (0x82ABCDEF, .lrun 0x2abcdef),
  (0x84000000, .lwait),
  (0x88A00002, .lget 10 2),
  (0x8C000009, .grow 9),
  (0x8C002009, .shrink 9),
  (0x9000083F, .cjoin 1 63),
  (0x9000100F, .cleave 0 15),
  (0x90002828, .csync 1 40),
  (0x90A03828, .cinfo 10 1 40)] : List (Nat × Instr))), decodeTableWord 32 p.1 = some p.2 := by decide +kernel

/-- Scalar words from the encodings of 05/R117 to R122. -/
theorem test_decode_launches : ∀ p ∈ (([
  (0x94050000, .pour 20),
  (0x98050000, .withdraw 20),
  (0x9C000000, .endTeam),
  (0x9C000001, .yield),
  (0x9C000002, .tresume),
  (0x9C050003, .tresumeAt 20)] : List (Nat × Instr))), decodeTableWord 32 p.1 = some p.2 := by decide +kernel

/-- Scalar words from the encodings of 05/R117 to R122. -/
theorem test_decode_tokens_and_barriers : ∀ p ∈ (([
  (0xA14000A6, .kpour 20 5 6),
  (0xA40000A5, .twait 0xa5),
  (0xA4A001A5, .tprobe 10 0xa5),
  (0xA949AC00, .binit 20 38 44),
  (0xAD498000, .barrive 20 38),
  (0xAD498001, .bexpect 20 38),
  (0xB149AC00, .bwait 20 38 44),
  (0xB5400000, .binval 20)] : List (Nat × Instr))), decodeTableWord 32 p.1 = some p.2 := by decide +kernel

/-- Scalar words from the encodings of 05/R117 to R122. -/
theorem test_decode_engine : ∀ p ∈ (([
  (0xC0050000, .mcrew 20),
  (0xC54980A0, .bput 20 38 5),
  (0xC949ACB4, .mma 20 38 44 5 1 0 1),
  (0xCD402CA0, .accld 20 44 5),
  (0xCD402CA1, .accst 20 44 5),
  (0xD14980A0, .mxreq 20 38 5),
  (0xD4A00000, .mstat 10)] : List (Nat × Instr))), decodeTableWord 32 p.1 = some p.2 := by decide +kernel

/-- Scalar words from the encodings of 05/R117 to R122. -/
theorem test_decode_steeps : ∀ p ∈ (([
  (0xE000002A, .steepClose 42),
  (0xE405002A, .steepWait 20 42),
  (0xE8A5002A, .steepGrad 10 20 42)] : List (Nat × Instr))), decodeTableWord 32 p.1 = some p.2 := by decide +kernel

/-- Scalar words from the encodings of 05/R117 to R122. -/
theorem test_decode_privileged : ∀ p ∈ (([
  (0xF0A00041, .sysr 10 0x41),
  (0xF0052041, .sysw 20 0x41),
  (0xF4000000, .eret),
  (0xF4050001, .tinval 20),
  (0xF4000002, .tsync),
  (0xF4050003, .ctxsave 20),
  (0xF4050004, .ctxload 20),
  (0xF4A00005, .fqpop 10),
  (0xF80ABCDE, .svc 0xabcde)] : List (Nat × Instr))), decodeTableWord 32 p.1 = some p.2 := by decide +kernel

/-- Lane words from the encodings of 05/R123 to R129, word 0 lowest. -/
theorem test_decode_lane_arithmetic : ∀ p ∈ (([
  (0x000000000070A80000006004, .vadd { ms := 3, d := .r (.v 4), a := .reg (.v 7), b := .reg (.p 8) }),
  (0x000000000070A80001086004, .vsub { ty := .f32, ms := 3, d := .r (.v 4), a := .reg (.v 7), b := .reg (.p 8) }),
  (0x000000000070A800020A6004, .vmul { ty := .bf16, ms := 3, d := .r (.v 4), a := .reg (.v 7), b := .reg (.p 8) }),
  (0x000000000070A80003036004, .vmulh { ty := .n16, ms := 3, d := .r (.v 4), a := .reg (.v 7), b := .reg (.p 8) }),
  (0x000000000070A80005016004, .vdiv { ty := .n32, ms := 3, d := .r (.v 4), a := .reg (.v 7), b := .reg (.p 8) }),
  (0x000000000070A80006006004, .vrem { ms := 3, d := .r (.v 4), a := .reg (.v 7), b := .reg (.p 8) }),
  (0x000000000070A80008046004, .vand { ty := .i8, ms := 3, d := .r (.v 4), a := .reg (.v 7), b := .reg (.p 8) }),
  (0x000000000070A80009056004, .vor { ty := .n8, ms := 3, d := .r (.v 4), a := .reg (.v 7), b := .reg (.p 8) }),
  (0x000000000070A8000A026004, .vxor { ty := .i16, ms := 3, d := .r (.v 4), a := .reg (.v 7), b := .reg (.p 8) }),
  (0x000000000070A8000B016004, .vandn { ty := .n32, ms := 3, d := .r (.v 4), a := .reg (.v 7), b := .reg (.p 8) }),
  (0x000000000070A8000C006004, .vshl { ms := 3, d := .r (.v 4), a := .reg (.v 7), b := .reg (.p 8) }),
  (0x000000000070A8000D016004, .vshr { ty := .n32, ms := 3, d := .r (.v 4), a := .reg (.v 7), b := .reg (.p 8) }),
  (0x000000000060A8000E066004, .vsra { ty := .i64, ms := 3, d := .r (.v 4), a := .reg (.v 6), b := .reg (.p 8) }),
  (0x000000000060A8000F076004, .vrot { ty := .n64, ms := 3, d := .r (.v 4), a := .reg (.v 6), b := .reg (.p 8) }),
  (0x000000000070A80010096004, .vmin { ty := .f16, ms := 3, d := .r (.v 4), a := .reg (.v 7), b := .reg (.p 8) }),
  (0x000000000070A80011006004, .vmax { ms := 3, d := .r (.v 4), a := .reg (.v 7), b := .reg (.p 8) })] : List (Nat × Instr))), decodeTableWord 96 p.1 = some p.2 := by decide +kernel

/-- Lane words from the encodings of 05/R123 to R129, word 0 lowest. -/
theorem test_decode_lane_arithmetic_more : ∀ p ∈ (([
  (0x900000000060070004080005, .vmad { ty := .f32, d := .r (.v 5), a := .reg (.v 6), b := .reg (.v 7), c := .reg (.v 9) }),
  (0x00000000A000000007000A05, .vneg { d := .rl (.v 5) 2, a := .lat 1 }),
  (0x0000000008F00000071E0083, .vabs { ty := .ef, d := .r (.e 3), a := .reg (.e 15) }),
  (0x000000000B2000001202007F, .vclz { ty := .i16, d := .r (.v 127), a := .reg .lid }),
  (0x000000000B300000130121FF, .vpopc { ty := .n32, ms := 1, d := .r .zero, a := .reg .tid }),
  (0x000000000040040014680092, .vcmp { ty := .f32, sub := 6, d := .r (.m 2), a := .reg (.v 4), b := .reg (.v 4) }),
  (0x60000000002003091500E001, .vsel { ms := 7, d := .r (.v 1), a := .reg (.v 2), b := .reg (.v 3), c := .reg (.m 6) }),
  (0x0000000008200000160E0081, .vmov { ty := .ef, d := .r (.e 1), a := .reg (.e 2) }),
  (0x0212345600A00D0017010008, .vlea { ty := .n32, d := .r (.v 8), a := .reg (.v 10), b := .reg (.v 13), md := 2, imm := 0x123456 }),
  (0x000000E30020000018000001, .vbfx { d := .r (.v 1), a := .reg (.v 2), imm := 0xE3 }),
  (0x000000E30020030019010001, .vbfi { ty := .n32, d := .r (.v 1), a := .reg (.v 2), b := .reg (.v 3), imm := 0xE3 })] : List (Nat × Instr))), decodeTableWord 96 p.1 = some p.2 := by decide +kernel

/-- Lane words from the encodings of 05/R123 to R129, word 0 lowest. -/
theorem test_decode_lane_float : ∀ p ∈ (([
  (0x000000000060000020084005, .vsqrt { ty := .f32, ms := 2, d := .r (.v 5), a := .reg (.v 6) }),
  (0x000000000060000021094005, .vrcp { ty := .f16, ms := 2, d := .r (.v 5), a := .reg (.v 6) }),
  (0x0000000000600000220A4005, .vrsq { ty := .bf16, ms := 2, d := .r (.v 5), a := .reg (.v 6) }),
  (0x000000000060000023084005, .vexp2 { ty := .f32, ms := 2, d := .r (.v 5), a := .reg (.v 6) }),
  (0x000000000060000024094005, .vlog2 { ty := .f16, ms := 2, d := .r (.v 5), a := .reg (.v 6) }),
  (0x0000000000600000250A4005, .vcls { ty := .bf16, ms := 2, d := .r (.v 5), a := .reg (.v 6) }),
  (0x0000000008508600260E0084, .vfinq { ty := .ef, d := .r (.e 4), a := .reg (.e 5), b := .reg (.e 6) }),
  (0x000000000070000027080004, .vcvt { ty := .f32, d := .r (.v 4), a := .reg (.v 7) }),
  (0x0800000000800A00280A0005, .vcvtSr { ty := .bf16, d := .r (.v 5), a := .reg (.v 8), b := .reg (.v 10), md := 8 }),
  (0x0000000000600000290F0005, .vmxq { ty := .blk, d := .r (.v 5), a := .reg (.v 6) }),
  (0x00000000006000002A0F0005, .vmxd { ty := .blk, d := .r (.v 5), a := .reg (.v 6) }),
  (0x90001234007008002B080005, .vprune { ty := .f32, d := .r (.v 5), a := .reg (.v 7), b := .reg (.v 8), c := .reg (.v 9), imm := 0x1234 }),
  (0x0005004D008000002C010005, .vrng { ty := .n32, d := .r (.v 5), a := .reg (.v 8), imm := 0x5004D }),
  (0x0000000000800000300E0000, .ewin { ty := .ef, a := .reg (.v 8) }),
  (0x0010000700000000310E00B0, .eprec { ty := .ef, d := .r .prc, imm := 0x100007 }),
  (0x0000001008200000320E0081, .eround { ty := .ef, d := .r (.e 1), a := .reg (.e 2), imm := 0x10 }),
  (0x0000000008200000330E0001, .esig { ty := .ef, d := .r (.v 1), a := .reg (.e 2) }),
  (0x00FFFFF800400000340E0081, .eld { ty := .ef, d := .r (.e 1), a := .reg (.v 4), imm := 0xFFFFF8 }),
  (0x0000000800400000350E0081, .eldn { ty := .ef, d := .r (.e 1), a := .reg (.v 4), imm := 0x8 }),
  (0x0000000800408200360E0000, .est { ty := .ef, a := .reg (.v 4), b := .reg (.e 2), imm := 0x8 })] : List (Nat × Instr))), decodeTableWord 96 p.1 = some p.2 := by decide +kernel

/-- Lane words from the encodings of 05/R123 to R129, word 0 lowest. -/
theorem test_decode_lane_memory : ∀ p ∈ (([
  (0x06FFFFFC0060000040002005, .vld { ms := 1, d := .r (.v 5), a := .reg (.v 6), md := 6, imm := 0xFFFFFC }),
  (0x0B0000040A60050041020000, .vst { ty := .i16, a := .reg (.p 6), b := .reg (.v 5), md := 11, imm := 0x4 }),
  (0xAF0000040060090042700005, .vatom { sub := 7, d := .r (.v 5), a := .reg (.v 6), b := .reg (.v 9), c := .reg (.v 10), md := 15, imm := 0x4 }),
  (0x040000100080000044060006, .vlds { ty := .i64, d := .r (.v 6), a := .reg (.v 8), md := 4, imm := 0x10 }),
  (0x080000100080050045080000, .vsts { ty := .f32, a := .reg (.v 8), b := .reg (.v 5), md := 8, imm := 0x10 }),
  (0x0C00001000800500460A0007, .vatoms { ty := .bf16, d := .r (.v 7), a := .reg (.v 8), b := .reg (.v 5), md := 12, imm := 0x10 }),
  (0x700000100080050047000000, .vmcast { a := .reg (.v 8), b := .reg (.v 5), c := .reg (.v 7), imm := 0x10 }),
  (0x000000400080000048004000, .vprf { ms := 2, a := .reg (.v 8), imm := 0x40 }),
  (0x0C0000000000000049400000, .vfence { sub := 4, md := 12 }),
  (0x0000003F0080000050780028, .softLd { ty := .f32, sub := 7, d := .r (.v 40), a := .reg (.v 8), imm := 0x3F }),
  (0x0000000500800C0051180000, .softSt { ty := .f32, sub := 1, a := .reg (.v 8), b := .reg (.v 12), imm := 0x5 }),
  (0x0000000500801000523801FF, .softHarden { ty := .f32, sub := 3, d := .r .zero, a := .reg (.v 8), b := .reg (.v 16), imm := 0x5 }),
  (0x0000000500800C0053080028, .softLdg { ty := .f32, d := .r (.v 40), a := .reg (.v 8), b := .reg (.v 12), imm := 0x5 })] : List (Nat × Instr))), decodeTableWord 96 p.1 = some p.2 := by decide +kernel

/-- Lane words from the encodings of 05/R123 to R129, word 0 lowest. -/
theorem test_decode_cross_lane : ∀ p ∈ (([
  (0x0000000F0050000060000093, .vballot { d := .r (.m 3), a := .reg (.v 5), imm := 0xF }),
  (0x000000000060070061002005, .vrank { ms := 1, d := .r (.v 5), a := .reg (.v 6), b := .reg (.v 7) }),
  (0x000000000060090062060004, .vswz { ty := .i64, d := .r (.v 4), a := .reg (.v 6), b := .reg (.v 9) }),
  (0x000003FF0060000063000005, .vbcast { d := .r (.v 5), a := .reg (.v 6), imm := 0x3FF }),
  (0x0000000F0060000064180005, .vred { ty := .f32, sub := 1, d := .r (.v 5), a := .reg (.v 6), imm := 0xF }),
  (0x000000000060000065900005, .vscan { sub := 9, d := .r (.v 5), a := .reg (.v 6) }),
  (0x000000000920930066000091, .mand { d := .r (.m 1), a := .reg (.m 2), b := .reg (.m 3) }),
  (0x000000000920930066100091, .mor { d := .r (.m 1), a := .reg (.m 2), b := .reg (.m 3) }),
  (0x000000000920930066200091, .mxor { d := .r (.m 1), a := .reg (.m 2), b := .reg (.m 3) }),
  (0x000000000920000066300091, .mnot { d := .r (.m 1), a := .reg (.m 2) }),
  (0x000000000020000067000091, .mmov { d := .r (.m 1), a := .reg (.v 2) }),
  (0x000000000940000068000000, .vsync { a := .reg (.m 4) }),
  (0x000000070060000069060000, .vput { ty := .i64, a := .reg (.v 6), imm := 0x7 })] : List (Nat × Instr))), decodeTableWord 96 p.1 = some p.2 := by decide +kernel

/-- Lane words from the encodings of 05/R123 to R129, word 0 lowest. -/
theorem test_decode_lane_control : ∀ p ∈ (([
  (0x000000040910000070000000, .lif { a := .reg (.m 1), imm := 0x4 }),
  (0x000000040000000071000000, .lelse { imm := 0x4 }),
  (0x000000000000000072000000, .lfi {  }),
  (0x000000090000000073000000, .ldo { imm := 0x9 }),
  (0x000000000950000074000000, .lwhile { a := .reg (.m 5) }),
  (0x00FFFFF70000000075000000, .lod { imm := 0xFFFFF7 }),
  (0x000000000000000076000000, .lret {  }),
  (0x000000000000000077000000, .lhome {  }),
  (0x000000210000000078000000, .lfmt { imm := 0x21 }),
  (0x000ABCDE0000000079000000, .ltrap { imm := 0xABCDE }),
  (0x00000000000000007A000000, .lnop {  }),
  (0x000000000000000080000093, .vaway { d := .r (.m 3) }),
  (0x000000060000000081000006, .vrdx { d := .r (.v 6), imm := 0x6 })] : List (Nat × Instr))), decodeTableWord 96 p.1 = some p.2 := by decide +kernel

/-- The LX form (05/R123): a 64-bit immediate in words 1 and 2. -/
theorem test_decode_lx : decodeTableWord 96 0x123456789ABCDEF016160004 = some (.vmovImm .i64 0 (.r (.v 4)) 0x123456789ABCDEF0) ∧
    decodeTableWord 96 0x12345678FFFFFFFF4A100000 = some (.vstage true 0x12345678FFFFFFFF) := by decide +kernel

/-- The worked words of 05/R122 and R130, and the words that R122 says fault. -/
theorem test_decode_faults : decodeS 0x045187FF = .error .illegal ∧ decodeS 0x5C000000 = .error .reservedField ∧
    decodeS 0x84518700 = .error .reservedField := ⟨rfl, rfl, rfl⟩

/-! ## States that meet the hypotheses of the statements: scalar instructions -/

def isNext (o : Host.Outcome State Fault Refusal) : Bool := match o with | .next _ => true | _ => false

theorem next_of {o : Host.Outcome State Fault Refusal} (h : isNext o = true) : o = .next (nextOf o) := by
  cases o with
  | next s => rfl
  | fault r => exact (Bool.false_ne_true h).elim
  | refused r => exact (Bool.false_ne_true h).elim

def tl0 : Tlb := ⟨0, 0, 0, 0, true, true, true, true, 0, [], false⟩
def chkOk (r : SChk Tlb) : Bool := match r with | .ok _ _ => true | .no _ => false
def chkTl (r : SChk Tlb) : Tlb := match r with | .ok x _ => x | .no _ => tl0
def chkSt (r : SChk Tlb) : State := match r with | .ok _ s => s | .no _ => .reset

theorem ok_of {r : SChk Tlb} (h : chkOk r = true) : r = .ok (chkTl r) (chkSt r) := by
  cases r with
  | ok x s => rfl
  | no e => exact (Bool.false_ne_true h).elim

/-- A team with a value in a register. -/
def with1 (r : BitVec 6) (x : Word) : Team := T0.wr r x

theorem test_wit_ScalarArithmetic : scalarOut (.mulh 1 2 3) (with1 2 0x80000000).rd = some (1, [1, 2, 3], 0) ∧
    scalarOut (.lui 63 0xFFFFF) T0.rd = some (63, [63], 0xFFFFF000) ∧ scalarOut (.div 0 2 2) (with1 2 7).rd = some (0, [0, 2, 2], 1) ∧
    (st (with1 2 0x80000000)).runsS 0 (with1 2 0x80000000) [1, 2, 3] :=
  ⟨by decide +kernel, by decide +kernel, by decide +kernel, rfl, rfl, rfl⟩

theorem test_wit_PairArithmetic : pairOut (.dadd 2 4 62) (with1 5 0x80000000).rd = some (2, [2, 3, 4, 5, 62, 63], 2 ^ 63) ∧
    (st (with1 5 0x80000000)).runsS 0 (with1 5 0x80000000) [2, 3, 4, 5, 62, 63] := ⟨by decide +kernel, rfl, rfl, rfl⟩

theorem test_wit_ScalarDivision : ((st T0).runsS 0 T0 [1, 2, 3] ∧ T0.rd 3 = 0 ∧ T0.hasHandler) ∧
    (let T := (T0.wr 2 0x80000000).wr 3 0xFFFFFFFF
     (st T).runsS 0 T [1, 2, 3] ∧ T.rd 2 = 0x80000000 ∧ T.rd 3 = 0xFFFFFFFF) :=
  ⟨⟨⟨rfl, rfl, rfl⟩, rfl, ⟨by decide +kernel, rfl⟩⟩, ⟨rfl, rfl, rfl⟩, by decide +kernel, by decide +kernel⟩

theorem test_wit_ScalarFrame : (st T0).cur = .s 0 ∧ (st T0).teams[0]? = some T0 ∧
    (∃ s', exec (.add 1 2 3) (st T0) = .next s') ∧ (∃ s', exec (.dadd 2 4 6) (st T0) = .next s') ∧
    scalarOut (.add 1 2 3) T0.rd = some (1, [1, 2, 3], 0) ∧
    pairOut (.dadd 2 4 6) T0.rd = some (2, [2, 3, 4, 5, 6, 7], 0) :=
  ⟨rfl, rfl, ⟨_, rfl⟩, ⟨_, rfl⟩, by decide +kernel, by decide +kernel⟩

/-- Every special is read, and every one that takes a write is written (03/R59). -/
theorem test_wit_SpecialReads_SpecialWrites : (∀ n : Fin 21, (specialRead (st T0) 0 T0 n).isSome = true) ∧
    (∀ n ∈ [0x07, 0x08, 0x09, 0x10, 0x11, 0x12, 0x13, 0x14], (specialWrite (st T0) T0 n 0 0).isSome = true) ∧
    (st T0).runsS 0 T0 [2] ∧ (st T0).runsS 0 T0 [2, 3] :=
  ⟨by decide +kernel, by decide +kernel, ⟨rfl, rfl, rfl⟩, ⟨rfl, rfl, rfl⟩⟩

/-- The clauses at their boundary values: number 0x15, an odd register, reserved bits, a misaligned handler. -/
theorem test_wit_SpecialFaults : T0.hasHandler ∧ (st T0).runsS 0 T0 [2, 3] ∧ 0x14 < (0x15 : BitVec 8).toNat ∧
    (5 : BitVec 6).toNat % 2 = 1 ∧ fmtOk ((with1 2 5).rd 2) = false ∧ mcrOk ((with1 2 0x01000000).rd 2) = false ∧
    migctlOk ((with1 2 8).rd 2) = false ∧ ((with1 2 2).rdp 2).toNat % 4 ≠ 0 :=
  ⟨⟨by decide +kernel, rfl⟩, ⟨rfl, rfl, rfl⟩, by decide +kernel, by decide +kernel, by decide +kernel, by decide +kernel,
    by decide +kernel, by decide +kernel⟩

/-- A machine whose gang has 4 KiB of scratchpad. -/
def stPad (T : Team) : State := (st T).modLaunch 0 (fun L => { L with desc := { L.desc with spad := 1 } })

/-- A team whose pair 4 holds an address. -/
def atAddr (a : Word) : Team := T0.wr 4 a

theorem test_wit_GlobalAccessEntered :
    let T := atAddr 0x50000
    let s := st T
    let va := smTarget T 2 0
    (chkTl (s.sGlobal 0 va 4 { r := true })).replica = false ∧ s.runsS 0 T (smNames 6 2 2) ∧
    (mayEnterS s 0 true false ∧ s.sGlobal 0 va 4 { r := true } =
      .ok (chkTl (s.sGlobal 0 va 4 { r := true })) (chkSt (s.sGlobal 0 va 4 { r := true }))) ∧
    (mayEnterS s 0 false true ∧ s.sGlobal 0 va 4 { w := true } =
      .ok (chkTl (s.sGlobal 0 va 4 { w := true })) (chkSt (s.sGlobal 0 va 4 { w := true }))) ∧
    (s.runsS 0 T (atomNames 6 4 8 0) ∧ releasedS s 0 4 ∧ s.sGlobal 0 (T.rdp 4) 4 { r := true, w := true, atom := true } =
      .ok (chkTl (s.sGlobal 0 (T.rdp 4) 4 { r := true, w := true, atom := true }))
        (chkSt (s.sGlobal 0 (T.rdp 4) 4 { r := true, w := true, atom := true }))) := by
  refine ⟨by decide +kernel, ⟨rfl, rfl, by decide +kernel⟩, ⟨?_, ok_of (by decide +kernel)⟩, ⟨?_, ok_of (by decide +kernel)⟩,
    ⟨rfl, rfl, by decide +kernel⟩, ?_, ok_of (by decide +kernel)⟩
  all_goals first | (unfold mayEnterS; decide +kernel) | (unfold releasedS; decide +kernel)

/-- A word read ahead is there for a global and for a scratchpad load, also when the S-stream takes it. -/
theorem test_wit_LoadsAhead :
    let T := { atAddr 0x50000 with early := ⟨((st T0).part 0).at (chkTl ((st (atAddr 0x50000)).sGlobal 0 0x50000 4 { r := true })) 0x50000 4 |>.1,
        ((st T0).part 0).at (chkTl ((st (atAddr 0x50000)).sGlobal 0 0x50000 4 { r := true })) 0x50000 4 |>.2, [1, 2, 3, 4]⟩ :: [] }
    let U := { atAddr 0xFFC with early := ⟨.bank 0, 0xFFC, [1, 2, 3, 4]⟩ :: [] }
    let s := { st T with choice := 2 }
    let r := { stPad U with choice := 2 }
    let p := ((chkSt (s.sGlobal 0 0x50000 4 { r := true })).part 0).at (chkTl (s.sGlobal 0 0x50000 4 { r := true })) 0x50000 4
    atIssue (st T) T p 4 ∧ s.runsS 0 T (smNames 6 2 2) ∧ smTarget T 2 0 = 0x50000 ∧ mayEnterS s 0 true false ∧
      s.sGlobal 0 0x50000 4 { r := true } =
        .ok (chkTl (s.sGlobal 0 0x50000 4 { r := true })) (chkSt (s.sGlobal 0 0x50000 4 { r := true })) ∧
      2 ≤ s.choice ∧ (T.earlyAt p.1 p.2 4).isSome = true ∧
      r.runsS 0 U (smNames 6 2 2) ∧ mayEnterS r 0 true false ∧ spadOk r U (smTarget U 2 0) 4 true false ∧ 2 ≤ r.choice ∧
      (U.earlyAt (.bank U.gang) (smTarget U 2 0).toNat 4).isSome = true := by
  refine ⟨.inl (by decide +kernel), ⟨rfl, rfl, by decide +kernel⟩, by decide +kernel, ?_, ok_of (by decide +kernel),
    by decide +kernel, by decide +kernel, ⟨rfl, rfl, by decide +kernel⟩, ?_, ?_, by decide +kernel, by decide +kernel⟩
  all_goals first | (unfold mayEnterS; decide +kernel) | (unfold spadOk; decide +kernel)

/-- The last word of the scratchpad is in range. -/
theorem test_wit_ScratchAccessEntered :
    let T := atAddr 0xFFC
    let s := stPad T
    s.runsS 0 T (smNames 6 2 2) ∧ mayEnterS s 0 true false ∧ mayEnterS s 0 false true ∧ spadOk s T (smTarget T 2 0) 4 true false ∧
      spadOk s T (smTarget T 2 0) 4 false true ∧ s.runsS 0 T (atomNames 6 4 8 0) ∧ releasedS s 0 1 ∧
      spadOk s T (T.rdp 4) 4 true true := by
  refine ⟨⟨rfl, rfl, by decide +kernel⟩, ?_, ?_, ?_, ?_, ⟨rfl, rfl, by decide +kernel⟩, ?_, ?_⟩
  all_goals first | (unfold mayEnterS; decide +kernel) | (unfold releasedS; decide +kernel) | (unfold spadOk; decide +kernel)

theorem test_wit_MisalignedAccessTraps :
    let T := atAddr 1
    let s := st T
    T.hasHandler ∧ s.runsS 0 T (smNames 6 2 1) ∧ (smTarget T 2 0).toNat % 2 ^ (1 : BitVec 2).toNat ≠ 0 ∧ mayEnterS s 0 true false ∧
      mayEnterS s 0 false true ∧ s.runsS 0 T (atomNames 6 4 8 0) ∧ releasedS s 0 1 ∧ (T.rdp 4).toNat % atomBytes 0 ≠ 0 := by
  refine ⟨⟨by decide +kernel, rfl⟩, ⟨rfl, rfl, by decide +kernel⟩, by decide +kernel, ?_, ?_, ⟨rfl, rfl, by decide +kernel⟩, ?_,
    by decide +kernel⟩
  all_goals first | (unfold mayEnterS; decide +kernel) | (unfold releasedS; decide +kernel)

/-- The first address past the space, and the last word of a live barrier; for atomics too. -/
theorem test_wit_ScratchFaults :
    (let T := atAddr 0x1000
     let s := stPad T
     T.hasHandler ∧ s.runsS 0 T (smNames 6 2 2) ∧ (smTarget T 2 0).toNat % 4 = 0 ∧ mayEnterS s 0 true false ∧ mayEnterS s 0 false true ∧
      4096 * (s.launch (s.gang T.gang).launch).desc.spad < (smTarget T 2 0).toNat + 4) ∧
    (let T := atAddr 4
     let s := (stPad T).modGang 0 (fun G => { G with live := 0 :: [] })
     s.runsS 0 T (smNames 6 2 2) ∧ (smTarget T 2 0).toNat + 4 ≤ 4096 * (s.launch (s.gang T.gang).launch).desc.spad ∧
      (∃ w ∈ (s.gang T.gang).live, overlaps w 8 (smTarget T 2 0).toNat 4 = true) ∧ mayEnterS s 0 false true ∧
      s.runsS 0 T (atomNames 6 4 8 0) ∧ releasedS s 0 1 ∧ (T.rdp 4).toNat % atomBytes 0 = 0 ∧
      (T.rdp 4).toNat + atomBytes 0 ≤ 4096 * (s.launch (s.gang T.gang).launch).desc.spad ∧
      (∃ w ∈ (s.gang T.gang).live, overlaps w 8 (T.rdp 4).toNat (atomBytes 0) = true)) ∧
    (let T := atAddr 0x1000
     let s := stPad T
     s.runsS 0 T (atomNames 6 4 8 0) ∧ releasedS s 0 1 ∧ (T.rdp 4).toNat % atomBytes 0 = 0 ∧
      4096 * (s.launch (s.gang T.gang).launch).desc.spad < (T.rdp 4).toNat + atomBytes 0) := by
  refine ⟨⟨⟨by decide +kernel, rfl⟩, ⟨rfl, rfl, by decide +kernel⟩, by decide +kernel, ?_, ?_, by decide +kernel⟩,
    ⟨⟨rfl, rfl, by decide +kernel⟩, by decide +kernel, by decide +kernel, ?_, ⟨rfl, rfl, by decide +kernel⟩, ?_, by decide +kernel,
      by decide +kernel, by decide +kernel⟩, ⟨rfl, rfl, by decide +kernel⟩, ?_, by decide +kernel, by decide +kernel⟩
  all_goals first | (unfold mayEnterS; decide +kernel) | (unfold releasedS; decide +kernel)

theorem test_wit_AccessCheckFrame : ∃ tl s1, (st T0).sGlobal 0 0x50000 8 { r := true } = .ok tl s1 :=
  ⟨_, _, ok_of (by decide +kernel)⟩

/-- A store in flight to a word of the bank. -/
def inFlight : Entry :=
  { id := 0, owner := .s 0, team := some 0, part := 0, die := 0, dest := .home 0, addr := 0x50000, va := 0x50000,
    op := .store [1], ret := .none, lane := none, rpage := none }

/-- No access in flight, a load in flight, and an observer outside the device let `rfence` pass. -/
theorem test_wit_ScalarFences : (st T0).runsS 0 T0 [] ∧
    (∀ e ∈ (st T0).sEarlier 0, e.op.isLoad = true ∨ e.counts 3 = false ∨ (st T0).binds 3 0 e.die = false) ∧
    (let s := { st T0 with fwd := inFlight :: [], observer := some .host }
     s.sEarlier 0 = inFlight :: [] ∧ inFlight.op.isLoad = false ∧ inFlight.counts 3 = true ∧ s.binds 3 0 0 = false) :=
  ⟨⟨rfl, rfl, rfl⟩, by decide +kernel, by decide +kernel⟩

theorem test_wit_ControlTransfers : ∃ U target, transferOut (.call 0x3FFFFFF) T0 = some ([63], U, target) ∧ T0.spc.toNat % 4 = 0 ∧
    target.toNat % 4 = 0 ∧ (st T0).runsS 0 T0 [63] := ⟨_, _, rfl, by decide +kernel, by decide +kernel, rfl, rfl, rfl⟩

theorem test_wit_MisalignedTargetTraps :
    let T := atAddr 2
    ∃ target, transferOut (.jr 4) T = some ([4, 5], T, target) ∧ T.spc.toNat % 4 = 0 ∧ target.toNat % 4 ≠ 0 ∧
      (st T).runsS 0 T [4, 5] ∧ T.hasHandler := ⟨_, rfl, by decide +kernel, by decide +kernel, ⟨rfl, rfl, rfl⟩, by decide +kernel, rfl⟩

/-! ### Lane work, register count, circles -/

/-- A team with seven blocks queued has room for one more. -/
def q0 : LQ := { index := 0, params := Vector.replicate 16 0, rkey := 0, migctl := 0, n := 128, low := 128, sMark := 0 }

theorem test_wit_LaneQueueInstructions :
    (let T : Team := { T0 with laneQ := List.replicate 7 q0 }
     (st T).runsS 0 T ((List.range 16).map (fun k => BitVec.ofNat 6 (16 + k))) ∧
       T.laneQ.length + (if T.blk.isSome then 1 else 0) < 8) ∧
    (lanesEnded T0 ∧ (st T0).runsS 0 T0 [] ∧ (st T0).runsS 0 T0 [2, 3]) :=
  ⟨⟨⟨rfl, rfl, by decide +kernel⟩, by decide +kernel⟩, ⟨rfl, rfl⟩, ⟨rfl, rfl, rfl⟩, rfl, rfl, rfl⟩

/-- A team of 120 registers, whose launch allows 128, and one of 16. -/
def few (n : Nat) : Team := { T0 with n := n, rows := n, regs := .start n }

theorem test_wit_GrowAndShrink :
    (let T := few 120
     let s := st T
     s.runsS 0 T [] ∧ T.wcodes = 0 ∧ T.n + 8 * (1 : BitVec 4).toNat ≤ (s.launch T.launch).desc.nmax ∧
       (s.core T.core).growQ = [] ∧ rowsFor 8 T.w ≤ s.freeRows T.core) ∧
    (8 * (1 : BitVec 4).toNat + 8 ≤ (few 16).n ∧ (few 16).blk = none ∧ (few 16).held = none ∧ (few 16).laneQ = [] ∧
      (few 16).asideQ = [] ∧ (few 16).shrinks = []) :=
  ⟨⟨⟨rfl, rfl, rfl⟩, rfl, by decide +kernel, by decide +kernel, by decide +kernel⟩, by decide +kernel, rfl, rfl, rfl, rfl, rfl⟩

theorem test_wit_GrowFaults :
    (st T0).runsS 0 T0 [] ∧ T0.hasHandler ∧ ({ T0 with wcodes := 1 } : Team).wcodes ≠ 0 ∧
    ((st T0).launch T0.launch).desc.nmax < T0.n + 8 * (1 : BitVec 4).toNat ∧ (few 8).n < 8 * (1 : BitVec 4).toNat + 8 :=
  ⟨⟨rfl, rfl, rfl⟩, ⟨by decide +kernel, rfl⟩, by decide +kernel, by decide +kernel, by decide +kernel⟩

/-- Gang circle 0 has the team as its only member, launch circle 0 none, and there is no launch circle 1. -/
theorem test_wit_CircleInstructions :
    let s := st T0
    (∃ c, circleOf s T0 0 0 = some c ∧ nameIn T0 0 ∈ c.members ∧ ∀ m ∈ c.members, m = nameIn T0 0 ∨ m ∈ c.arrived) ∧
    s.runsS 0 T0 [] ∧ s.runsS 0 T0 [2, 3] ∧ T0.wait = .none ∧ releasedS s 0 1 ∧ releasedS s 0 3 ∧
    (∃ c p, circleOf s T0 1 0 = some c ∧ ({ T0 with wait := .csync true 0 7 } : Team).wait = .csync true 0 p ∧ p ≠ c.phase) := by
  refine ⟨⟨_, rfl, by decide +kernel, by decide +kernel⟩, ⟨rfl, rfl, rfl⟩, ⟨rfl, rfl, rfl⟩, rfl, ?_, ?_, _, _, rfl, rfl, by decide +kernel⟩
  all_goals (unfold releasedS; decide +kernel)

/-- A store of the team in flight; a member that has not arrived; a team that waits in the phase that stands. -/
theorem test_wit_csyncWaits :
    (let s := { st T0 with fwd := inFlight :: [] }
     ∃ c, circleOf s T0 0 0 = some c ∧ s.runsS 0 T0 [] ∧ T0.wait = .none ∧ nameIn T0 0 ∈ c.members ∧ ¬releasedS s 0 1) ∧
    (let s := (st T0).modGang 0 (fun G => { G with circles := { members := [0, 1], arrived := [], phase := 0 } :: [] })
     ∃ c, circleOf s T0 0 0 = some c ∧ s.runsS 0 T0 [] ∧ nameIn T0 0 ∈ c.members ∧ releasedS s 0 1 ∧
      ¬(∀ m ∈ c.members, m = nameIn T0 0 ∨ m ∈ c.arrived)) ∧
    (let T : Team := { T0 with wait := .csync false 0 0 }
     ∃ c, circleOf (st T) T 0 0 = some c ∧ (st T).runsS 0 T [] ∧ T.wait = .csync false 0 c.phase) := by
  refine ⟨⟨_, rfl, ⟨rfl, rfl, rfl⟩, rfl, by decide +kernel, ?_⟩, ⟨_, rfl, ⟨rfl, rfl, rfl⟩, by decide +kernel, ?_, by decide +kernel⟩,
    _, rfl, ⟨rfl, rfl, rfl⟩, rfl⟩
  all_goals (unfold releasedS; decide +kernel)

theorem test_wit_CircleFaults : (st T0).runsS 0 T0 [2, 3] ∧ T0.hasHandler ∧ circleOf (st T0) T0 1 1 = none ∧
    (∃ c, circleOf (st T0) T0 1 0 = some c ∧ nameIn T0 1 ∉ c.members) ∧ T0.wait = .none :=
  ⟨⟨rfl, rfl, rfl⟩, ⟨by decide +kernel, rfl⟩, rfl, ⟨_, rfl, by decide +kernel⟩, rfl⟩

/-! ## States that meet the hypotheses: launches, traps, tokens, barriers, engine and steep commands -/

def uOk (r : UOut (List Byte) × State) : Bool := match r.1 with | .ok _ => true | .fail _ _ _ => false
def uBytes (r : UOut (List Byte) × State) : List Byte := match r.1 with | .ok b => b | .fail _ _ _ => []

theorem uok_of {r : UOut (List Byte) × State} (h : uOk r = true) : r = (.ok (uBytes r), r.2) := by
  obtain ⟨x, s⟩ := r
  cases x with
  | ok b => rfl
  | fail c k a => exact (Bool.false_ne_true h).elim

def uwOk (r : UOut Unit × State) : Bool := match r.1 with | .ok _ => true | .fail _ _ _ => false

theorem uw_of {r : UOut Unit × State} (h : uwOk r = true) : r = (.ok (), r.2) := by
  obtain ⟨x, s⟩ := r
  cases x with
  | ok b => rfl
  | fail c k a => exact (Bool.false_ne_true h).elim

abbrev Sums := Option (State × (Nat → Nat) × (Nat → Nat))
def Sums.at1 (o : Sums) : State := match o with | some x => x.1 | none => .reset
def Sums.at2 (o : Sums) : Nat → Nat := match o with | some x => x.2.1 | none => id
def Sums.at3 (o : Sums) : Nat → Nat := match o with | some x => x.2.2 | none => id

theorem sums_of {o : Sums} (h : o.isSome = true) : o = some (o.at1, o.at2, o.at3) := by
  cases o with
  | some x => rfl
  | none => exact (Bool.false_ne_true h).elim

/-- A machine with bytes in memory. -/
def poke (s : State) (a : Nat) (bs : List Byte) : State := { s with mem := s.mem.writeN a bs }

/-- A launch descriptor (02/R47) of one team of 32 lanes: TEAMS 1, every other field zero or its smallest value. -/
def descBytes (sup : Byte) : List Byte := zeros 0x28 ++ [1] ++ zeros 14 ++ [sup] ++ zeros 0x48

theorem test_wit_PourAccepts :
    let T := atAddr 0x50000
    let s := poke (st T) 0x50000 (descBytes 0)
    ∃ bs s1, s.runsS 0 T [4, 5] ∧ (T.rdp 4).toNat % 64 = 0 ∧ mayEnterS s 0 true true ∧ releasedS s 0 3 ∧
      mayRead s 0 T (T.rdp 4) 128 ∧
      s.unitRead (s.partOf 0) (some T.core) (T.core / 36) (T.rdp 4) 128 (some 0) = (.ok bs, s1) ∧
      descMalformed bs = false ∧ natAt bs 0x37 1 < 128 ∧ natAt bs 0x34 4 / 2 ^ 18 % 128 = 0 ∧
      s1.deviceQueue (s.partOf 0) < 1024 ∧ s.partOf 0 < 8 := by
  refine ⟨_, _, ⟨rfl, rfl, rfl⟩, by decide +kernel, ?_, ?_, ⟨by decide +kernel, by decide +kernel⟩, uok_of (by decide +kernel), by decide +kernel,
    by decide +kernel, by decide +kernel, by decide +kernel, by decide +kernel⟩
  · unfold mayEnterS; decide +kernel
  · unfold releasedS; decide +kernel

/-- A misaligned address; a descriptor of zeros, whose TEAMS is 0; one that sets SUP. -/
theorem test_wit_PourFaults : (atAddr 32).hasHandler ∧ (st (atAddr 32)).runsS 0 (atAddr 32) [4, 5] ∧ ((atAddr 32).rdp 4).toNat % 64 ≠ 0 ∧
    (let T := atAddr 0x50000
     let s := st T
     ∃ bs s1, (T.rdp 4).toNat % 64 = 0 ∧ mayEnterS s 0 true true ∧ releasedS s 0 3 ∧
      mayRead s 0 T (T.rdp 4) 128 ∧
      s.unitRead (s.partOf 0) (some T.core) (T.core / 36) (T.rdp 4) 128 (some 0) = (.ok bs, s1) ∧ descMalformed bs = true) ∧
    128 ≤ natAt (descBytes 0x80) 0x37 1 := by
  refine ⟨⟨by decide +kernel, rfl⟩, ⟨rfl, rfl, rfl⟩, by decide +kernel, ⟨_, _, by decide +kernel, ?_, ?_,
    ⟨by decide +kernel, by decide +kernel⟩, uok_of (by decide +kernel), by decide +kernel⟩, by decide +kernel⟩
  · unfold mayEnterS; decide +kernel
  · unfold releasedS; decide +kernel

theorem test_wit_WithdrawEndYield : (st T0).runsS 0 T0 [4] ∧ (st T0).runsS 0 T0 [] ∧ T0.phase = .running ∧ lanesEnded T0 ∧
    (∀ k : Fin 8, T0.tok[k].out = 0 ∧ T0.tok[k].err = false) ∧ (st T0).launches[0]?.isSome :=
  ⟨⟨rfl, rfl, rfl⟩, ⟨rfl, rfl, rfl⟩, rfl, ⟨rfl, rfl⟩, by decide +kernel, rfl⟩

/-- A team that a trap has set aside with a block held. -/
def trapped : Team := { T0 with phase := .trapped, held := some (Blk.start q0 32 0) }

theorem test_wit_TrapResumption : trapped.phase = .trapped ∧ lanesEnded trapped ∧ (st trapped).runsS 0 trapped [] ∧
    trapped.pendL = none ∧ trapped.vtrap = none ∧ (st trapped).runsS 0 trapped [4] ∧ trapped.held = some (Blk.start q0 32 0) :=
  ⟨rfl, ⟨rfl, rfl⟩, ⟨rfl, rfl, rfl⟩, rfl, rfl, ⟨rfl, rfl, rfl⟩, rfl⟩

theorem test_wit_ResumeOutsideHandlerTraps : (st T0).runsS 0 T0 [4] ∧ T0.hasHandler := ⟨⟨rfl, rfl, rfl⟩, by decide +kernel, rfl⟩

/-! ### Tokens and barriers -/

/-- Token 7 with 254 commands outstanding takes one more; all tokens raised satisfy `twait`. -/
theorem test_wit_TokenInstructions :
    (let T : Team := { atAddr 0x50000 with tok := T0.tok.set 7 { Token.start with out := 254 } }
     let s := st T
     s.runsS 0 T [4, 5] ∧ (T.rdp 4).toNat % 64 = 0 ∧ T.core < 288 ∧ (s.chan (clusterOfCore T.core) 7).length < 16 ∧
       T.tok[(7 : BitVec 3).toNat].out < 255 ∧ mayEnterS s 0 true true ∧ releasedS s 0 2) ∧
    (st T0).runsS 0 T0 [] ∧ (∀ k : Fin 8, (0xFF : BitVec 8).getLsbD k = true → T0.tok[k].out = 0 ∧ T0.tok[k].err = false) ∧
    (st T0).runsS 0 T0 [4] := by
  refine ⟨⟨⟨rfl, rfl, rfl⟩, by decide +kernel, by decide +kernel, by decide +kernel, by decide +kernel, ?_, ?_⟩, ⟨rfl, rfl, rfl⟩,
    by decide +kernel, ⟨rfl, rfl, rfl⟩⟩
  · unfold mayEnterS; decide +kernel
  · unfold releasedS; decide +kernel

theorem test_wit_TokenErrorDelivered :
    let T : Team := { T0 with tok := T0.tok.set 7 { Token.start with err := true, cause := some .align } }
    (st T).runsS 0 T [] ∧ T.hasHandler ∧ (∀ j : Fin 8, (0xFF : BitVec 8).getLsbD j = true → T.tok[j].out = 0) ∧
      (0xFF : BitVec 8).getLsbD (7 : Fin 8) = true ∧ T.tok[(7 : Fin 8)].err = true ∧ T.tok[(7 : Fin 8)].cause = some .align ∧
      ∀ j : Fin 8, j < 7 → (0xFF : BitVec 8).getLsbD j = true → T.tok[j].err = false :=
  ⟨⟨rfl, rfl, rfl⟩, ⟨by decide +kernel, rfl⟩, by decide +kernel, by decide +kernel, by decide +kernel, by decide +kernel,
    by decide +kernel⟩

/-- A barrier word at offset 0 of the gang's scratchpad, live: EPOCH, NEED, GOT and OWED (07/R183). -/
def barrier (T : Team) (e n g : Nat) (o : Int) : State :=
  (stPad T).modGang 0 (fun G => { G with
    live := 0 :: [],
    spad := Memory.writeN [] 0 (leBytes 8 (e * 2 ^ 52 + n * 2 ^ 42 + g * 2 ^ 32 + (BitVec.ofInt 32 o).toNat)) })

/-- Arrivals that end the phase, an OWED that may still rise by one, and the oldest epoch that counts as ended. -/
theorem test_wit_BarrierInstructions :
    let T := with1 6 1
    (let s := stPad T
     s.runsS 0 T [4, 5, 6, 8] ∧ atBank s 0 T (T.rdp 4) ∧ T.wait = .none ∧ (s.gangs[T.gang]?).isSome ∧ (s.gang T.gang).spad.wf = true ∧
       (T.rdp 4).toNat ∉ (s.gang T.gang).live ∧ (T.rd 6).toNat % 1024 ≠ 0 ∧ bitsOf (T.rd 6).toNat 15 10 = 0 ∧
       bitsOf (T.rd 6).toNat 31 28 = 0 ∧ (T.rd 8).toNat < 2 ^ 31) ∧
    (let s := barrier T 2049 2 1 (2 ^ 31 - 2)
     s.runsS 0 T [4, 5, 6, 8] ∧ atBank s 0 T (T.rdp 4) ∧ (s.gang T.gang).spad.wf = true ∧
       liveWord s T (T.rdp 4).toNat 2049 2 1 (2 ^ 31 - 2) ∧ (T.rd 6).toNat ≠ 0 ∧ (T.rd 6).toNat + 1 ≤ 2 ∧ releasedS s 0 1 ∧
       ((2 ^ 31 - 2 : Int) + (T.rd 6).toNat < 2 ^ 31) ∧ 2048 ≤ ((T.rd 6).toNat + 4096 - 2049) % 4096) := by
  refine ⟨⟨⟨rfl, rfl, rfl⟩, ?_, rfl, rfl, by decide +kernel, by decide +kernel, by decide +kernel, by decide +kernel, by decide +kernel,
    by decide +kernel⟩, ⟨rfl, rfl, rfl⟩, ?_, by decide +kernel, ?_, by decide +kernel, by decide +kernel, ?_, by decide +kernel,
    by decide +kernel⟩
  · unfold atBank spadOk mayEnterS; decide +kernel
  · unfold atBank spadOk mayEnterS; decide +kernel
  · unfold liveWord liveIn; decide +kernel
  · unfold releasedS; decide +kernel

/-- No live word; a live one; NEED of 0; one arrival too many. -/
theorem test_wit_BarrierFaults :
    (let T : Team := { T0 with wait := .bdone 1 }
     (st T).runsS 0 T [4, 5, 6, 8] ∧ T.wait = .bdone 1) ∧
    (let s := stPad T0
     s.runsS 0 T0 [4, 5, 6, 8] ∧ atBank s 0 T0 (T0.rdp 4) ∧ T0.wait = .none ∧ T0.hasHandler ∧ (T0.rdp 4).toNat ∉ (s.gang T0.gang).live ∧
       (T0.rd 6).toNat % 1024 = 0 ∧ releasedS s 0 1) ∧
    (let T := with1 6 2
     let s := barrier T 0 2 1 0
     atBank s 0 T (T.rdp 4) ∧ (T.rdp 4).toNat ∈ (s.gang T.gang).live ∧ liveWord s T (T.rdp 4).toNat 0 2 1 0 ∧ 2 < (T.rd 6).toNat + 1 ∧
       releasedS s 0 1) := by
  refine ⟨⟨⟨rfl, rfl, rfl⟩, rfl⟩, ⟨⟨rfl, rfl, rfl⟩, ?_, rfl, ⟨by decide +kernel, rfl⟩, by decide +kernel, by decide +kernel, ?_⟩, ?_,
    by decide +kernel, ?_, by decide +kernel, ?_⟩
  · unfold atBank spadOk mayEnterS; decide +kernel
  · unfold releasedS; decide +kernel
  · unfold atBank spadOk mayEnterS; decide +kernel
  · unfold liveWord liveIn; decide +kernel
  · unfold releasedS; decide +kernel

/-! ### Engine commands and steeps -/

theorem test_wit_EngineCommandsAccepted :
    let T := with1 8 0x7FFC0
    let s := st T
    engineTakes s 0 T 7 ∧ T.wait = .none ∧ (T.rdp 4).toNat % 64 = 0 ∧ s.runsS 0 T [4, 5, 8] ∧ (T.rd 8).toNat % 64 = 0 ∧
      (T.rd 8).toNat ≤ 0x7FFFC0 ∧ bitsOf (T.rd 8).toNat 31 19 = 0 ∧ s.runsS 0 T [4, 5, 6, 7] ∧ (T.rdp 6).toNat % 64 = 0 ∧
      s.runsS 0 T [4, 5, 6, 7, 8] ∧ bitsOf (T.rd 8).toNat 23 20 = 0 := by
  refine ⟨?_, rfl, by decide +kernel, ⟨rfl, rfl, rfl⟩, by decide +kernel, by decide +kernel, by decide +kernel, ⟨rfl, rfl, rfl⟩,
    by decide +kernel, ⟨rfl, rfl, rfl⟩, by decide +kernel⟩
  unfold engineTakes mayEnterS releasedS; decide +kernel

/-- The records of the commands above are read at once. -/
theorem test_wit_recordsRead :
    let T := with1 8 0x7FFC0
    let s := st T
    recordsRead s 0 T (s.newJob 0 (.bput 4 8 7) .bput 7 (T.rdp 4) 0 (T.rd 8) false false) ∧
      recordsRead s 0 T (s.newJob 0 (.accld 4 8 7) .accld 7 (T.rdp 4) 0 (T.rd 8) false false) ∧
      recordsRead s 0 T (s.newJob 0 (.accst 4 8 7) .accst 7 (T.rdp 4) 0 (T.rd 8) false false) ∧
      recordsRead s 0 T (s.newJob 0 (.mxreq 4 6 7) .mxreq 7 (T.rdp 4) (T.rdp 6) 0 false false) ∧
      recordsRead s 0 T (s.newJob 0 (.mma 4 6 8 7 0 1 0) .mma 7 (T.rdp 4) (T.rdp 6) (T.rd 8) true false) := by
  refine ⟨?_, ?_, ?_, ?_, ?_⟩
  all_goals (unfold recordsRead; decide +kernel)

theorem test_wit_EngineRegisters :
    (let T := with1 4 0x06FFFFFF
     (st T).runsS 0 T [4] ∧ bitsOf (T.rd 4).toNat 31 27 = 0 ∧ bitsOf (T.rd 4).toNat 26 24 ≠ 1 ∧ bitsOf (T.rd 4).toNat 26 24 ≠ 7) ∧
    (∀ ok, (st { T0 with wait := .crewDone ok }).runsS 0 { T0 with wait := .crewDone ok } [4, 5, 6, 7, 8] ∧
      Team.hasHandler { T0 with wait := .crewDone ok }) :=
  ⟨⟨⟨rfl, rfl, rfl⟩, by decide +kernel, by decide +kernel, by decide +kernel⟩, fun _ => ⟨⟨rfl, rfl, rfl⟩, T0_handler, rfl⟩⟩

/-- Four crews of other gangs hold the latches of the cluster. -/
def latchesTaken (T : Team) : State :=
  (st T).modCluster 0 (fun c => { c with latches := (List.range 4).map (fun k =>
    { latch := k, gang := 1, mcr := 0, word := 0, wide := false, sparse := false,
      mem := { team := 1, tok := 0, tag := 0, spc := 0, pairA := 0, recA := [], sc := 0 }, pairB := 0, hold := none }) })

theorem test_wit_crewWaits : (latchesTaken T0).runsS 0 T0 [4, 5, 6, 7, 8] ∧ T0.wait = .none ∧
    (latchesTaken T0).latchFor 0 T0.mcr = none := ⟨⟨rfl, rfl, rfl⟩, rfl, by decide +kernel⟩

theorem test_wit_EngineCommandFaults :
    (let T := atAddr 32
     (st T).runsS 0 T [4, 5, 6, 7, 8] ∧ T.hasHandler ∧ T.wait = .none ∧ (T.rdp 4).toNat % 64 ≠ 0 ∧
       ((st T).latchFor 0 T.mcr).isSome = true) ∧
    (let T : Team := { T0 with tok := T0.tok.set 7 { Token.start with out := 255 } }
     (st T).runsS 0 T [4, 5, 6, 7, 8] ∧ (T.rdp 4).toNat % 64 = 0 ∧ bitsOf (T.rd 8).toNat 31 19 = 0 ∧
       255 ≤ T.tok[(7 : BitVec 3).toNat].out) :=
  ⟨⟨⟨rfl, rfl, rfl⟩, ⟨by decide +kernel, rfl⟩, rfl, by decide +kernel, by decide +kernel⟩, ⟨rfl, rfl, rfl⟩, by decide +kernel,
    by decide +kernel, by decide +kernel⟩

/-- A caddy whose tape is at 0x60000, with five steeps behind it. -/
def cad : Caddy :=
  { base := 0x80000, tape := 0x60000, slots := 16, circle := 0, tv := true, twin := 0, accum := false, d := 1, tseg := 256, tdepth := 8,
    made := true, home := 0, steep := 5, closers := [], recs := [], count := 0, overflow := false, fault := none, oldest := 0,
    opened := false, apply := none, walker := some 0, hold := none, holdOpen := false,
    wrapped := false, later := [] }

/-- A machine whose launch names one caddy, in whose circle the team is. -/
def stCad (T : Team) (c : Caddy) : State :=
  { (st T).modLaunch 0 (fun L => { L with
      desc := { L.desc with caddies := 1 }, caddySet := some 0, circles := { members := 0 :: [], arrived := [], phase := 0 } :: [] }) with
    caddySets := { part := 0, addr := 0x70000, created := true, launches := 0 :: [], caddies := c :: [] } :: [] }

theorem test_wit_SteepInstructions :
    let T := with1 4 1
    let s := stCad T cad
    namesCaddy s T 0 0 cad ∧ s.runsS 0 T [] ∧
    (∃ z, (s.launch T.launch).circles[cad.circle]? = some z ∧ T.tid ∈ z.members) ∧ s.runsS 0 T [4] ∧
    (cad.steep - T.rd 4).toNat < 2 ^ 31 ∧ T.rd 6 = 0 ∧ (cad.steep - T.rd 6).toNat < 2 ^ 31 ∧ T.rd 4 ≠ 0 ∧
    neverOpened cad (T.rd 6) ∧ ¬neverOpened cad (T.rd 4) ∧ mayReadTape s 0 T cad (cad.segAddr (T.rd 4 - 1)) ∧
    (∃ h s1, s.unitRead (s.partOf 0) none cad.home (cad.segAddr (T.rd 4 - 1)) 64 (some 0) = (.ok h, s1) ∧
      ¬(wordAt h 0 = T.rd 4 - 1 ∧ bitsOf (natAt h 8 4) 1 0 ≠ 0)) ∧
    (let s := poke s (cad.segAddr 0).toNat (leBytes 4 0 ++ zeros 4 ++ leBytes 4 2)
     mayReadTape s 0 T cad (cad.segAddr (T.rd 4 - 1)) ∧
      ∃ h s1, s.unitRead (s.partOf 0) none cad.home (cad.segAddr (T.rd 4 - 1)) 64 (some 0) = (.ok h, s1) ∧
       wordAt h 0 = T.rd 4 - 1 ∧ bitsOf (natAt h 8 4) 1 0 ≠ 0) ∧ T.hasHandler :=
  ⟨⟨rfl, by decide +kernel, _, rfl, rfl⟩, ⟨rfl, rfl, rfl⟩, ⟨_, rfl, by decide +kernel⟩, ⟨rfl, rfl, rfl⟩, by decide +kernel, rfl,
    by decide +kernel, by decide +kernel, ⟨rfl, .inl (by decide +kernel)⟩, fun h => absurd h.2 (by decide +kernel),
    ⟨by decide +kernel, by decide +kernel⟩, ⟨_, _, uok_of (by decide +kernel), by decide +kernel⟩,
    ⟨⟨by decide +kernel, by decide +kernel⟩, _, _, uok_of (by decide +kernel), by decide +kernel, by decide +kernel⟩,
    T0_handler, rfl⟩

/-- The oldest steep that the tape still holds, with a complete segment and a complete walk. -/
theorem test_wit_SteepGradCompletes :
    let T := (T0.wr 6 4).wr 4 0x50000
    let s := poke (poke (stCad T cad) (cad.segAddr 4).toNat (leBytes 4 4 ++ zeros 4 ++ leBytes 4 0x80000000)) 0x50000
      (leBytes 4 2 ++ leBytes 4 4)
    ∃ h o s1 s2, namesCaddy s T 0 0 cad ∧ s.runsS 0 T [6, 4, 5] ∧ cad.tv = true ∧ (T.rdp 4).toNat % 64 = 0 ∧ releasedS s 0 3 ∧
      cad.walker = some 0 ∧ 1 ≤ (cad.steep - T.rd 6).toNat ∧ (cad.steep - T.rd 6).toNat < cad.tdepth ∧
      s.unitRead (s.partOf 0) none cad.home (cad.segAddr (T.rd 6)) 64 (some 0) = (.ok h, s1) ∧ wordAt h 0 = T.rd 6 ∧
      bitsOf (natAt h 8 4) 31 31 = 1 ∧ bitsOf (natAt h 8 4) 1 0 = 0 ∧
      s1.unitRead (s.partOf 0) none cad.home (T.rdp 4) 64 (some 0) = (.ok o, s2) ∧ natAt o 0 4 = 2 ∧ wordAt o 4 = T.rd 6 ∧
      s.heldTo (s.partOf 0) s2 = false := by
  refine ⟨_, _, _, _, ⟨rfl, by decide +kernel, _, rfl, rfl⟩, ⟨rfl, rfl, rfl⟩, rfl, by decide +kernel, ?_, rfl, by decide +kernel,
    by decide +kernel, uok_of (by decide +kernel), by decide +kernel, by decide +kernel, by decide +kernel,
    uok_of (by decide +kernel), by decide +kernel, by decide +kernel, by decide +kernel⟩
  unfold releasedS; decide +kernel

/-- A walk that begins with a record of one entry, and one whose records have all been walked. -/
def gradRec : List Byte := zeros 0xC ++ leBytes 4 0x10000 ++ leBytes 4 0x3F800000 ++ leBytes 4 3 ++ leBytes 4 0x40000000 ++ zeros 100

def stGrad (T : Team) (o : List Byte) : State :=
  poke (poke (poke (stCad T cad) (cad.segAddr 4).toNat (leBytes 4 4 ++ leBytes 4 1 ++ leBytes 4 0x80000000)) (cad.recAddr 4 0).toNat gradRec)
    0x50000 o

theorem test_wit_SteepGradWalks :
    let T := (T0.wr 6 4).wr 4 0x50000
    let s := stGrad T []
    let d := stGrad T (leBytes 4 1 ++ leBytes 4 4 ++ leBytes 4 1 ++ leBytes 4 1)
    let go (s : State) : State := s.modCaddy 0 0 (fun c => { c with walker := some 0 })
    (∃ S h o s1 s2 s3, namesCaddy s T 0 0 cad ∧ s.caddySets[0]? = some S ∧ S.caddies[cad.twin]? = some cad ∧ s.runsS 0 T [6, 4, 5] ∧
      releasedS s 0 3 ∧ mayGrad s 0 0 cad cad ∧
      s.unitRead (s.partOf 0) none cad.home (cad.segAddr (T.rd 6)) 64 (some 0) = (.ok h, s1) ∧ wordAt h 0 = T.rd 6 ∧
      bitsOf (natAt h 8 4) 31 31 = 1 ∧ bitsOf (natAt h 8 4) 1 0 = 0 ∧
      s1.unitRead (s.partOf 0) none cad.home (T.rdp 4) 64 (some 0) = (.ok o, s2) ∧ natAt o 0 4 = 0 ∧ natAt h 4 4 = 1 ∧
      s2.unitWrite (s.partOf 0) none cad.home (walkSrc 0) (T.rdp 4)
        (leBytes 4 1 ++ w32le (T.rd 6) ++ leBytes 4 0 ++ leBytes 4 1 ++ zeros 48) (some 0) = (.ok (), s3) ∧
      ∃ rec_ z1 z2 dx dw z3 z4, (go s3).unitRead (s.partOf 0) none cad.home (cad.recAddr (T.rd 6) 0) cad.recSize (some 0) = (.ok rec_, z1) ∧
        gradSteps (s.partOf 0) 0 cad cad rec_ (gradOrder rec_ cad.d) z1 (fun _ => 0) (fun _ => 0) = some (z2, dx, dw) ∧
        z2.unitWrite (s.partOf 0) none cad.home (walkSrc 0) (T.rdp 4 + 64) (gradOut cad.d dx dw) (some 0) = (.ok (), z3) ∧
        z3.unitWrite (s.partOf 0) none cad.home (walkSrc 0) (T.rdp 4 + 8) (leBytes 4 1) (some 0) = (.ok (), z4) ∧
        s.heldTo (s.partOf 0) z4 = false) ∧
    (∃ h o s1 s2, d.unitRead (d.partOf 0) none cad.home (cad.segAddr (T.rd 6)) 64 (some 0) = (.ok h, s1) ∧ natAt h 4 4 = 1 ∧
      s1.unitRead (d.partOf 0) none cad.home (T.rdp 4) 64 (some 0) = (.ok o, s2) ∧ natAt o 0 4 = 1 ∧ wordAt o 4 = T.rd 6 ∧
      natAt o 12 4 ≤ natAt o 8 4 ∧ ∃ z1, (go s2).unitWrite (d.partOf 0) none cad.home (walkSrc 0) (T.rdp 4) (leBytes 4 2) (some 0) =
        (.ok (), z1) ∧ d.heldTo (d.partOf 0) z1 = false) := by
  refine ⟨⟨_, _, _, _, _, _, ⟨rfl, by decide +kernel, _, rfl, rfl⟩, rfl, rfl, ⟨rfl, rfl, rfl⟩, ?_, .inl rfl, uok_of (by decide +kernel),
    by decide +kernel, by decide +kernel, by decide +kernel, uok_of (by decide +kernel), by decide +kernel, by decide +kernel,
    uw_of (by decide +kernel), _, _, _, _, _, _, _, uok_of (by decide +kernel), sums_of (by decide +kernel), uw_of (by decide +kernel),
    uw_of (by decide +kernel), by decide +kernel⟩,
    _, _, _, _, uok_of (by decide +kernel), by decide +kernel, uok_of (by decide +kernel), by decide +kernel, by decide +kernel,
    by decide +kernel, _, uw_of (by decide +kernel), by decide +kernel⟩
  unfold releasedS; decide +kernel

theorem test_wit_SteepFaults : (st T0).runsS 0 T0 [6, 4, 5] ∧ T0.hasHandler ∧ ((st T0).launch T0.launch).desc.caddies ≤ (0 : BitVec 6).toNat ∧
    (let s := stCad T0 { cad with tv := false, circle := 1 }
     namesCaddy s T0 0 0 { cad with tv := false, circle := 1 } ∧ s.runsS 0 T0 [6, 4, 5] ∧
      ∀ z, (s.launch T0.launch).circles[(1 : Nat)]? = some z → T0.tid ∉ z.members) ∧
    (let T := T0.wr 6 5
     let s := stCad T cad
     namesCaddy s T 0 0 cad ∧ s.runsS 0 T [6, 4, 5] ∧ cad.tv = true ∧ (T.rdp 4).toNat % 64 = 0 ∧ releasedS s 0 3 ∧ cad.walker = some 0 ∧
      ¬(1 ≤ (cad.steep - T.rd 6).toNat ∧ (cad.steep - T.rd 6).toNat < cad.tdepth)) := by
  refine
  ⟨⟨rfl, rfl, rfl⟩, ⟨by decide +kernel, rfl⟩, by decide +kernel, ⟨⟨rfl, by decide +kernel, _, rfl, rfl⟩, ⟨rfl, rfl, rfl⟩,
    fun _ h => nomatch h⟩, ⟨rfl, by decide +kernel, _, rfl, rfl⟩, ⟨rfl, rfl, rfl⟩, rfl, by decide +kernel, ?_, rfl, by decide +kernel⟩
  unfold releasedS; decide +kernel

/-! ## States that meet the hypotheses: privilege, fault queue, context images -/

def qOk (r : Except (Cause × DWord) Nat) (g : Nat) : Bool := match r with | .ok x => x == g | .error _ => false

theorem qok_of {r : Except (Cause × DWord) Nat} {g : Nat} (h : qOk r g = true) : r = .ok g := by
  cases r with
  | ok x => exact congrArg Except.ok (eq_of_beq h)
  | error e => exact (Bool.false_ne_true h).elim

theorem test_wit_PrivilegedInUserModeTraps : privilegedNames (.sysr 2 0x10) = some [2, 3] ∧ Instr.wellFormed (.sysr 2 0x10) = true ∧
    (user (st T0)).runsS 0 T0 [2, 3] ∧
    ¬supervisor (user (st T0)) T0 ∧ T0.hasHandler :=
  ⟨rfl, by decide +kernel, ⟨rfl, rfl, rfl⟩, by unfold supervisor; decide +kernel, T0_handler, rfl⟩

theorem test_wit_PrivilegedReads : (st T0).runsS 0 T0 [2, 3] ∧ supervisor (st T0) T0 ∧
    (∀ r ∈ [0x010, 0x011, 0x012, 0x013, 0x018, 0x019, 0x01A, 0x01B, 0x020, 0x021, 0x028],
      (privRead ((st T0).part 0) r).isSome = true) ∧ (2 : BitVec 6).toNat % 2 = 0 ∧
    privRead ((st T0).part ((st T0).partOf 0)) (0x029 : BitVec 12).toNat = none ∧ T0.hasHandler :=
  ⟨⟨rfl, rfl, rfl⟩, rfl, by decide +kernel, by decide +kernel, rfl, T0_handler, rfl⟩

theorem test_wit_PrivilegedWrites : (st T0).runsS 0 T0 [2, 3] ∧ supervisor (st T0) T0 ∧ (st T0).partOf 0 < 8 ∧ releasedS (st T0) 0 4 ∧
    ∀ r ∈ [0x010, 0x013, 0x018, 0x01B, 0x020, 0x021, 0x028], (privWrite ((st T0).part 0) r 0 0).isSome = true := by
  refine ⟨⟨rfl, rfl, rfl⟩, rfl, by decide +kernel, ?_, by decide +kernel⟩
  unfold releasedS; decide +kernel

/-- A read-only register and one that is not listed; odd registers; bases of rings that are on, and misaligned ones; reserved bits. -/
theorem test_wit_PrivilegedWriteFaults :
    let T := with1 4 64
    let s := (st T).modPart 0 (fun P => { P with fq := { P.fq with ctl := 0xC0000004 } })
    let P := s.part (s.partOf 0)
    s.runsS 0 T [4, 5] ∧ supervisor s T ∧ T.hasHandler ∧ privRead P 0x029 = none ∧ (5 : BitVec 6).toNat % 2 = 1 ∧ (4 : BitVec 6).toNat % 2 = 0 ∧
      P.fq.ctl.getLsbD 31 = true ∧ P.el.ctl.getLsbD 31 = false ∧ ((with1 4 32).rdp 4).toNat % (64 * 2 ^ (P.el.ctl.toNat % 32)) ≠ 0 ∧
      (T.rdp 4).toNat % 65536 ≠ 0 ∧ bitsOf ((with1 4 2).rdp 4).toNat 15 1 ≠ 0 ∧ bitsOf ((with1 4 0x1000).rd 4).toNat 19 12 ≠ 0 :=
  ⟨⟨rfl, rfl, rfl⟩, rfl, ⟨T0_handler, rfl⟩, rfl, by decide +kernel, by decide +kernel, by decide +kernel, by decide +kernel,
    by decide +kernel, by decide +kernel, by decide +kernel, by decide +kernel⟩

def fixedBy (R : Ring) (x : Word) (mode : Bool) : Prop :=
  R.ctl.getLsbD 31 = true ∧ (x.toNat % 32 ≠ R.ctl.toNat % 32 ∨ (mode = true ∧ x.getLsbD 30 ≠ R.ctl.getLsbD 30))

/-- Both rings are turned on with the least size; FQCTL stays on; ELCTL takes a size while it is off; sizes and the mode bit change
while a ring is on; a reserved bit and a size of 3. -/
theorem test_wit_RingControl :
    let P := (st T0).part ((st T0).partOf 0)
    let on : Part := { P with fq := { P.fq with ctl := 0xC0000004 }, el := { P.el with ctl := 0x80000004 } }
    (let T := with1 4 0xC0000004
     (st T).runsS 0 T [4] ∧ supervisor (st T) T ∧ (st T).partOf 0 < 8 ∧ releasedS (st T) 0 4 ∧ T.hasHandler) ∧
    (P.fq.ctl.getLsbD 31 = false ∧ P.el.ctl.getLsbD 31 = false ∧ (0xC0000004 : Word).getLsbD 31 = true ∧
      ¬ringRefused P P.fq 0xC0000004 0x3FFFFFE0 false ∧ ¬ringRefused P P.el 0x80000004 0x7FFFFFE0 false) ∧
    (on.fq.ctl.getLsbD 31 = true ∧ ¬fixedBy on.fq 0xC0000004 true ∧ ¬ringRefused on on.fq 0xC0000004 0x3FFFFFE0 false ∧
      (0x0000001F : Word).getLsbD 31 = false ∧ ¬fixedBy P.el 0x0000001F false ∧ ¬ringRefused P P.el 0x0000001F 0x7FFFFFE0 false) ∧
    (fixedBy on.fq 0xC0000005 true ∧ fixedBy on.fq 0x80000004 true ∧ fixedBy on.el 0x80000005 false) ∧
    (¬fixedBy P.fq 0xC0000003 true ∧ ringRefused P P.fq 0xC0000003 0x3FFFFFE0 false ∧ ¬fixedBy on.el 0xC0000004 false ∧
      ringRefused on on.el 0xC0000004 0x7FFFFFE0 false) := by
  refine ⟨⟨⟨rfl, rfl, rfl⟩, rfl, by decide +kernel, ?_, T0_handler, rfl⟩, ?_, ?_, ?_, ?_⟩
  · unfold releasedS; decide +kernel
  all_goals (try unfold ringRefused) <;> (try unfold fixedBy) <;> decide +kernel

/-- A fault queue for software with one entry, and with none. -/
def stFq (T : Team) (tail : Word) : State :=
  (st T).modPart 0 (fun P => { P with fq := { base := 0x90000, ctl := 0xC0000004, head := 0, tail := tail } })

/-- Team 0 holds the only entry of the fault queue, which is open for the held S access of team 1. -/
def stEret : State :=
  let T : Team := { T0 with fqHeld := some (0x90000, 0) }
  let h : Hold := { cause := .page, addr := 0x40, write := false, exec := false, seq := some 0, res := none }
  let s := (stFq T 1).modPart 0 (fun P => { P with fqOpen := { seq := 0, who := .s 1, gen := 0 } :: [] })
  { s with teams := s.teams ++ [{ T0 with shold := some h }] }

theorem test_wit_openEntry :
    let T : Team := { T0 with fqHeld := some (0x90000, 0) }
    let P := stEret.part (stEret.partOf 0)
    let bs := stEret.readAt (stEret.partOf 0) (P.place (0x90000 : DWord).toNat 64).1 (P.place (0x90000 : DWord).toNat 64).2 64
    supervisor stEret T ∧ stEret.partOf 0 < 8 ∧ stEret.runsS 0 T [] ∧ T.fqHeld = some (0x90000, 0) ∧ releasedS stEret 0 4 ∧
      stEret.crossHeld (stEret.partOf 0) (fun z => z.resolveAt (stEret.partOf 0) (0x90000 : DWord).toNat (P.openOf 0 (some T.fqGen))) = false ∧
      P.openOf 0 (some T.fqGen) = some { seq := 0, who := .s 1, gen := 0 } ∧ bitsOf (natAt bs 12 4) 1 0 = 0 ∧
      (∃ V, stEret.teams[(1 : Nat)]? = some V ∧ (stEret.gang V.gang).phase ≠ .removed ∧ ∃ h, V.shold = some h ∧ h.seq = some 0 ∧ h.res = none) := by
  refine ⟨rfl, by decide +kernel, ⟨rfl, rfl, rfl⟩, rfl, ?_, by decide +kernel, by decide +kernel, by decide +kernel,
    _, rfl, by decide +kernel, _, rfl, rfl, rfl⟩
  unfold releasedS; decide +kernel

theorem test_wit_FaultQueueInstructions :
    (let s := stFq T0 1
     let P := s.part (s.partOf 0)
     supervisor s T0 ∧ s.partOf 0 < 8 ∧ s.runsS 0 T0 [2, 3] ∧ T0.fqHeld = none ∧ P.fq.ctl.getLsbD 31 = true ∧ P.fq.ctl.getLsbD 30 = true ∧
       P.fq.tail ≠ P.fq.head) ∧
    (let P := (stFq T0 0).part 0
     P.fq.ctl.getLsbD 31 = true ∧ P.fq.tail = P.fq.head) ∧
    (let T : Team := { T0 with fqHeld := some (0x90000, 0) }
     (stFq T 1).runsS 0 T [] ∧ T.fqHeld = some (0x90000, 0) ∧ releasedS (stFq T 1) 0 4 ∧
       (∀ o ∈ ((stFq T 1).part 0).fqOpen, o.seq ≠ 0 ∨ o.gen ≠ T.fqGen) ∧
       (stFq T 1).crossHeld 0 (fun z => z.resolveAt 0 0x90000 (((stFq T 1).part 0).openOf 0 (some T.fqGen))) = false ∧
       T.fqHeld.isSome = true ∧ (stFq T 1).runsS 0 T [2, 3] ∧ T.hasHandler) ∧
    ((st T0).runsS 0 T0 [4, 5] ∧ (st T0).runsS 0 T0 [] ∧ ∀ w ∈ ((st T0).part 0).sweeps, w.team ≠ some 0) := by
  refine ⟨⟨rfl, by decide +kernel, ⟨rfl, rfl, rfl⟩, rfl, by decide +kernel, by decide +kernel, by decide +kernel⟩,
    ⟨by decide +kernel, by decide +kernel⟩, ⟨⟨rfl, rfl, rfl⟩, rfl, ?_, by decide +kernel, by decide +kernel, rfl, ⟨rfl, rfl, rfl⟩, T0_handler, rfl⟩,
    ⟨rfl, rfl, rfl⟩, ⟨rfl, rfl, rfl⟩, by decide +kernel⟩
  unfold releasedS; decide +kernel

/-- A second launch whose only gang is saved under software's control. -/
def stSaved (T : Team) : State :=
  let s := st T
  let loc : ImageLoc := { addr := 0x50000, software := true, reason := 1, waiter := none, slot := none, room := 65536, request := 0 }
  let s := { s with
    launches := s.launches ++ [{ Launch.blank with
      lseq := 7, phase := .dealt, desc := { Desc.blank with teams := 1, raw := zeros 128 }, nextGang := 1 }],
    gangs := s.gangs ++ [{ Gang.blank with
      launch := 1, phase := .saved, teams := 1 :: [], circles := List.replicate 16 .empty, image := some loc }],
    teams := s.teams ++ [{ Team.start 1 1 0 0 0 Desc.blank with resident := false }] }
  poke s 0x50000 (s.imageBytes 1 1 1)

/-- Whether the image at an address is read and passes the checks of `ctxload` for gang 1. -/
def imageLoads (s : State) (va : DWord) : Bool :=
  let r := s.unitRead 0 (some 0) 0 va 256 (some 0)
  let q := r.2.unitRead 0 (some 0) 0 va (natAt (uBytes r) 8 4) (some 0)
  uOk r && headerOk (uBytes r) && uOk q && qOk (q.2.loadCheck 0 va (uBytes q)) 1

/-- A request block that names a launch which is not there. -/
theorem test_wit_ctxsaveOfNone :
    let T := atAddr 0x50000
    let s := poke (st T) 0x50000 (leBytes 4 99)
    ∃ bs s1 s2 s3, s.runsS 0 T [4, 5] ∧ supervisor s T ∧ T.wait = .none ∧ (T.rdp 4).toNat % 64 = 0 ∧
      s.sPending 0 (T.rdp 4) 64 = false ∧ mayRead s 0 T (T.rdp 4) 64 ∧
      s.unitRead (s.partOf 0) (some T.core) (T.core / 36) (T.rdp 4) 64 (some 0) = (.ok bs, s1) ∧
      (s1.saveReq (s.partOf 0) bs).ok = true ∧ (s1.saveReq (s.partOf 0) bs).gang = none ∧
      s1.unitWrite (s.partOf 0) (some T.core) (T.core / 36) (walkSrc 0) (T.rdp 4 + 0x14) (zeros 8) (some 0) = (.ok (), s2) ∧
      s1.unitWrite (s.partOf 0) (some T.core) (T.core / 36) (walkSrc 0) (T.rdp 4 + 0x14)
        (leBytes 4 1 ++ leBytes 4 0) (some 0) = (.ok (), s3) :=
  ⟨_, _, _, _, ⟨rfl, rfl, rfl⟩, rfl, rfl, by decide +kernel, by decide +kernel, ⟨by decide +kernel, by decide +kernel⟩,
    uok_of (by decide +kernel), by decide +kernel, by decide +kernel, uw_of (by decide +kernel), uw_of (by decide +kernel)⟩

theorem test_wit_ContextAndServiceInstructions :
    (let T : Team := { T0 with wait := .ctxDone }
     (st T).runsS 0 T [4, 5] ∧ supervisor (st T) T ∧ T.wait = .ctxDone) ∧
    (let T := atAddr 0x50000
     let s := stSaved T
     ∃ hdr img s1 s2, s.runsS 0 T [4, 5] ∧ supervisor s T ∧ (T.rdp 4).toNat % 64 = 0 ∧ s.sPending 0 (T.rdp 4) 256 = false ∧
      mayRead s 0 T (T.rdp 4) 256 ∧
      s.unitRead (s.partOf 0) (some T.core) (T.core / 36) (T.rdp 4) 256 (some 0) = (.ok hdr, s1) ∧ headerOk hdr = true ∧
      s1.unitRead (s.partOf 0) (some T.core) (T.core / 36) (T.rdp 4) (natAt hdr 8 4) (some 0) = (.ok img, s2) ∧
      s2.loadCheck (s.partOf 0) (T.rdp 4) img = .ok 1 ∧ 1 < s.gangs.length ∧ (s.gang 1).launch < s.launches.length) ∧
    (∀ x, (st { T0 with wait := .svcDone .retry x }).runsS 0 { T0 with wait := .svcDone .retry x } [4, 5, 6, 7]) := by
  have h : imageLoads (stSaved (atAddr 0x50000)) 0x50000 = true := by decide +kernel
  simp only [imageLoads, Bool.and_eq_true] at h
  exact ⟨⟨⟨rfl, rfl, rfl⟩, rfl, rfl⟩, ⟨_, _, _, _, ⟨rfl, rfl, rfl⟩, rfl, by decide +kernel, by decide +kernel,
    ⟨by decide +kernel, by decide +kernel⟩, uok_of h.1.1.1, h.1.1.2, uok_of h.1.2, qok_of h.2, by decide +kernel, by decide +kernel⟩, fun _ => ⟨rfl, rfl, rfl⟩⟩

theorem test_wit_ServiceWaits :
    (stFq T0 0).runsS 0 T0 [4, 5, 6, 7] ∧ ((stFq T0 0).part ((stFq T0 0).partOf 0)).fq.ctl.getLsbD 31 = true ∧ T0.wait = .none ∧
    releasedS (stFq T0 0) 0 4 ∧ ((st T0).part ((st T0).partOf 0)).fq.ctl.getLsbD 31 = false ∧ T0.hasHandler ∧
    (∀ x, (st { T0 with wait := .svcDone .fail x }).runsS 0 { T0 with wait := .svcDone .fail x } [4, 5, 6, 7] ∧
      Team.hasHandler { T0 with wait := .svcDone .fail x }) := by
  refine ⟨⟨rfl, rfl, rfl⟩, by decide +kernel, rfl, ?_, by decide +kernel, ⟨T0_handler, rfl⟩,
    fun _ => ⟨⟨rfl, rfl, rfl⟩, T0_handler, rfl⟩⟩
  unfold releasedS; decide +kernel

/-! ## States that meet the hypotheses: lane instructions -/

/-- A team whose block is about to execute its first instruction. -/
def L0 : Team := { T0 with blk := some (Blk.start q0 32 0) }

/-- A machine that runs the L-stream of one team. -/
def lt (T : Team) : State := { st T with cur := .l 0 }

/-- The team with a vector register. -/
def vreg (T : Team) (n : Nat) (r : VReg) : Team := { T with regs := { T.regs with v := T.regs.v.set n r } }

def noCtx : LCtx :=
  ⟨.unit 0 none, 0, false, 0, 0, 0, 0, 0, 0, .start 0, 0, Blk.start q0 0 0, 0, 0, 0, 0, Vector.replicate 8 0, 0⟩

/-- What an instruction works on, when it is issued. -/
def ctxOf (s : State) (i : Instr) (ms : BitVec 3) : LCtx :=
  match s.lctx with
  | some D => { D with blk := (D.blk.chain i).getD D.blk, eff := D.effOf ms }
  | none => noCtx

def issuesB (s : State) (i : Instr) (ms : BitVec 3) : Bool :=
  match s.lctx with
  | some D => (!(D.blk.restart && !(latchReads i).isEmpty && D.blk.chainCount != 0)) &&
      (!(!D.visiting && (s.team D.t).slotsHold i (touch i (s.softD D.t i)) (s.softD D.t i))) && (D.blk.chain i).isSome &&
      (D.effOf 0 &&& s.selBroken D ms) == 0
  | none => false

def runsB (s : State) (i : Instr) (ms : BitVec 3) : Bool :=
  issuesB s i ms && (ctxOf s i ms).regCheck (touch i (s.softD (ctxOf s i ms).t i)) == none &&
    s.lBroken (ctxOf s i ms) i (s.softD (ctxOf s i ms).t i) == 0

def actsB (s : State) (i : Instr) (ms : BitVec 3) : Bool := runsB s i ms && !(ctxOf s i ms).eff == 0

theorem issues_of {s : State} {i : Instr} {ms : BitVec 3} (h : issuesB s i ms = true) : s.issuesL i ms (ctxOf s i ms) := by
  unfold issuesB at h
  cases hD : s.lctx with
  | none => rw [hD] at h; exact (Bool.false_ne_true h).elim
  | some D =>
    rw [hD] at h
    simp only [Bool.and_eq_true, Bool.not_eq_true', beq_iff_eq] at h
    obtain ⟨⟨⟨h1, h2⟩, h3⟩, h4⟩ := h
    obtain ⟨b, hb⟩ := Option.isSome_iff_exists.mp h3
    refine ⟨D, b, hD, h1, h2, hb, h4, ?_⟩
    simp [ctxOf, hD, hb]

theorem runs_of {s : State} {i : Instr} {ms : BitVec 3} (h : runsB s i ms = true) : s.runsL i ms (ctxOf s i ms) := by
  unfold runsB at h
  simp only [Bool.and_eq_true, beq_iff_eq] at h
  exact ⟨issues_of h.1.1, h.1.2, h.2⟩

theorem acts_of {s : State} {i : Instr} {ms : BitVec 3} (h : actsB s i ms = true) : s.actsL i ms (ctxOf s i ms) := by
  unfold actsB at h
  simp only [Bool.and_eq_true, Bool.not_eq_true', beq_eq_false_iff_ne] at h
  exact ⟨runs_of h.1, h.2⟩

/-- Lane values for the first instruction of a block. -/
def laneSt (xs : List (Nat × VReg)) : State := lt (xs.foldl (fun T p => vreg T p.1 p.2) L0)

theorem test_wit_LaneIntegerResults :
    let s := laneSt [(2, .a 5 3), (3, .u 0xFFFFFFFF)]
    let C := ctxOf s (.vdiv lf) 0
    ∃ f cnt val, laneInt (.vdiv lf) = some (f, cnt, val) ∧ s.actsL (.vdiv lf) f.ms C ∧ (∀ l ∈ C.lanes, (val C l).isSome) ∧
      C.prcFits f.d (fun l => wordsOfNat cnt ((val C l).getD 0)) :=
  ⟨_, _, _, rfl, acts_of (by decide +kernel), by decide +kernel, fun h => nomatch h⟩

/-- A well-formed PRC passes `prcFits`. -/
theorem test_wit_prcFits :
    let i : Instr := .vmovImm .i32 0 (.r .prc) 0x0000400E
    let s := laneSt []
    ∃ f cnt val, laneInt i = some (f, cnt, val) ∧ s.actsL i f.ms (ctxOf s i 0) ∧
      (ctxOf s i 0).prcFits f.d (fun l => wordsOfNat cnt ((val (ctxOf s i 0) l).getD 0)) :=
  ⟨_, _, _, rfl, acts_of (by decide +kernel), fun _ => by decide +kernel⟩

theorem test_wit_LaneDivisionByZero :
    let s := laneSt [(3, .g [1, 0, 1])]
    let C := ctxOf s (.vdiv lf) 0
    lf.ty.isW = true ∧ s.actsL (.vdiv lf) lf.ms C ∧ C.who = .l 0 ∧ s.teams[0]?.isSome ∧ (s.team 0).phase = .running ∧ 1 ∈ C.lanes ∧
      C.valB lf 1 = 0 ∧ dstReg lf.d ≠ some .prc :=
  ⟨rfl, acts_of (by decide +kernel), rfl, rfl, rfl, by decide +kernel, by decide +kernel, by decide +kernel⟩

theorem test_wit_LaneFloatResults :
    let i : Instr := .vdiv { lf with ty := .f32 }
    let s := laneSt [(2, .u 0x3F800000), (3, .u 0)]
    let C := ctxOf s i 0
    ∃ f cnt out, laneValue s i = some (f, cnt, out) ∧ s.actsL i f.ms C ∧ allComplete C (out C) ∧ C.prcFits f.d (fun l => (out C l).xs) :=
  ⟨_, _, _, rfl, acts_of (by decide +kernel), by unfold allComplete; decide +kernel, fun h => nomatch h⟩

/-- A block with `e0`, `e1` and `e2` of capacity 5 in the last registers of the team. -/
def elSt : State := lt { L0 with wcodes := 0x444 }
def elf : LF := { ty := .ef, d := .r (.e 0), a := .reg (.e 1), b := .reg (.e 2) }

theorem test_wit_LaneElasticResults :
    let C := ctxOf elSt (.vadd elf) 0
    ∃ f out, laneElastic (.vadd elf) = some (f, out) ∧ elSt.actsL (.vadd elf) f.ms C ∧ allComplete C (out C) ∧
      C.prcFits f.d (fun l => (out C l).xs) :=
  ⟨_, _, rfl, acts_of (by decide +kernel), by unfold allComplete; decide +kernel, fun h => nomatch h⟩

/-- A working length of 6 halfwords in a destination of 5; a rounding operand of no bits. -/
theorem test_wit_lanesThatFault :
    (let s := lt { L0 with wcodes := 0x444, regs := { L0.regs with prc := .u 4 } }
     let C := ctxOf s (.vadd elf) 0
     ∃ f out, laneElastic (.vadd elf) = some (f, out) ∧ s.actsL (.vadd elf) f.ms C ∧ C.who = .l 0 ∧ s.teams[0]?.isSome ∧
      (s.team 0).phase = .running ∧ dstReg f.d ≠ some .prc ∧ ¬allComplete C (out C)) ∧
    (let i : Instr := .vcvtSr { lf with ty := .f16, md := LType.code .f32 }
     let s := laneSt []
     let C := ctxOf s i 0
     ∃ f cnt out, laneValue s i = some (f, cnt, out) ∧ s.actsL i f.ms C ∧ C.who = .l 0 ∧ s.teams[0]?.isSome ∧
      (s.team 0).phase = .running ∧ dstReg f.d ≠ some .prc ∧ ¬allComplete C (out C)) := by
  refine ⟨⟨_, _, rfl, acts_of (by decide +kernel), rfl, rfl, rfl, by decide +kernel, ?_⟩,
    _, _, _, rfl, acts_of (by decide +kernel), rfl, rfl, rfl, by decide +kernel, ?_⟩
  all_goals (unfold allComplete; decide +kernel)

/-- Capacity 5: a length of 6 does not fit; a length of 5 fits and meets PRC's floor of 1 or not; with PXE off it is stored. -/
theorem test_wit_ElasticStoreChecks :
    let C := ctxOf elSt (.vadd elf) 0
    let P : LCtx := { C with regs := { C.regs with prc := .u 0x00008013 } }
    C.dstCap elf.d < 6 ∧ 5 ≤ C.dstCap elf.d ∧ prcPxe (P.prc 0) = true ∧ prcFloor (P.prc 0) = 1 ∧ P.dstCap elf.d = 5 ∧
      (∃ r : EOut, r.checked = true ∧ r.x.sig < 1) ∧
      prcPxe (C.prc 0) = false :=
  ⟨by decide +kernel, by decide +kernel, by decide +kernel, by decide +kernel, by decide +kernel,
   ⟨{ eAdd 0 5 (EV.read []) (EV.read []) with checked := true }, rfl, by decide +kernel⟩, by decide +kernel⟩

/-! ### Masks and results across lanes -/

theorem test_wit_MaskResults :
    let i : Instr := .vcmp { lf with d := .r (.m 7), sub := 5 }
    ∃ f p, laneTest i = some (f, p) ∧ dstReg f.d = some (.m 7) ∧ (laneSt []).actsL i f.ms (ctxOf (laneSt []) i 0) :=
  ⟨_, _, rfl, rfl, acts_of (by decide +kernel)⟩

theorem test_wit_CrossLaneResults :
    let s := laneSt [(2, .a 1 1)]
    let red : LF := { d := .r (.v 1), a := .reg (.v 2), sub := 5, imm := 15 }
    let scan : LF := { d := .r (.v 1), a := .reg (.v 2), sub := 13 }
    let put : LF := { a := .reg (.v 2), imm := 7 }
    let bal : LF := { d := .r .zero, a := .reg (.v 2), imm := 15 }
    let mov : LF := { d := .r (.v 1), a := .reg (.m 1) }
    let awy : LF := { d := .r (.m 1) }
    (red.ty.isW = true ∧ red.sub.toNat < 6 ∧ s.runsL (.vred red) red.ms (ctxOf s (.vred red) 0) ∧ hasSlot red = true ∧
      (ctxOf s (.vred red) 0).visiting = false ∧ dstReg red.d ≠ some .prc) ∧
    (scan.ty.isW = true ∧ scan.sub.toNat % 8 < 6 ∧ s.actsL (.vscan scan) scan.ms (ctxOf s (.vscan scan) 0) ∧ dstReg scan.d ≠ some .prc) ∧
    (s.actsL (.vput put) put.ms (ctxOf s (.vput put) 0) ∧ (ctxOf s (.vput put) 0).visiting = false) ∧
    (s.runsL (.vballot bal) bal.ms (ctxOf s (.vballot bal) 0) ∧ hasSlot bal = true) ∧
    (s.actsL (.mmov mov) mov.ms (ctxOf s (.mmov mov) 0) ∧ isMaskDst mov.d = false ∧ dstReg mov.d ≠ some .prc) ∧
    (dstReg awy.d = some (.m 1) ∧ s.runsL (.vaway awy) 0 (ctxOf s (.vaway awy) 0)) ∧
    (let e : LF := { bal with d := .r (.m 1), imm := 0, ms := 1 }
     let C := ctxOf s (.vballot e) 1
     dstReg e.d = some (.m 1) ∧ s.runsL (.vballot e) e.ms C ∧ C.eff = 0 ∧ hasSlot e = false) ∧
    (let e : LF := { bal with ms := 1 }
     let C := ctxOf s (.vballot e) 1
     s.runsL (.vballot e) e.ms C ∧ C.eff = 0 ∧ hasSlot e = true ∧ C.visiting = false) :=
  ⟨⟨rfl, by decide +kernel, runs_of (by decide +kernel), rfl, rfl, by decide +kernel⟩,
   ⟨rfl, by decide +kernel, acts_of (by decide +kernel), by decide +kernel⟩, ⟨acts_of (by decide +kernel), rfl⟩,
   ⟨runs_of (by decide +kernel), rfl⟩, ⟨acts_of (by decide +kernel), rfl, by decide +kernel⟩,
   ⟨rfl, runs_of (by decide +kernel)⟩, ⟨rfl, runs_of (by decide +kernel), by decide +kernel, rfl⟩,
   runs_of (by decide +kernel), by decide +kernel, rfl, rfl⟩

/-- Mask register 1 is empty. -/
theorem test_wit_EmptyMaskHasNoEffect : (laneInt (.vadd { lf with ms := 1 })).map (·.1) = some { lf with ms := 1 } ∧
    (laneSt []).issuesL (.vadd { lf with ms := 1 }) 1 (ctxOf (laneSt []) (.vadd { lf with ms := 1 }) 1) ∧
    (ctxOf (laneSt []) (.vadd { lf with ms := 1 }) 1).eff = 0 := ⟨rfl, issues_of (by decide +kernel), by decide +kernel⟩

/-- A block of 16 registers names `v16`. -/
theorem test_wit_AbsentRegisterTraps :
    let i : Instr := .vadd { lf with a := .reg (.v 16) }
    let s := lt { L0 with blk := some (Blk.start { q0 with n := 16 } 32 0) }
    let C := ctxOf s i 0
    (laneInt i).map (·.1) = some { lf with a := .reg (.v 16) } ∧ s.issuesL i 0 C ∧ C.eff ≠ 0 ∧ C.who = .l 0 ∧ C.visiting = false ∧
      s.teams[0]?.isSome ∧ (s.team 0).phase = .running ∧ (touch i (s.softD C.t i)).v.any (fun n => C.n ≤ n) = true :=
  ⟨rfl, issues_of (by decide +kernel), by decide +kernel, rfl, rfl, rfl, rfl, by decide +kernel⟩

/-! ## States that meet the hypotheses: lane memory, soft memory, lane control -/

def goes (m : MemOp) (C : LCtx) (s : State) (ws : List (LaneOp × Want)) : Bool :=
  ws.all (fun w => match w.2 with
    | .go ps => (s.brokenPart C m (w.1.addr m.i) ps).isNone && ps.all (fun p => !p.2.2.replica)
    | _ => false)

theorem goes_of {m : MemOp} {C : LCtx} {s : State} {ws : List (LaneOp × Want)} (h : goes m C s ws = true) :
    ∀ w ∈ ws, ∃ ps, w.2 = .go ps ∧ s.brokenPart C m (w.1.addr m.i) ps = none ∧ ∀ p ∈ ps, p.2.2.replica = false := by
  intro w hw
  have := List.all_eq_true.mp h w hw
  cases hw2 : w.2 with
  | go ps =>
    rw [hw2] at this
    obtain ⟨h1, h2⟩ := (Bool.and_eq_true _ _).mp this
    exact ⟨ps, rfl, Option.isNone_iff_eq_none.mp h1, fun p hp => (Bool.not_eq_true' _).mp (List.all_eq_true.mp h2 p hp)⟩
  | bad c a => rw [hw2] at this; exact (Bool.false_ne_true this).elim
  | held c a => rw [hw2] at this; exact (Bool.false_ne_true this).elim
  | move d m ps => rw [hw2] at this; exact (Bool.false_ne_true this).elim
  | stall => rw [hw2] at this; exact (Bool.false_ne_true this).elim

def goesS (ws : List (LaneOp × SWant)) : Bool := ws.all (fun w => match w.2 with | .go _ => true | .no _ => false)

theorem goesS_of {ws : List (LaneOp × SWant)} (h : goesS ws = true) : ∀ w ∈ ws, ∃ es, w.2 = .go es := by
  intro w hw
  have := List.all_eq_true.mp h w hw
  cases hw2 : w.2 with
  | go es => exact ⟨es, rfl⟩
  | no x => rw [hw2] at this; exact (Bool.false_ne_true this).elim

/-- Lanes whose addresses are 4 bytes apart from a base on; the base stands in `v2` and `v3`. -/
def lanesAt (a : Word) : State := laneSt [(2, .a a 4)]

def vldI : Instr := .vld { d := .r (.v 5), a := .reg (.v 2) }
def vstsI : Instr := .vsts { a := .reg (.v 2), b := .reg (.v 6) }
def vldsI : Instr := .vlds { d := .r (.v 5), a := .reg (.v 2) }

theorem test_wit_LaneAccessesEntered :
    let s := lanesAt 0x50000
    let C := ctxOf s vldI 0
    ∃ m T ws k, memOpOf vldI = some m ∧ s.actsL vldI (lCode vldI).2.ms C ∧ C.who = .l 0 ∧ s.teams[0]? = some T ∧ s.lMay C m = true ∧
      m.returns = true ∧ T.freeSlot = some 0 ∧
      (Chk.mk s (s.lastPages (.l 0)) []).lanes C (s.teamQueue C.t C.die) m C.blk.lq.migctl (C.lanes.map (C.operands vldI)) = (ws, k) ∧
      (∀ w ∈ ws, ∃ ps, w.2 = .go ps ∧ k.s.brokenPart C m (w.1.addr m.i) ps = none ∧ ∀ p ∈ ps, p.2.2.replica = false) :=
  ⟨_, _, _, _, rfl, acts_of (by decide +kernel), rfl, rfl, by decide +kernel, rfl, by decide +kernel, (Prod.eta _).symm,
    goes_of (by decide +kernel)⟩

/-- Every lane misaligned; every lane one byte past the scratchpad's end or more; every lane on the word of a live barrier. -/
theorem test_wit_LaneAccessFaults :
    (let s := lanesAt 0x50001
     let C := ctxOf s vldI 0
     ∃ m r, memOpOf vldI = some m ∧ s.actsL vldI (lCode vldI).2.ms C ∧ C.who = .l 0 ∧ s.teams[0]?.isSome ∧ s.lMay C m = true ∧
      C.lanes = 0 :: r ∧ (∀ n ∈ C.lanes, laneBad s C m (lCode vldI).2 n = some .align)) ∧
    (let s := { stPad (vreg L0 2 (.a 0x1000 4)) with cur := .l 0 }
     let C := ctxOf s vldsI 0
     ∃ m r, memOpOf vldsI = some m ∧ s.actsL vldsI (lCode vldsI).2.ms C ∧ s.lMay C m = true ∧ C.lanes = 0 :: r ∧
      (∀ n ∈ C.lanes, laneBad s C m (lCode vldsI).2 n = some .scratchRange)) ∧
    (let s := { (stPad (vreg L0 2 (.u 4))).modGang 0 (fun G => { G with live := 0 :: [] }) with cur := .l 0 }
     let C := ctxOf s vstsI 0
     ∃ m r, memOpOf vstsI = some m ∧ s.actsL vstsI (lCode vstsI).2.ms C ∧ s.lMay C m = true ∧ C.lanes = 0 :: r ∧
      (∀ n ∈ C.lanes, laneBad s C m (lCode vstsI).2 n = some .barrierStore)) :=
  ⟨⟨_, (List.range 32).tail, rfl, acts_of (by decide +kernel), rfl, rfl, by decide +kernel, by decide +kernel, by decide +kernel⟩,
   ⟨_, (List.range 32).tail, rfl, acts_of (by decide +kernel), by decide +kernel, by decide +kernel, by decide +kernel⟩,
   ⟨_, (List.range 32).tail, rfl, acts_of (by decide +kernel), by decide +kernel, by decide +kernel, by decide +kernel⟩⟩

theorem test_wit_MulticastEntered :
    let f : LF := { a := .reg (.v 2), b := .reg (.v 5), c := .reg (.v 6) }
    let s := { stPad (vreg (vreg L0 2 (.u 0xFFC)) 6 (.u 0x1FFFFF)) with cur := .l 0 }
    let C := ctxOf s (.vmcast f) 0
    ∃ T, s.actsL (.vmcast f) f.ms C ∧ C.who = .l 0 ∧ s.teams[0]? = some T ∧ s.lMay C (mcastOp (.vmcast f) f) = true ∧
      (∀ l ∈ C.lanes, (laneAddr C f l).toNat % 4 = 0 ∧ (laneAddr C f l).toNat + 4 ≤ s.spadBytes T.gang ∧ (C.src f.c l).toNat < 2 ^ 21) :=
  ⟨_, acts_of (by decide +kernel), rfl, rfl, by decide +kernel, by decide +kernel⟩

/-- A block whose `m1` holds a mask. -/
def withM (m : Mask) : State := lt { L0 with regs := { L0.regs with m := L0.regs.m.set 1 m } }

theorem test_wit_LaneOrders :
    (let f : LF := { a := .reg (.v 2) }
     (lanesAt 0x50000).actsL (.vprf f) f.ms (ctxOf (lanesAt 0x50000) (.vprf f) 0)) ∧
    (let f : LF := { sub := 4, md := 12 }
     let s := laneSt []
     s.runsL (.vfence f) 0 (ctxOf s (.vfence f) 0) ∧ f.md.toNat / 4 ∈ [1, 2, 3] ∧
       (ctxOf s (.vfence f) 0).who = .l 0 ∧ s.teams[0]?.isSome) ∧
    (let f : LF := { a := .reg (.m 1) }
     let s := withM (Mask.full 32)
     let C := ctxOf s (.vsync f) 0
     s.runsL (.vsync f) 0 C ∧ C.visiting = false ∧ C.eff = C.mask f.a ∧
       s.blockRoaming C.t C.blk.lq.sMark (C.mask f.a) = false ∧ (s.team 0).returned = []) ∧
    (let f : LF := { a := .reg (.m 1) }
     let s := withM (Mask.full 31)
     let C := ctxOf s (.vsync f) 0
     s.runsL (.vsync f) 0 C ∧ C.eff &&& ~~~ C.mask f.a ≠ 0 ∧ (s.team 0).phase = .running) ∧
    (let f : LF := { a := .reg (.m 1) }
     let s := lt { L0 with blk := some (Blk.start q0 31 0), regs := { L0.regs with m := L0.regs.m.set 1 (Mask.full 32) } }
     let C := ctxOf s (.vsync f) 0
     s.runsL (.vsync f) 0 C ∧ C.mask f.a &&& ~~~ (C.eff ||| C.away) ≠ 0) :=
  ⟨acts_of (by decide +kernel), ⟨runs_of (by decide +kernel), by decide +kernel,
     rfl, rfl⟩,
   ⟨runs_of (by decide +kernel), rfl, by decide +kernel, by decide +kernel, rfl⟩,
   ⟨runs_of (by decide +kernel), by decide +kernel, rfl⟩, runs_of (by decide +kernel), by decide +kernel⟩

/-! ### Soft memory -/

/-- A block of a team that names a caddy of 16 slots of one element; the pointer group is at `v4`. -/
def softSt (i : Word) : State := { stCad (vreg L0 4 (.u i)) cad with cur := .l 0 }
def sf : LF := { ty := .f32, a := .reg (.v 4), b := .reg (.v 6) }
def sfD : LF := { sf with d := .r (.v 8), b := .reg (.v 0) }
def sfG : LF := { sf with d := .r (.v 8) }

theorem inRange_of {C : LCtx} {f : LF} {c : Caddy}
    (h : C.lanes.all (fun l => (entriesAt C f l).all (fun e => decide (e.1.toNat < c.slots))) = true) : softInRange C f c :=
  fun l hl e he => of_decide_eq_true (List.all_eq_true.mp (List.all_eq_true.mp h l hl) e he)

/-- The last slot of the caddy is in range. -/
theorem test_wit_SoftStoreSendsRecords :
    let s := softSt 15
    let C := ctxOf s (.softSt sf) 0
    s.runsL (.softSt sf) sf.ms C ∧ C.who = .l 0 ∧ C.visiting = false ∧ s.teams[0]?.isSome ∧
      s.caddyOf C.t 0 = some (0, cad) ∧ softInRange C sf cad ∧ (s.takeSseq C).1.mayEnter 0 (s.team 0).lOrd false true = true :=
  ⟨runs_of (by decide +kernel), rfl, rfl, rfl, rfl,
    inRange_of (by decide +kernel), by decide +kernel⟩

theorem test_wit_SoftLoadsEntered :
    (let s := softSt 15
     let C := ctxOf s (.softLd sfD) 0
     ∃ ws k, s.runsL (.softLd sfD) 0 C ∧ s.mayEnter 0 (s.team 0).lOrd true false = true ∧
       (s.team 0).freeSlot = some 0 ∧ C.lanes ≠ [] ∧ s.caddyOf C.t 0 = some (0, cad) ∧
       (Chk.mk s (s.team 0).lastPage []).softs C (s.teamQueue C.t C.die) cad 1 (C.lanes.map (C.softOperands (.softLd sfD) cad.d)) = (ws, k) ∧
       ∀ w ∈ ws, ∃ es, w.2 = .go es) ∧
    (let s := softSt 15
     let C := ctxOf s (.softLdg sfG) 0
     let z := s.takeSseq C
     ∃ ws k, s.runsL (.softLdg sfG) 0 C ∧ z.1.mayEnter 0 (s.team 0).lOrd true true = true ∧ cad.tv = true ∧
       (Chk.mk z.1 (s.team 0).lastPage []).softs z.2 (z.1.teamQueue C.t C.die) cad 1 (C.lanes.map (C.softOperands (.softLdg sfG) cad.d)) = (ws, k) ∧
       ∀ w ∈ ws, ∃ es, w.2 = .go es) :=
  ⟨⟨_, _, runs_of (by decide +kernel), by decide +kernel, by decide +kernel,
     by decide +kernel, rfl, (Prod.eta _).symm, goesS_of (by decide +kernel)⟩,
   _, _, runs_of (by decide +kernel), by decide +kernel, rfl, (Prod.eta _).symm,
     goesS_of (by decide +kernel)⟩

theorem test_wit_SoftHardenPoints :
    let f : LF := { sf with d := .r (.v 8), sub := 0 }
    let s := softSt 15
    let C := ctxOf s (.softHarden f) 0
    s.runsL (.softHarden f) f.ms C ∧ C.visiting = false ∧ s.caddyOf C.t 0 = some (0, cad) ∧ softInRange C f cad ∧
      f.b = .reg (.v 6) ∧ (∀ k, dstReg f.d = some (.v k) → k.toNat < 6 ∨ 6 + 2 * (f.sub.toNat % 8 + 1) ≤ k.toNat) :=
  ⟨runs_of (by decide +kernel), rfl, rfl, inRange_of (by decide +kernel), rfl,
    fun k h => by cases h; exact .inr (by decide +kernel)⟩

/-- There is no caddy 1; the caddy has no twin. -/
theorem test_wit_SoftFaults :
    let s := softSt 0
    let f : LF := { sf with imm := 1 }
    let C := ctxOf s (.softSt f) 0
    s.issuesL (.softSt f) f.ms C ∧ C.who = .l 0 ∧ C.visiting = false ∧ s.teams[0]?.isSome ∧ (s.team 0).phase = .running ∧
      softFault s C f false = some .steep ∧
      softFault { stCad L0 { cad with tv := false } with cur := .l 0 } C sfG true = some .steep :=
  ⟨issues_of (by decide +kernel), rfl, rfl, rfl, rfl, by decide +kernel, by decide +kernel⟩

/-! ### Lane control -/

def lif1 : Instr := .lif { a := .reg (.m 1), imm := 4 }

/-- A block with entries on its reconvergence stack. -/
def deep (n : Nat) (k : RKind) : State :=
  lt { L0 with blk := some { Blk.start q0 32 0 with stack := List.replicate n ⟨Mask.full 32, 0, 7, k⟩ } }

/-- 31 entries leave room for one; every construct on the entry it needs. -/
theorem test_wit_LaneControlTransfers :
    (deep 31 .ifK).runsL lif1 0 (ctxOf (deep 31 .ifK) lif1 0) ∧
    (∀ i ∈ ([lif1, .ldo { imm := 9 }, .lelse { imm := 4 }, .lfi {}, .lfmt { imm := 0x24 }, .lnop {}] : List Instr),
      (ctlOut i (ctxOf (deep 31 .ifK) i 0)).isSome = true) ∧
    (∀ i ∈ ([.lwhile { a := .reg (.m 1) }, .lod { imm := 0xFFFFF0 }] : List Instr), (ctlOut i (ctxOf (deep 32 .loopK) i 0)).isSome = true) :=
  ⟨runs_of (by decide +kernel), by decide +kernel, by decide +kernel⟩

theorem test_wit_LaneControlFaults :
    (ctlFault lif1 (deep 32 .ifK) (ctxOf (deep 32 .ifK) lif1 0) = some (.reconvergenceOverflow, 0) ∧
      (deep 32 .ifK).runsL lif1 0 (ctxOf (deep 32 .ifK) lif1 0) ∧
      (ctxOf (deep 32 .ifK) lif1 0).who = .l 0 ∧ ((deep 32 .ifK).team 0).phase = .running) ∧
    (∀ i ∈ ([.lelse { imm := 4 }, .lfi {}, .lwhile { a := .reg (.m 1) }, .lod {}, .lfmt { imm := 0x28 }] : List Instr),
      (ctlFault i (deep 0 .ifK) (ctxOf (deep 0 .ifK) i 0)).isSome = true) :=
  ⟨⟨by decide +kernel, runs_of (by decide +kernel), rfl, rfl⟩, by decide +kernel⟩

/-- Sixteen staged registers; a window of 64 cells; no lane roams; a trap with and without active lanes. -/
theorem test_wit_LaneTeamInstructions :
    let s := laneSt []
    (let i : Instr := .vstage false 0xFFFF
     s.runsL i 0 (ctxOf s i 0) ∧
       (∀ n ∈ (List.range 64).filter (fun n => (0xFFFF : BitVec 64).getLsbD n), n < (ctxOf s i 0).n) ∧
       ((List.range 64).filter (fun n => (0xFFFF : BitVec 64).getLsbD n)).length ≤ 16 ∧ windowCells (ctxOf s i 0).wcodes = 0) ∧
    (let f : LF := { ty := .ef, a := .reg (.v 2) }
     let s := laneSt [(2, .u 0x77777777), (3, .u 0x77777777)]
     let C := ctxOf s (.ewin f) 0
     s.runsL (.ewin f) 0 C ∧ windowCells (C.pair f.a 0) = 64 ∧ 64 ≤ C.n ∧ C.n = C.regs.v.length ∧
       (∀ n < 64, C.blk.staged.getLsbD n = true → n < C.n - 64 ∨ C.n ≤ n) ∧ C.blk.ew = false) ∧
    (∀ i ∈ ([.lhome {}, .lret {}, .ltrap { imm := 5 }] : List Instr), actsB s i 0 = true) ∧
    s.blockRoaming 0 0 (~~~ 0) = false ∧ (s.team 0).returned = [] ∧ (s.team 0).shrinks = [] ∧ (s.team 0).phase = .running ∧
    (let s := lt { L0 with blk := some (Blk.start q0 0 0) }
     s.runsL (.ltrap {}) 0 (ctxOf s (.ltrap {}) 0) ∧ (ctxOf s (.ltrap {}) 0).eff = 0) :=
  ⟨⟨runs_of (by decide +kernel), by decide +kernel, by decide +kernel,
     by decide +kernel⟩,
   ⟨runs_of (by decide +kernel), by decide +kernel, by decide +kernel,
     by decide +kernel, by decide +kernel, by decide +kernel⟩, by decide +kernel, by decide +kernel, by decide +kernel,
   by decide +kernel, by decide +kernel, runs_of (by decide +kernel), by decide +kernel⟩

/-- A continuation of lanes 0 to 7 of team 0. -/
def cont0 : Cont :=
  { team := 0, part := 0, kind := 0, hops := 1, tidx := 0, word := 0, lanes := Mask.full 8, redo := 0, cause := none, taddr := 0,
    regs := { Regs.start 128 with m := (Regs.start 128).m.set 0 (Mask.full 8) }, wcodes := 0, blk := { Blk.start q0 8 0 with staged := 0x7F }, flags := 0, nfcAdd := 0, src := 0, dst := 0, waits := [], reserved := false,
    held := none }

def vis0 : Visitor :=
  { cont := cont0, alive := true, halted := false, core := 3, rows := 128, ord := [], hold := none, last := [], fly := none }

theorem test_wit_VisitorReturns :
    let s : State := { st L0 with visitors := vis0 :: [], cur := .v 0 }
    ∀ p ∈ ([(.lhome {}, 1), (.lret {}, 2), (.vsync { a := .reg (.m 1) }, 3)] : List (Instr × Nat)),
      s.runsL p.1 0 (ctxOf s p.1 0) ∧ (ctxOf s p.1 0).who = .v 0 ∧ s.visitors[0]?.isSome := by
  have h : ∀ p ∈ ([(.lhome {}, 1), (.lret {}, 2), (.vsync { a := .reg (.m 1) }, 3)] : List (Instr × Nat)),
      runsB { st L0 with visitors := vis0 :: [], cur := .v 0 } p.1 0 = true ∧
        (ctxOf { st L0 with visitors := vis0 :: [], cur := .v 0 } p.1 0).who = .v 0 := by decide +kernel
  exact fun p hp => ⟨runs_of (h p hp).1, (h p hp).2, rfl⟩

/-- A soft instruction at a visitor. -/
theorem test_wit_softAtVisitor :
    let s : State := { st L0 with visitors := vis0 :: [], cur := .v 0 }
    s.issuesL (.softSt sf) sf.ms (ctxOf s (.softSt sf) 0) ∧ (ctxOf s (.softSt sf) 0).who = .v 0 ∧ s.visitors[0]? = some vis0 :=
  ⟨issues_of (by decide +kernel), by decide +kernel, rfl⟩

/-- A register that the block does not have, seventeen registers, a register of the window; windows of 65 cells and over a staged
register. -/
theorem test_wit_WindowFaults :
    let s := laneSt []
    let w := lt { L0 with wcodes := 0x444 }
    (stageFault w (ctxOf w (.vstage false (1 <<< 63)) 0) false (1 <<< 63) = none ∧ s.runsL (.vstage false 0x1FFFF) 0 (ctxOf s (.vstage false 0x1FFFF) 0) ∧
      (stageFault s (ctxOf s (.vstage false 0x1FFFF) 0) false 0x1FFFF).map (·.1) = some .reservedField ∧
      (let n := lt { L0 with blk := some (Blk.start { q0 with n := 16 } 32 0) }
       (stageFault n (ctxOf n (.vstage false 0x10000) 0) false 0x10000).map (·.1) = some .illegal) ∧
      (let n := lt { L0 with wcodes := 0x444, blk := some (Blk.start { q0 with n := 64 } 32 0) }
       stageFault n (ctxOf n (.vstage false (1 <<< 63)) 0) false (1 <<< 63) = some (.window, 0))) ∧
    (let f : LF := { ty := .ef, a := .reg (.v 2) }
     let s := laneSt [(2, .u 0xF0000000), (3, .u 0xFFFFFFFF)]
     s.runsL (.ewin f) 0 (ctxOf s (.ewin f) 0) ∧ (ctxOf s (.ewin f) 0).who = .l 0 ∧ (ctxOf s (.ewin f) 0).visiting = false ∧
       s.teams[0]?.isSome ∧ (s.team 0).phase = .running ∧ windowRefused (ctxOf s (.ewin f) 0) f = true) :=
  ⟨⟨by decide +kernel, runs_of (by decide +kernel), by decide +kernel, by decide +kernel, by decide +kernel⟩,
    runs_of (by decide +kernel), rfl, rfl, rfl, rfl, by decide +kernel⟩

theorem test_wit_NotCarriedTraps :
    let s : State := { st L0 with visitors := vis0 :: [], cur := .v 0 }
    ∀ i ∈ ([vldsI, vstsI, .vput { a := .reg (.v 2) }, .vmcast { a := .reg (.v 2), b := .reg (.v 5), c := .reg (.v 6) }] : List Instr),
      uncarried i = some 0 ∧ s.actsL i 0 (ctxOf s i 0) ∧ (ctxOf s i 0).who = .v 0 ∧ s.visitors[0]? = some vis0 := by
  have h : ∀ i ∈ ([vldsI, vstsI, .vput { a := .reg (.v 2) }, .vmcast { a := .reg (.v 2), b := .reg (.v 5), c := .reg (.v 6) }] : List Instr),
      uncarried i = some 0 ∧ actsB { st L0 with visitors := vis0 :: [], cur := .v 0 } i 0 = true ∧
        (ctxOf { st L0 with visitors := vis0 :: [], cur := .v 0 } i 0).who = .v 0 := by decide +kernel
  exact fun i hi => ⟨(h i hi).1, acts_of (h i hi).2.1, (h i hi).2.2, rfl⟩

/-- A block with a NaN. -/
theorem test_wit_BlockQuantisation :
    let f : LF := { ty := .blk, d := .r (.v 1), a := .reg (.v 2) }
    let s := laneSt [(2, .g [0x7FC00000])]
    let C := ctxOf s (.vmxq f) 0
    s.actsL (.vmxq f) f.ms C ∧ dstReg f.d ≠ some .prc ∧ C.w % 32 = 0 ∧ (fmtF32.decode (C.src f.a 0).toNat).isNan = true :=
  ⟨acts_of (by decide +kernel), by decide +kernel, by decide +kernel, by decide +kernel⟩

/-! ## States that meet the hypotheses: the ordering machine, continuations, replays, the kettle -/

/-- An access of the S-stream of team 0 to its gang's scratchpad. -/
def ent (op : Acc) (ret : Ret) (a : Nat) : Entry :=
  { id := 1, owner := .s 0, team := some 0, part := 0, die := 0, dest := .bank 0, addr := a, va := BitVec.ofNat 64 a, op := op, ret := ret,
    lane := none, rpage := none }

/-- The head of its queue leaves; a second entry of the same queue stays. -/
theorem test_wit_DeliverStep :
    let e := ent (.load 4) (.sreg 0 6 false) 0
    let s : State := { stPad T0 with fwd := e :: { e with id := 2 } :: [] }
    (s.fwd[0]? = some e ∧ (s.fwd.take 0).any (fun x => x.sameQueue e) = false ∧ isPlace s e.dest) ∧
    (s.fwd[1]? = some { e with id := 2 } ∧ (s.fwd.take 1).any (fun x => x.sameQueue { e with id := 2 }) = true) :=
  ⟨⟨rfl, rfl, .inr (.inr ⟨0, rfl, rfl⟩)⟩, rfl, by decide +kernel⟩

/-- One entry arrived, at the scratchpad's last word; a second to the same line must wait for it. -/
def arrived (op : Acc) (ret : Ret) : State :=
  { stPad { T0 with pend := (1, 6, false) :: [] } with arr := ent op ret 0xFFC :: { ent op ret 0xFFC with id := 2 } :: [] }

theorem test_wit_PerformStep :
    (let e := ent (.load 4) (.sreg 0 6 false) 0xFFC
     let s := arrived (.load 4) (.sreg 0 6 false)
     s.arr[0]? = some e ∧ isPlace s e.dest ∧ ready s 0 e ∧ s.teams[0]?.isSome ∧ ((s.team 0).pend.any (fun p => p.1 == e.id)) = true) ∧
    (let e := ent (.store [1, 2, 3, 4]) .none 0xFFC
     let s := arrived (.store [1, 2, 3, 4]) .none
     ready s 0 e ∧ (memAt s e.dest).wf = true ∧ (s.gang 0).liveAt e.addr 4 = false) ∧
    (let e := ent (.atom .cas 4 5 0) .none 0xFFC
     let s := arrived (.atom .cas 4 5 0) .none
     ready s 0 e ∧ (memAt s e.dest).wf = true ∧ (s.gang 0).liveAt e.addr 4 = false ∧
       atomNew .cas 4 (leNat ((memAt s e.dest).readN e.addr 4)) 5 0 = some 5 ∧
       s.mayPerform 1 { e with id := 2 } = false) ∧
    (let e := ent (.atom .add 8 5 0) (.sreg 0 6 true) 0xFF8
     let s := { arrived (.load 4) .none with arr := e :: [], teams := { T0 with pend := (1, 6, true) :: [] } :: [] }
     ready s 0 e ∧ (memAt s e.dest).wf = true ∧ (s.gang 0).liveAt e.addr 8 = false ∧
       atomNew .add 8 (leNat ((memAt s e.dest).readN e.addr 8)) 5 0 = some 5 ∧
       s.teams[0]?.isSome ∧ ((s.team 0).pend.any (fun p => p.1 == e.id)) = true) := by
  refine ⟨⟨rfl, .inr (.inr ⟨0, rfl, rfl⟩), ?_, rfl, by decide +kernel⟩, ⟨?_, by decide +kernel, by decide +kernel⟩, ⟨?_, by decide +kernel,
    by decide +kernel, by decide +kernel, by decide +kernel⟩, ?_, by decide +kernel, by decide +kernel, by decide +kernel, rfl, by decide +kernel⟩
  all_goals unfold ready; exact ⟨rfl, by decide +kernel, by decide +kernel, by decide +kernel⟩

theorem test_wit_BlockStarts :
    let T : Team := { T0 with laneQ := q0 :: [] }
    (st T).teams[0]? = some T ∧ T.blk = none ∧ T.laneQ = [q0] ∧ T.trapDue = false ∧ (st T).onCore 0 = true ∧
      (let U := { T with held := some (Blk.start { q0 with n := 128 } 32 0), laneQ := { q0 with low := 16 } :: [] }
       ∃ x, U.held = some x ∧ x.stash = [] ∧ (16 : Nat) < x.lq.n ∧ x.lq.n ≤ U.regs.v.length) :=
  ⟨rfl, rfl, rfl, rfl, by decide +kernel, _, rfl, rfl, by decide +kernel, by decide +kernel⟩

theorem test_wit_ContinuationSteps :
    (let s : State := { st L0 with channel := cont0 :: [] }
     s.channel[0]? = some cont0 ∧ (s.channel.take 0).any (fun x => x.src == cont0.src && x.dst == cont0.dst) = false ∧ cont0.kind = 0 ∧
       cont0.dst < 8 ∧ s.channelTurn 0 cont0 = true ∧ (s.die cont0.dst).inbox.length + (s.die cont0.dst).reserved < 64) ∧
    (let s : State := { (st L0).modDie 0 (fun D => { D with inbox := cont0 :: [] }) with choice := 0 }
     (s.die 0).inbox[s.choice]? = some cont0 ∧ dieOfCore 35 = 0 ∧ s.works 35 = true ∧
       s.mayStart 0 ((s.die 0).inbox.take s.choice) cont0 = true ∧ 0 < s.freeSlots 35 ∧ cont0.rows ≤ s.freeRows 35 ∧
       (s.gangOf cont0.team).phase = .resident ∧ (s.part cont0.part).state = .ready) ∧
    (let c := { cont0 with kind := 2 }
     let s : State := { st L0 with channel := c :: [] }
     s.channel[0]? = some c ∧ c.kind ≠ 0 ∧ s.channelTurn 0 c = true ∧ s.teams[c.team]?.isSome ∧ ∀ e ∈ s.flight, e.id ∈ c.waits → e.counts 2 = false ∨ s.binds 2 c.team e.die = false) :=
  ⟨⟨rfl, rfl, rfl, by decide +kernel, by decide +kernel, by decide +kernel⟩,
   ⟨by decide +kernel, by decide +kernel, by decide +kernel, by decide +kernel, by decide +kernel, by decide +kernel, by decide +kernel,
     by decide +kernel⟩, rfl, by decide +kernel, by decide +kernel, rfl, by decide +kernel⟩

/-- A scratchpad load of which lanes 0 to 15 have finished. -/
def slot0 (h : Option Hold) (traps : List (Nat × Cause × DWord)) (faulted : Mask) : Slot :=
  { i := vldsI, block := 0, lpc := 3, chainHead := 3, eff := Mask.full 32, done := Mask.full 16, flying := 0, faulted := faulted,
    ops := (List.range 32).map (fun l => { lane := l, a := BitVec.ofNat 64 (4 * l), b := 0, c := 0, data := [] }),
    parts := [], traps := traps, sseq := 0, hold := h, latch := false, fmt := 0, rkey := 0, migctl := 0 }

def retryHold : Hold := { cause := .page, addr := 0, write := false, exec := false, seq := some 0, res := some .retry }

/-- The team with the slot in the last place of its operand log. -/
def logged (k : Slot) : State := { stPad { L0 with oplog := L0.oplog.set 3 (some k) } with cur := .l 0 }

/-- What LaneReturns asks of lane 16 of a slot of team 0, whose access `e` has arrived. -/
def returning (s : State) (e : Entry) (k : Slot) : Prop :=
  ready s 0 e ∧ isPlace s e.dest ∧ (s.team 0).oplog[3]? = some (some k) ∧ s.teams[0]?.isSome ∧
    (k.ops.find? (fun y => y.lane == 16)).isSome ∧
    ∃ C, s.retCtx (.l 0) k = some C ∧ 16 < C.w ∧ k.eff.getLsbD 16 = true ∧ k.done.getLsbD 16 = false ∧
      C.regCheck (touch k.i (s.softD 0 k.i)) = none ∧ dstReg (lCode k.i).2.d ≠ some .prc ∧ s.bad = []

/-- A load, an elastic load of the empty value, a soft load of one element. -/
theorem test_wit_LaneReturns :
    (let k := slot0 none [] 0
     let e := ent (.load 4) (.slot 0 3 16 0) 0xFFC
     let s := { logged k with arr := e :: [] }
     returning s e k ∧ (memOpOf k.i).map (fun m => (m.elastic, m.n)) = some (false, 4) ∧
       4 ≤ (partsOf (k.parts ++ [{ lane := 16, off := 0, bytes := (memAt s e.dest).readN e.addr 4 }]) 16).length) ∧
    (let f : LF := { ty := .ef, d := .r (.v 5), a := .reg (.v 2) }
     let k := { slot0 none [] 0 with i := .eldn f }
     let e := ent (.load 4) (.slot 0 3 16 0) 0xFFC
     let s := { logged k with arr := e :: [] }
     let hs := (List.range 16).map (fun i => natAt ((memAt s e.dest).readN e.addr 4) (2 * i) 2)
     returning s e k ∧ eLen hs = 2) ∧
    (let k := { slot0 none [] 0 with i := .softLd sfD, ops := { lane := 16, a := 0, b := 0, c := 0, data := [0, 0] } :: [] }
     let e := ent (.softLd 0 4) (.soft 0 3 16 0) 0xFFC
     let s := { stCad { L0 with oplog := L0.oplog.set 3 (some k) } cad with cur := .l 0, arr := e :: [] }
     returning s e k ∧ s.caddyOf 0 0 = some (0, cad) ∧ sfD.sub.toNat % 8 = 0 ∧ cad.d = 1) := by
  unfold returning ready
  exact ⟨⟨⟨⟨rfl, by decide +kernel, by decide +kernel, by decide +kernel⟩, .inr (.inr ⟨0, rfl, rfl⟩), rfl, rfl, by decide +kernel, _, rfl,
      by decide +kernel, by decide +kernel, by decide +kernel, by decide +kernel, by decide +kernel, rfl⟩, by decide +kernel, by decide +kernel⟩,
    ⟨⟨⟨rfl, by decide +kernel, by decide +kernel, by decide +kernel⟩, .inr (.inr ⟨0, rfl, rfl⟩), rfl, rfl, by decide +kernel, _, rfl,
      by decide +kernel, by decide +kernel, by decide +kernel, by decide +kernel, by decide +kernel, rfl⟩, by decide +kernel⟩,
    ⟨⟨rfl, by decide +kernel, by decide +kernel, by decide +kernel⟩, .inr (.inr ⟨0, rfl, rfl⟩), rfl, rfl, by decide +kernel, _, rfl,
      by decide +kernel, by decide +kernel, by decide +kernel, by decide +kernel, by decide +kernel, rfl⟩, rfl, by decide +kernel, rfl⟩

theorem test_wit_OperandLogReplays :
    (let k := slot0 (some retryHold) [] 0
     let s := logged k
     (s.team 0).oplog[3]? = some (some k) ∧ s.onCore 0 = true ∧ (s.team 0).trapDue = false ∧ k.flying = 0 ∧ k.traps = [] ∧
     ∃ m C ws c, memOpOf k.i = some m ∧ m.space = .spad ∧ replayCtx s 0 k C ∧ s.lMay C m = true ∧
       (Chk.mk s (s.lastPages (.l 0)) []).lanes C (s.teamQueue C.t C.die) m k.migctl (k.ops.filter (fun o => C.eff.getLsbD o.lane)) = (ws, c) ∧
       (∀ w ∈ ws, ∃ ps, w.2 = .go ps ∧ c.s.brokenPart C m (w.1.addr m.i) ps = none ∧ ∀ p ∈ ps, p.2.2.replica = false) ∧ k.eff &&& ~~~ k.done ≠ 0) ∧
    (let k := slot0 none [(31, .align, 2), (16, .page, 7)] (Mask.one 16)
     (logged k).teams[0]?.isSome ∧ ((logged k).team 0).oplog[3]? = some (some k) ∧ k.traps ≠ [] ∧ ((logged k).team 0).phase = .running ∧
       k.faulted ≠ 0) :=
  ⟨⟨rfl, by decide +kernel, rfl, rfl, rfl, _, _, _, _, rfl, rfl, ⟨_, rfl, rfl⟩, by decide +kernel, (Prod.eta _).symm,
     goes_of (by decide +kernel), by decide +kernel⟩, rfl, rfl, by decide +kernel, rfl, by decide +kernel⟩

/-! ### The kettle -/

/-- A transfer record: NEXT 0, control word, source, destination, the rest. -/
def kImg (ctl src dst : Nat) (tail : List Byte) : List Byte :=
  zeros 8 ++ leBytes 4 ctl ++ zeros 4 ++ leBytes 8 src ++ leBytes 8 dst ++ tail ++ zeros (32 - tail.length)

/-- 64 bytes of the scratchpad from 0 to 64; a fill of 8; one element of 4 bytes; one row of 4 bytes by index; one arrival. -/
def linImg : List Byte := kImg 0x85000000 0 64 (leBytes 4 64)
def fillImg : List Byte := kImg 0xC1000000 0 64 (leBytes 4 8 ++ zeros 4 ++ [1, 2, 3, 4, 5, 6, 7, 8])
def tileImg : List Byte := kImg 0x95000000 0 64 (leBytes 2 1 ++ leBytes 2 1 ++ leBytes 4 4 ++ leBytes 4 4 ++ leBytes 4 0x20)
def gathImg : List Byte := kImg 0xA5000000 0 64 (leBytes 4 1 ++ leBytes 4 0x40 ++ leBytes 8 0x20 ++ leBytes 4 4 ++ leBytes 4 1)
def arrImg : List Byte := kImg 0xB0800000 0 0 (leBytes 4 1 ++ zeros 20)

def krec (b : List Byte) : KRec :=
  { num := 0, addr := 0x50000, image := b, released := true, clear := true, todo := (0, kUnits b) :: [], rbuf := [], fate := none, ranged := true, counted := false, failed := false,
    retired := false, hold := none }

def chain0 (rs : List KRec) : Chain :=
  { gang := 0, team := 0, tok := 2, tag := 9, spc := 0x40000, arrived := 5, started := true, next := 0x50000, fetched := false, failed := false,
    stopped := false, recs := rs, hold := none }

/-- A machine whose channel 7 of the last cluster's neighbour, cluster 0, holds a chain. -/
def stK (k : Chain) : State := (barrier { T0 with tok := T0.tok.set 2 { Token.start with out := 1 } } 0 2 1 0).modChan 0 7 (fun _ => k :: [])

/-- Every record passes the checks at fetch but one whose OWN is clear. -/
theorem test_wit_kOk : kOk linImg 4096 = true ∧ kOk fillImg 4096 = true ∧ kOk tileImg 4096 = true ∧ kOk gathImg 4096 = true ∧
    kOk arrImg 4096 = true ∧ kOk (kImg 0x05000000 0 64 (leBytes 4 64)) 4096 = false := by decide +kernel

theorem test_wit_ChainFetching :
    (let s := stK { chain0 [] with started := false }
     s.walking 0 7 = none ∧ ((s.chan 0 7).find? (fun x => !x.stopped)).isSome) ∧
    (let s := poke (stK (chain0 [])) 0x50000 linImg
     ∃ b s1, s.walking 0 7 = some (chain0 []) ∧ (chain0 []).hold = none ∧ s.mayFetch 0 (chain0 []) = true ∧
       s.unitRead (s.partOf 0) none (dieOfCluster 0) 0x50000 64 (some 0) = (.ok b, s1) ∧ kOk b (s1.spadBytes 0) = true) ∧
    (let s := stK (chain0 [])
     ∃ b s1, s.unitRead (s.partOf 0) none (dieOfCluster 0) 0x50000 64 (some 0) = (.ok b, s1) ∧ kOk b (s1.spadBytes 0) = false ∧
       (chain0 []).failed = false ∧ ∃ T, s.teams[0]? = some T ∧ T.tok[(chain0 []).tok.toNat].err = false) :=
  ⟨⟨by decide +kernel, by decide +kernel⟩, ⟨_, _, by decide +kernel, rfl, by decide +kernel, uok_of (by decide +kernel), by decide +kernel⟩,
   _, _, uok_of (by decide +kernel), by decide +kernel, rfl, _, rfl, by decide +kernel⟩

/-- What KettleCopies asks of a step of a record's whole work, the first of its chain. -/
def copyOk (b : List Byte) (n : Nat) : Prop :=
  let s := stK (chain0 [krec b])
  let x := krec b
  let G := s.gang 0
  let u := unitOf x G.spad 0 n
  workingRec s 0 7 0 (chain0 [krec b]) x ∧ 0 < n ∧ inIntervals x.todo 0 n = true ∧ kDsp b = 1 ∧
    (kType b ∈ [0, 4] → ((kDst b).toNat + 0) % 64 + n ≤ 64) ∧ s.spent (s.partOf 0) 2 = false ∧
    s.crossHeld (s.partOf 0) (fun z => (z.kUnit 0 (chain0 [krec b]) x 0 n).2) = false ∧ (s.gangs[0]?).isSome ∧
    G.spad.wf = true ∧ (∀ b ∈ s.bad, b.unit ≠ 2) ∧ u.2.toNat + u.1.length ≤ s.spadBytes 0 ∧ G.liveAt u.2.toNat u.1.length = false ∧
    (∀ p ∈ lineParts (u.1.length / 64 + 2) u.2.toNat 0 u.1.length, G.liveAt (u.2.toNat + p.1) p.2 = false)

def linesB (z : KRec) (size off sp : Nat) (a : DWord) (n : Nat) : Bool :=
  (lineParts (n / 64 + 2) a.toNat 0 n).all (fun p => (z.ahead (off + p.1) p.2).isSome || (decide (sp = 1) && decide (a.toNat + p.1 + p.2 ≤ size)))

theorem lines_of {z : KRec} {size off sp : Nat} {a : DWord} {n : Nat} (h : linesB z size off sp a n = true) :
    linesReadable z size off sp a n := by
  intro p hp
  simpa [linesB] using List.all_eq_true.mp h p hp

theorem test_wit_KettleCopies :
    (copyOk linImg 64 ∧ unitReadable (krec linImg) ((stK (chain0 [])).gang 0).spad 4096 0 64) ∧
    (copyOk fillImg 8 ∧ unitReadable (krec fillImg) ((stK (chain0 [])).gang 0).spad 4096 0 8) ∧
    (copyOk tileImg 1 ∧ unitReadable (krec tileImg) ((stK (chain0 [])).gang 0).spad 4096 0 1) ∧
    (copyOk gathImg 1 ∧ unitReadable (krec gathImg) ((stK (chain0 [])).gang 0).spad 4096 0 1) := by
  unfold copyOk workingRec
  refine ⟨⟨by decide +kernel, ?_⟩, ⟨by decide +kernel, trivial⟩, ⟨by decide +kernel, .inr ?_⟩, by decide +kernel, ?_, .inr ⟨?_, ?_⟩⟩
  · exact lines_of (by decide +kernel)
  · exact lines_of (by decide +kernel)
  · exact lines_of (by decide +kernel)
  · show leNat (linesOf (krec gathImg) ((stK (chain0 [])).gang 0).spad 4 (kIndex gathImg + BitVec.ofNat 64 (4 * 0)) 4) < kSlimit gathImg
    decide +kernel
  · exact lines_of (by decide +kernel)

/-- A part of a LINEAR record from global memory into the scratchpad. -/
def gloImg : List Byte := kImg 0x81000000 0x50000 64 (leBytes 4 64)

theorem test_wit_globalCopy :
    let x := krec gloImg
    let k := chain0 [x]
    let s := stK k
    ∃ bs s1 s2, workingRec s 0 7 0 k x ∧ kType x.image = 0 ∧ inIntervals x.todo 0 64 = true ∧ ((kDst x.image).toNat + 0) % 64 + 64 ≤ 64 ∧
      s.spent (s.partOf 0) 2 = false ∧ s.crossHeld (s.partOf 0) (fun z => (z.kUnit 0 k x 0 64).2) = false ∧
      s.kFrom 0 k x 0 (kSsp x.image) (kSrc x.image + BitVec.ofNat 64 0) 64 = (.ok bs, s1) ∧
      s1.jobWrite (s.partOf 0) 0 (dieOfCluster 0) (2 * k.arrived) (kDsp x.image) (kDst x.image + BitVec.ofNat 64 0) bs (some 0) =
        (.ok (), s2) := by
  refine ⟨_, _, _, ?_, by decide +kernel, by decide +kernel, by decide +kernel, by decide +kernel, by decide +kernel,
    uok_of (by decide +kernel), uw_of (by decide +kernel)⟩
  unfold workingRec; decide +kernel

theorem test_wit_ArriveAndRetire :
    (let s := stK (chain0 [krec arrImg])
     workingRec s 0 7 0 (chain0 [krec arrImg]) (krec arrImg) ∧ kType (krec arrImg).image = 3 ∧ (krec arrImg).todo ≠ [] ∧
       s.isBad 2 0 (kBarrier (krec arrImg).image) 8 = false ∧ (s.gangs[0]?).isSome ∧ (s.gang 0).spad.wf = true ∧
       liveIn s 0 (kBarrier (krec arrImg).image) 0 2 1 0 ∧ 0 < kCount (krec arrImg).image ∧ 1 + kCount (krec arrImg).image ≤ 2) ∧
    (let x := { krec linImg with todo := [] }
     ∀ fetched, let k : Chain := { chain0 [x] with fetched := fetched }
       let s := stK k
       let z := s.modRec 0 7 k.arrived 0 (fun y => { y with ranged := false, counted := true })
       workingRec s 0 7 0 k x ∧ x.todo = [] ∧ k.failed = false ∧ kBar x.image = false ∧ s.spent (s.partOf 0) 2 = false ∧
         z.crossHeld (s.partOf 0) (fun y => (y.unitWrite (s.partOf 0) none (dieOfCluster 0) (2 * k.arrived) (x.addr + 8)
           (leBytes 4 (natAt x.image 8 4 % 2 ^ 31) ++ leBytes 4 0) (some 0)).2) = false ∧ k.hold = none ∧ s.teams[0]?.isSome ∧ 0 < (s.team 0).tok[k.tok.toNat].out ∧
         uwOk (z.unitWrite (z.partOf 0) none (dieOfCluster 0) (2 * k.arrived) (x.addr + 8)
           (leBytes 4 (natAt x.image 8 4 % 2 ^ 31) ++ leBytes 4 0) (some 0)) = true) := by
  unfold workingRec liveIn
  refine ⟨?_, ?_⟩ <;> decide +kernel

/-- A LINEAR record of 64 bytes with BAR, whose barrier word at 0 is live, and one whose word is not. -/
def barImg (word : Nat) : List Byte := kImg 0x85800000 0 64 (leBytes 4 64 ++ zeros 20 ++ leBytes 8 word)

theorem test_wit_barRetire :
    (let x := { krec (barImg 0) with todo := [] }
     let k := chain0 [x]
     let s := stK k
     let z := s.modRec 0 7 k.arrived 0 (fun y => { y with ranged := false, counted := true })
     workingRec s 0 7 0 k x ∧ k.failed = false ∧ kBar x.image = true ∧ kType x.image ≠ 3 ∧ x.counted = false ∧ (s.gangs[0]?).isSome ∧
       (s.gang 0).spad.wf = true ∧ liveIn s 0 (kBarrier x.image) 0 2 1 0 ∧ -2 ^ 31 ≤ (0 : Int) - (kBytes x.image : Int) ∧
       (z.payAt 0 (kBarrier x.image) (kBytes x.image)).isSome = true ∧ k.fetched = false ∧ s.spent (s.partOf 0) 2 = false ∧
       ((z.payAt 0 (kBarrier x.image) (kBytes x.image)).getD z).crossHeld (s.partOf 0) (fun y => (y.unitWrite (s.partOf 0) none (dieOfCluster 0)
         (2 * k.arrived) (x.addr + 8) (leBytes 4 (natAt x.image 8 4 % 2 ^ 31) ++ leBytes 4 0) (some 0)).2) = false ∧
       uwOk (((z.payAt 0 (kBarrier x.image) (kBytes x.image)).getD z).unitWrite (s.partOf 0) none (dieOfCluster 0) (2 * k.arrived) (x.addr + 8)
         (leBytes 4 (natAt x.image 8 4 % 2 ^ 31) ++ leBytes 4 0) (some 0)) = true) ∧
    (let x := { krec (barImg 8) with todo := [] }
     let s := stK (chain0 [x])
     workingRec s 0 7 0 (chain0 [x]) x ∧ kBar x.image = true ∧ kBarrier x.image ∉ (s.gang 0).live ∧ s.teams[0]?.isSome ∧
       (s.team 0).tok[(chain0 [x]).tok.toNat].err = false) := by
  unfold workingRec liveIn
  refine ⟨?_, ?_⟩ <;> decide +kernel

/-! ## States that meet the hypotheses: the matrix engine, the blend unit, the fault queue's events -/

/-- A tile record (12/R314): BASE, SBASE, strides, ROWS, COLS and the word of KIND, SPACE, TYPE and AXIS. -/
def tImg (base sbase rs ss rows cols w : Nat) : List Byte :=
  leBytes 8 base ++ leBytes 8 sbase ++ zeros 8 ++ leBytes 4 rs ++ leBytes 4 ss ++ leBytes 2 rows ++ leBytes 2 cols ++ leBytes 4 w ++ zeros 24

/-- One row of 32 elements in f32 in the scratchpad, and one in E4M3 blocks with its scale at 64. -/
def f32Img : List Byte := tImg 0 0 128 0 1 32 0x06400000
def mxImg : List Byte := tImg 0 64 32 1 1 32 0x04000000

/-- A `bput` of the first row, released; the number of its acceptance is 5. -/
def job0 : Job :=
  { kind := .bput, gang := 0, arrived := 5, prio := 0, word := 0,
    members := [{ team := 0, tok := 2, tag := 9, spc := 0x40000, pairA := 0x50000, recA := f32Img, sc := 0 }], pairB := 0, recB := [],
    fmt := 0, sparse := false, wide := false, released := true, begun := true, done := 0, flags := 0, failed := false, hold := none,
    heldRec := 0, rbuf := [], wbuf := [] }

/-- The machine with 4 KiB of scratchpad, a token that counts one command, and a job on cluster 0. -/
def stJob (h : Option Nat) (js : List Job) : State :=
  (stPad { T0 with tok := T0.tok.set 2 { Token.start with out := 1 } }).modCluster 0 (fun k => { k with jobs := js, holder := h })

theorem test_wit_MatrixScheduling :
    (let s := stJob none [{ job0 with released := false }]
     jobAt s 0 0 { job0 with released := false } ∧ job0.unread = [] ∧ independent s 0 0 5 job0.footprint) ∧
    (let j := { job0 with released := false, members := job0.members.map (fun m => { m with recA := [] }) }
     jobAt (stJob none [j]) 0 0 j ∧ j.unread ≠ []) ∧
    (let x := { krec linImg with released := false }
     let k := chain0 [x]
     (0 : Nat) < 72 ∧ ((stK k).cluster 0).jobs.length ≤ 0 ∧
       ((stK k).kettleRecs 0)[0 - ((stK k).cluster 0).jobs.length]? = some (7, k, 0, x) ∧ x.live = true ∧ k.mayBegin 0 x = true ∧
       independent (stK k) 0 k.gang k.arrived (kFootprint x.image) ∧ k.recs.take 0 = []) ∧
    (let k := { job0 with arrived := 7 }
     let s := stJob none [job0, k]
     jobAt s 0 0 job0 ∧ (s.cluster 0).holder = none ∧ (s.gang job0.gang).phase = .resident ∧
      (∀ k ∈ (s.cluster 0).jobs, k.gang = job0.gang → job0.arrived ≤ k.arrived) ∧
      (∀ k ∈ (s.cluster 0).jobs, (s.gang k.gang).phase = .resident → k.gang ≠ job0.gang →
        (∀ m ∈ (s.cluster 0).jobs, m.gang = k.gang → k.arrived ≤ m.arrived) →
          k.prio < job0.prio ∨ k.prio = job0.prio ∧ job0.arrived < k.arrived)) ∧
    ((stJob (some 0) []).cluster 0).holder ≠ none ∧
    (let j := { job0 with done := 1 }
     let s := stJob (some 0) [j]
     jobAt s 0 0 j ∧ (s.cluster 0).holder = some j.gang ∧ j.begun = true ∧ j.passes ≤ j.done ∧ j.wbuf = [] ∧ s.teams[0]?.isSome) := by
  refine ⟨⟨⟨by decide +kernel, rfl⟩, by decide +kernel, ?_⟩, ⟨⟨by decide +kernel, rfl⟩, by decide +kernel⟩,
    ⟨by decide +kernel, by decide +kernel, by decide +kernel, by decide +kernel, by decide +kernel, ?_, rfl⟩,
    ⟨⟨by decide +kernel, rfl⟩, rfl, by decide +kernel, by decide +kernel, by decide +kernel⟩, by decide +kernel,
    ⟨by decide +kernel, rfl⟩, rfl, rfl, by decide +kernel, rfl, rfl⟩
  all_goals (unfold independent; decide +kernel)

def passIs (r : PassOut) : Bool := match r.1 with | .ok _ => true | .error _ => false
def passErr (r : PassOut) : JFail := match r.1 with | .ok _ => ⟨.illegal, false, 0, false, 0⟩ | .error e => e
def passFl (r : PassOut) : BitVec 3 := match r.1 with | .ok f => f | .error _ => 0

theorem pass_of {r : PassOut} (h : passIs r = true) : r = (.ok (passFl r), r.2) := by
  obtain ⟨x, s⟩ := r
  cases x with
  | ok b => rfl
  | error e => exact (Bool.false_ne_true h).elim

theorem passErr_of {r : PassOut} (h : passIs r = false) : r = (.error (passErr r), r.2) := by
  obtain ⟨x, s⟩ := r
  cases x with
  | ok b => exact (Bool.false_ne_true h.symm).elim
  | error e => rfl

/-- The state in which the job of cluster 0 begins, and what its one member's pass makes of it. -/
def begun (s : State) (j : Job) : State := s.modJob 0 j.arrived (fun _ => { j with begun := true })
def pass1 (j : Job) (m : JMember) (s : State) : PassOut := passFor s 0 { j with begun := true } m

/-- A pass whose operand lies in a page that is not there, which holds a user gang's job while the fault queue is on, and one whose
operand lies beyond the scratchpad. -/
theorem test_wit_MatrixPassFails :
    (let j := { job0 with begun := true, members := job0.members.map (fun m => { m with recA := tImg (2 ^ 46) 0 128 0 1 32 0x02400000 }) }
     let s := (user (stJob (some 0) [j])).modPart 0 (fun P => { P with fq := { base := 0x90000, ctl := 0xC0000004, head := 0, tail := 0 } })
     ∃ m e s1, jobAt s 0 0 j ∧ j.members = [m] ∧ workable s 0 j ∧ s.spent (s.partOf m.team) 1 = false ∧ j.done < j.passes ∧
       (begun s j).crossHeld (s.partOf m.team) (fun z => (pass1 j m z).2) = false ∧
       pass1 j m (begun s j) = (.error e, s1) ∧ e.res = true ∧ s.canHold m.team = true) ∧
    (let j := { job0 with begun := true, members := job0.members.map (fun m => { m with recA := tImg 4096 0 128 0 1 32 0x06400000 }) }
     let s := stJob (some 0) [j]
     ∃ m e s1, jobAt s 0 0 j ∧ j.members = [m] ∧ workable s 0 j ∧ s.spent (s.partOf m.team) 1 = false ∧ j.done < j.passes ∧
       (begun s j).crossHeld (s.partOf m.team) (fun z => (pass1 j m z).2) = false ∧
       pass1 j m (begun s j) = (.error e, s1) ∧ e.res = false ∧ ∃ T, s1.teams[m.team]? = some T ∧ T.tok[m.tok.toNat].err = false) := by
  refine ⟨⟨_, _, _, ⟨by decide +kernel, rfl⟩, rfl, ?_, by decide +kernel, by decide +kernel, by decide +kernel,
    passErr_of (by decide +kernel), by decide +kernel, by decide +kernel⟩, _, _, _, ⟨by decide +kernel, rfl⟩, rfl, ?_, by decide +kernel,
    by decide +kernel, by decide +kernel, passErr_of (by decide +kernel), by decide +kernel, _, rfl, by decide +kernel⟩
  · unfold workable turnOf; decide +kernel
  · unfold workable turnOf; decide +kernel

/-- The first pass of the job, for one member and for a crew of two; a record that is refused; a job that is not released. -/
theorem test_wit_MatrixJobSteps :
    (let s := stJob (some 0) [job0]
     ∃ m f s1, jobAt s 0 0 job0 ∧ job0.members = [m] ∧ workable s 0 job0 ∧ s.spent (s.partOf m.team) 1 = false ∧ job0.done < job0.passes ∧
       (begun s job0).crossHeld (s.partOf m.team) (fun z => (pass1 job0 m z).2) = false ∧
       pass1 job0 m (begun s job0) = (.ok f, s1) ∧ jobAt s1 0 0 { job0 with begun := true, wbuf := [] }) ∧
    (let j := { job0 with members := job0.members ++ job0.members }
     let s := stJob (some 0) [j]
     let run (z : State) : PassOut := z.passOf 0 { j with begun := true } j.members j.done
     ∃ m f s1, jobAt s 0 0 j ∧ j.members.head? = some m ∧ workable s 0 j ∧ s.spent (s.partOf m.team) 1 = false ∧ j.done < j.passes ∧
       (begun s j).crossHeld (s.partOf m.team) (fun z => (run z).2) = false ∧
       run (begun s j) = (.ok f, s1) ∧ jobAt s1 0 0 { j with begun := true, wbuf := [] }) ∧
    (let j := { job0 with begun := false, members := job0.members.map (fun m => { m with recA := tImg 0 0 128 0 0 32 0x06400000 }) }
     let s := stJob (some 0) [j]
     jobAt s 0 0 j ∧ workable s 0 j ∧ j.begun = false ∧ (firstCheck j.checks).isSome ∧ s.teams[0]?.isSome ∧
       (s.team 0).tok[2].err = false) ∧
    (let j := { job0 with released := false }
     let s := stJob (some 0) [j]
     jobAt s 0 0 j ∧ j.failed = false ∧ j.hold = none ∧ (s.gang j.gang).phase = .resident) := by
  refine ⟨⟨_, _, _, ⟨by decide +kernel, rfl⟩, rfl, ?_, by decide +kernel, by decide +kernel, by decide +kernel, pass_of (by decide +kernel),
      by decide +kernel, rfl⟩, ⟨_, _, _, ⟨by decide +kernel, rfl⟩, rfl, ?_, by decide +kernel, by decide +kernel, by decide +kernel,
      pass_of (by decide +kernel), by decide +kernel, rfl⟩, ⟨⟨by decide +kernel, rfl⟩, ?_, rfl, by decide +kernel, rfl, by decide +kernel⟩,
    ⟨by decide +kernel, rfl⟩, rfl, rfl, by decide +kernel⟩
  · unfold workable turnOf; decide +kernel
  · unfold workable turnOf; decide +kernel
  · unfold workable turnOf; decide +kernel

/-! ### Results -/

/-- A read that went well and changed nothing but the record of touched lines. -/
def exOk {α : Type} (s : State) (r : Except JFail α × State) : Bool :=
  match r.1 with | .ok _ => decide (r.2 = { s with touched := r.2.touched }) | .error _ => false
def exVal {α : Type} (d : α) (r : Except JFail α × State) : α := match r.1 with | .ok x => x | .error _ => d

theorem ex_of {α : Type} {s : State} {r : Except JFail α × State} (d : α) (h : exOk s r = true) :
    r = (.ok (exVal d r), r.2) ∧ touchedOnly s r.2 := by
  obtain ⟨x, u⟩ := r
  cases x with
  | ok b => exact ⟨rfl, _, of_decide_eq_true h⟩
  | error e => exact (Bool.false_ne_true h).elim

/-- An element of a dense record without scales that lies in the scratchpad. -/
theorem elem_of {s : State} {t : TRec} {rc : Nat × Nat} (d : FV × Bool) (hs : tSpace t.b = 1) (ha : t.ahead = [])
    (hu : tScaled (tType t.b) = false) (h : exOk s (s.tLoad t rc) = true) : elemReads s t rc (exVal d (s.tLoad t rc)) := by
  have hr : ∀ a n, t.readAhead a n = none := fun a n => by simp [TRec.readAhead, ha]
  have hf (l : List (Nat × Nat)) : l.any (fun _ => false) = false := by simp
  have read (z : State) : z.tLoad t rc =
      match z.tFetch t 1 (tElemAt t.b rc.1 rc.2).1 ((tNib (tType t.b) + 1) / 2) with
      | (.ok bs, y) => (.ok (tValue (tType t.b) 0x7F (if tNib (tType t.b) = 1 then
          (if (tElemAt t.b rc.1 rc.2).2 then leNat bs / 16 else leNat bs % 16) else leNat bs), tScaleNan (tType t.b) 0x7F), y)
      | (.fail c r x, y) => (.error ⟨c, r, x, false, t.addr⟩, y) := by
    simp only [State.tLoad, State.tCode, State.tRead, State.tNow, State.tScale, hr, hs, hu, Option.isSome_none, hf,
      Bool.not_false, if_true, Bool.false_eq_true, if_false]
    cases z.tFetch t 1 (tElemAt t.b rc.1 rc.2).1 ((tNib (tType t.b) + 1) / 2) with
    | mk o y => cases o <;> rfl
  rintro z ⟨l, rfl⟩
  have same : ∀ a n, ({ s with touched := l } : State).tFetch t 1 a n =
      if s.spadBytes t.gang < a.toNat + n then (.fail .scratchRange false a, { s with touched := l })
      else if s.isBad 2 t.gang a.toNat n then
        (.fail .deviceError false a, ({ s with touched := l } : State).metBad t.part 2 (dieOfCluster t.clu) 0 a.toNat (some t.team))
      else (.ok ((s.gang t.gang).spad.readN a.toNat n), { s with touched := (.bank t.gang, a.toNat, n) :: l }) := fun _ _ => rfl
  have here : ∀ a n, s.tFetch t 1 a n =
      if s.spadBytes t.gang < a.toNat + n then (.fail .scratchRange false a, s)
      else if s.isBad 2 t.gang a.toNat n then
        (.fail .deviceError false a, s.metBad t.part 2 (dieOfCluster t.clu) 0 a.toNat (some t.team))
      else (.ok ((s.gang t.gang).spad.readN a.toNat n), { s with touched := (.bank t.gang, a.toNat, n) :: s.touched }) := fun _ _ => rfl
  rw [read, here] at h
  rw [read, read, here, same]
  split at h
  · rename_i h1
    by_cases c1 : s.spadBytes t.gang < (tElemAt t.b rc.1 rc.2).1.toNat + (tNib (tType t.b) + 1) / 2
    · rw [if_pos c1] at h1; cases h1
    · by_cases c2 : s.isBad 2 t.gang (tElemAt t.b rc.1 rc.2).1.toNat ((tNib (tType t.b) + 1) / 2) = true
      · rw [if_neg c1, if_pos c2] at h1; cases h1
      · rw [if_neg c1, if_neg c2] at h1
        cases h1
        rw [if_neg c1, if_neg c2]
        exact ⟨_, ⟨_, rfl⟩, rfl⟩
  · exact (Bool.false_ne_true h).elim

def tF : TRec := ⟨0, 0, 0, 0x50000, f32Img, 0, 5, [], false⟩
/-- A cell of the region with an uncorrectable error. -/
theorem test_wit_badCell :
    let s : State := { stJob (some 0) [job0] with bad := { unit := 5, inst := 0, lo := accAddr 0 255 0xE0, len := 4 } :: [] }
    tF.clu < 72 ∧ (s.cluster tF.clu).acc.wf = true ∧
      (∃ R K s1, s.mmaBlocks tF tF false (tRows tF.b) (tRows tF.b) 0 = (.ok (R, K), s1) ∧ touchedOnly s s1) ∧ scRow 0x0000FFE0 + tRows tF.b ≤ 256 ∧
      scCol 0x0000FFE0 + tRows tF.b ≤ 256 ∧ ¬((0 : Nat) = 0 ∧ scBit 0x0000FFE0 = true) ∧
      ∃ r < tRows tF.b, s.isBad 5 tF.clu (accAddr (scAcc 0x0000FFE0) (scRow 0x0000FFE0 + r) (scCol 0x0000FFE0)) (tRows tF.b * 4) = true :=
  ⟨by decide +kernel, by decide +kernel, ⟨_, _, _, ex_of ([], []) (by decide +kernel)⟩, by decide +kernel, by decide +kernel,
    by decide +kernel, by decide +kernel⟩

def tM : TRec := ⟨0, 0, 0, 0x50000, mxImg, 0, 5, [], false⟩

/-- Each kind of pass on one row, with the region at the far corner of its accumulator. -/
theorem test_wit_MatrixResults :
    let s := stJob (some 0) [job0]
    let sc : Word := 0x0000FFE0
    (s.bad = [] ∧ tF.clu < 72 ∧ (s.cluster tF.clu).acc.wf = true ∧
      (∃ R K s1, s.mmaBlocks tF tF false (tRows tF.b) (tRows tF.b) 0 = (.ok (R, K), s1) ∧ touchedOnly s s1) ∧
      scRow sc + tRows tF.b ≤ 256 ∧ scCol 0x0000FFFF + tRows tF.b ≤ 256) ∧
    (inSpad s tF ∧ tScaled (tType tF.b) = false ∧ (s.cluster tF.clu).bstore.wf = true) ∧
    (∃ val : Nat → Nat → FV × Bool, (∀ r ∈ groupRows (tRows tF.b) 0, ∀ c < tCols tF.b, elemReads s tF (r, c) (val r c)) ∧
      scCol sc + tCols tF.b ≤ 256) ∧
    (tType tF.b = 9 ∧ (s.gang tF.gang).live = []) ∧
    (inSpad s tM ∧ tType tM.b ∈ [0, 1] ∧ tAxis tM.b = 0 ∧ tCols tM.b % 32 = 0 ∧ tCols tF.b = tCols tM.b ∧ tRows tF.b = tRows tM.b ∧
      (s.gang tM.gang).live = [] ∧ tCols tM.b / 32 ≤ tSstride tM.b ∧
      (tBase tM.b).toNat + tRows tM.b * tRstride tM.b ≤ (tSbase tM.b).toNat ∧
      (tSbase tM.b).toNat + tRows tM.b * tSstride tM.b ≤ s.spadBytes tM.gang) := by
  have hl : ∀ r ∈ groupRows (tRows tF.b) 0, ∀ c < tCols tF.b,
      exOk (stJob (some 0) [job0]) ((stJob (some 0) [job0]).tLoad tF (r, c)) = true := by decide +kernel
  refine ⟨⟨rfl, by decide +kernel, by decide +kernel, ⟨_, _, _, ex_of ([], []) (by decide +kernel)⟩,
    by decide +kernel, by decide +kernel⟩, ⟨?_, by decide +kernel, by decide +kernel⟩,
    ⟨fun r c => exVal (.nan false, false) ((stJob (some 0) [job0]).tLoad tF (r, c)), fun r hr c hc => elem_of _ (by decide +kernel) rfl (by decide +kernel) (hl r hr c hc), by decide +kernel⟩,
    ⟨by decide +kernel, by decide +kernel⟩, ?_, by decide +kernel, by decide +kernel, by decide +kernel, by decide +kernel,
    by decide +kernel, by decide +kernel, by decide +kernel, by decide +kernel, by decide +kernel⟩
  all_goals (unfold inSpad; decide +kernel)

/-- An apply that has begun, of two records of one entry each, of which the first is done. -/
def rec0 (n : Word) : SRec := { lseq := 0, tid := 0, sseq := n, lane := 0, ents := (15, 0x3F800000) :: [], x := 0x40000000 :: [] }
def apply0 (ov : Bool) (begun : Bool) : Apply :=
  { steep := 5, recs := rec0 0 :: rec0 1 :: [], begun := begun, count := 2, overflow := ov, fault := none, oldest := 0, pre := 0 :: [],
    pos := 1, headerDue := false }

/-- The close of team 0 of launch 0, at the head of its queue. -/
def closeEnt : Entry :=
  { id := 1, owner := .s 0, team := some 0, part := 0, die := 0, dest := .home 0, addr := 0, va := 0, op := .close 0 0 0 0,
    ret := .none, lane := none, rpage := none }

/-- The only member closes, while an earlier steep is being applied and while none is; a second member has not closed. -/
theorem test_wit_SteepCloses :
    (let s : State := { stCad T0 { cad with apply := some (apply0 false true) } with fwd := closeEnt :: [] }
     ∃ S c, s.caddySets[(0 : Nat)]? = some S ∧ S.caddies[(0 : Nat)]? = some c ∧ s.headOf 0 = some closeEnt ∧ c.apply.isSome = true ∧
       S.created = true ∧ shares s S c.circle (0, 0) ∧ ∀ q, shares s S c.circle q → q ∈ c.closers ∨ q = (0, 0)) ∧
    (let s : State := { (stCad T0 cad).modLaunch 0 (fun L => { L with
       circles := { members := 0 :: 1 :: [], arrived := [], phase := 0 } :: [] }) with fwd := closeEnt :: [] }
     ∃ S, s.caddySets[(0 : Nat)]? = some S ∧ S.caddies[(0 : Nat)]? = some cad ∧ s.headOf 0 = some closeEnt ∧
       (cad.apply = none → cad.later = []) ∧ shares s S cad.circle (0, 1) ∧ ¬((0, 1) ∈ cad.closers ∨ ((0, 1) : Nat × Nat) = (0, 0))) := by
  refine ⟨⟨_, _, rfl, rfl, by decide +kernel, rfl, rfl, ⟨by decide +kernel, by decide +kernel, _, rfl, by decide +kernel⟩, ?_⟩,
    _, rfl, rfl, by decide +kernel, fun _ => rfl, ⟨by decide +kernel, by decide +kernel, _, rfl, by decide +kernel⟩, by decide +kernel⟩
  rintro ⟨l, u⟩ ⟨h1, -, z, h2, h3⟩
  obtain rfl : l = 0 := List.mem_singleton.mp h1
  cases h2
  exact .inr (congrArg _ (List.mem_singleton.mp h3))

/-- A record of a steep with a place left, and the same with none, and one that a hold keeps from it. -/
theorem test_wit_recordArrives :
    let e : Entry := { closeEnt with owner := .l 0, op := .record 0 0 (rec0 0) }
    let s (c : Caddy) : State := { stCad T0 c with fwd := e :: [] }
    (let c := { cad with opened := true }
     ∃ S s1, (s c).caddySets[0]? = some S ∧ S.caddies[0]? = some c ∧ (s c).headOf 0 = some e ∧ c.made = true ∧ c.overflow = false ∧
       (s c).crossHeld S.part (fun z => (z.arriveRecord 0 0 (rec0 0)).getD z) = false ∧ c.count < c.segMax ∧ c.fault = none ∧
       (s c).unitWrite S.part none c.home (caddySrc 0 0) (c.recAddr c.openSteep c.recs.length) ((rec0 0).bytes c []) none = (.ok (), s1) ∧
       s1.fwd = (s c).fwd) ∧
    (let c := { cad with opened := true, count := 64 }
     ∃ S, (s c).caddySets[0]? = some S ∧ S.caddies[0]? = some c ∧ (s c).headOf 0 = some e ∧
       (s c).crossHeld S.part (fun z => (z.arriveRecord 0 0 (rec0 0)).getD z) = false ∧ c.segMax ≤ c.count ∧ (s c).recordHeld 0 0 = false) ∧
    (let c := { cad with opened := true, hold := some { cause := .page, addr := 0, write := true, exec := false, seq := none, res := none } }
     ∃ S, (s c).caddySets[0]? = some S ∧ S.caddies[0]? = some c ∧ (s c).headOf 0 = some e ∧
       (s c).crossHeld S.part (fun z => (z.arriveRecord 0 0 (rec0 0)).getD z) = false ∧ c.count < c.segMax ∧ c.fault = none) :=
  ⟨⟨_, _, rfl, rfl, by decide +kernel, rfl, rfl, by decide +kernel, by decide +kernel, rfl, uw_of (by decide +kernel), by decide +kernel⟩,
    ⟨_, rfl, rfl, by decide +kernel, by decide +kernel, by decide +kernel, by decide +kernel⟩,
    _, rfl, rfl, by decide +kernel, by decide +kernel, by decide +kernel, rfl⟩

/-- The page of the slots, in the L2 of the caddy's home. -/
def slotPage : Tlb := ⟨0, 0x80000, 0x10000, 0x80000, true, true, false, false, 0, [], false⟩

/-- An apply that goes on; one that begins, its records in canonical order, with the page of its slots cached; one with the OVERFLOW
mark; holds that are resolved FAIL and not resolved; a walk that keeps an apply waiting. -/
theorem test_wit_BlendUnit :
    (let c := { cad with apply := some (apply0 false true) }
     let s : State := { stCad T0 c with choice := 1 }
     ∃ S bs s1 s2, s.caddySets[0]? = some S ∧ S.caddies[0]? = some c ∧ c.hold = none ∧ (apply0 false true).overflow = false ∧
       (apply0 false true).fault = none ∧ inOrder (apply0 false true) (apply0 false true).recs ∧ mayApply s S 0 0 (apply0 false true) ∧
       applyAt c.d (apply0 false true).recs 1 = some (rec0 1, 0, 0) ∧
       (s.modCaddy 0 0 (fun c => { c with apply := some { apply0 false true with begun := true } })).lineHeld (fun z =>
         (z.applyOne 0 0 S.part c { apply0 false true with begun := true } (rec0 1, 0, 0)).1) = false ∧
       (s.modCaddy 0 0 (fun c => { c with apply := some { apply0 false true with begun := true } })).unitRead S.part none c.home
         (blendAt c (rec0 1) 0 0) 4 none = (.ok bs, s1) ∧
       s1.unitWrite S.part none c.home (caddySrc 0 0) (blendAt c (rec0 1) 0 0) (leBytes 4 (blended c (rec0 1) 0 0 bs).toNat) none =
         (.ok (), s2)) ∧
    (let a : Apply := { apply0 false false with recs := rec0 1 :: rec0 0 :: [], pre := [], pos := 0 }
     let c := { cad with apply := some a, walker := none }
     let s : State := { (stCad T0 c).modDie 0 (fun D => { D with l2 := slotPage :: [] }) with choice := 1 }
     ∃ S, s.caddySets[0]? = some S ∧ S.caddies[0]? = some c ∧ inOrder a (rec0 0 :: rec0 1 :: []) ∧ mayApply s S 0 0 a ∧
       applyAt c.d (rec0 0 :: rec0 1 :: []) 0 = some (rec0 0, 0, 0) ∧
       findTlb (s.die c.home).l2 S.part (blendAt c (rec0 0) 0 0) = some slotPage ∧ slotPage.permits { r := true } = true ∧
       slotPage.permits { w := true } = true ∧ slotPage.replica = false ∧ slotPage.away = false ∧ (blendAt c (rec0 0) 0 0).toNat % 4 = 0 ∧
       slotPage.pa (blendAt c (rec0 0) 0 0) < infoBase ∧ s.badMem (slotPage.pa (blendAt c (rec0 0) 0 0)) 4 = none ∧ s.mem.wf = true) ∧
    (let c := { cad with apply := some (apply0 true false), walker := none }
     let s := stCad T0 c
     let begun : Apply := { apply0 true false with begun := true }
     let s0 := s.modCaddy 0 0 (fun c => { c with apply := some begun })
     ∃ S s1, s.caddySets[0]? = some S ∧ S.caddies[0]? = some c ∧ mayApply s S 0 0 (apply0 true false) ∧ inOrder (apply0 true false) begun.recs ∧
       (∃ l ∈ S.launches, (s.launch l).phase ≠ .complete) ∧
       s0.unitWrite S.part none c.home (caddySrc 0 0) (c.segAddr 5) (segHeader 5 2 true none true) none = (.ok (), s1) ∧
       s0.lineHeld (fun z => (z.unitWrite S.part none c.home (caddySrc 0 0) (c.segAddr 5) (segHeader 5 2 true none true) none).2) = false) ∧
    (∀ r, let h : Hold := { cause := .page, addr := 0, write := true, exec := false, seq := some 0, res := r }
     let c := { cad with apply := some (apply0 false true), hold := some h }
     let s := stCad T0 c
     ∃ S, s.caddySets[0]? = some S ∧ S.caddies[0]? = some c ∧ c.holdOpen = false ∧ mayApply s S 0 0 (apply0 false true)) ∧
    (let c := { cad with apply := some (apply0 false false) }
     let s := stCad T0 c
     ∃ S, s.caddySets[0]? = some S ∧ S.caddies[0]? = some c ∧ ¬ mayApply s S 0 0 (apply0 false false)) := by
  refine ⟨⟨_, _, _, _, rfl, rfl, rfl, rfl, rfl, .inl ⟨rfl, rfl⟩, .inl rfl, by decide +kernel, by decide +kernel, uok_of (by decide +kernel),
      uw_of (by decide +kernel)⟩,
    ⟨_, rfl, rfl, .inr ⟨rfl, .swap _ _ _, ?_⟩, .inr ⟨by decide +kernel, by decide +kernel⟩, by decide +kernel, by decide +kernel,
      by decide +kernel, by decide +kernel, rfl, by decide +kernel, by decide +kernel, by decide +kernel, by decide +kernel,
      by decide +kernel⟩,
    ⟨_, _, rfl, rfl, .inr ⟨by decide +kernel, by decide +kernel⟩, .inr ⟨rfl, .refl _, ?_⟩, ⟨0, by decide +kernel, by decide +kernel⟩,
      uw_of (by decide +kernel), by decide +kernel⟩,
    fun r => ⟨_, rfl, rfl, rfl, .inl rfl⟩, ⟨_, rfl, rfl, ?_⟩⟩
  · unfold Claims.canonical; decide +kernel
  · unfold Claims.canonical; decide +kernel
  · rintro (h | ⟨h, -⟩)
    · exact absurd h (by decide)
    · exact absurd h (by decide +kernel)

/-- The hold of an S-stream that no entry has reported. -/
def newHold : Hold := { cause := .page, addr := 0x123000, write := true, exec := false, seq := none, res := none }

/-- A queue with room for one more entry, a full one, and one that is off. -/
theorem test_wit_FaultQueueEvents :
    let T : Team := { T0 with shold := some newHold }
    (let s := stFq T 15
     let P := s.part 0
     let d := P.place (P.fq.base.toNat + 64 * (P.fq.tail.toNat % 2 ^ P.fq.log)) 64
     (s.pendingHolds 0)[0]? = some (.s 0, newHold) ∧ s.teams[0]? = some T ∧ T.shold = some newHold ∧ P.fq.on = true ∧ P.fq.full = false ∧
       s.pcieHeld 0 d.1 = false ∧ isPlace s d.1 ∧ (memAt s d.1).wf = true) ∧
    ((stFq T 16).pendingHolds 0)[0]? = some (.s 0, newHold) ∧ ((stFq T 16).part 0).fq.full = true ∧
    ((st T).pendingHolds 0)[0]? = some (.s 0, newHold) ∧ ((st T).part 0).fq.on = false :=
  ⟨⟨by decide +kernel, rfl, rfl, by decide +kernel, by decide +kernel, by decide +kernel, .inl ⟨0, by decide +kernel⟩, by decide +kernel⟩, by decide +kernel,
    by decide +kernel, by decide +kernel, by decide +kernel⟩

/-- A sweep that has done nothing, one that waits for a load in flight, one whose accesses are performed. -/
def stSweep (w : Sweep) (fly : List Entry) : State :=
  { (st T0).modPart 0 (fun P => { P with sweeps := w :: [] }) with fwd := fly }

def homeEnt : Entry := { ent (.load 4) (.sreg 0 6 false) 0x50000 with dest := .home 0 }

theorem test_wit_ContextAndSweeps :
    (let w : Sweep := { team := some 0, va := 0x50000, removed := false, waits := [] }
     ((stSweep w []).part 0).sweeps[0]? = some w) ∧
    (let w : Sweep := { team := some 0, va := 0, removed := true, waits := 1 :: [] }
     ((stSweep w []).part 0).sweeps[0]? = some w ∧ w.waits.any (stSweep w []).isOut = false ∧
       w.waits.any (stSweep w (homeEnt :: [])).isOut = true) ∧
    (∀ room ∈ [100, 10 ^ 6],
     let loc : ImageLoc := { addr := 0x50000, software := false, reason := 1, waiter := none, slot := none, room := room, request := 0 }
     let s := (st T0).modGang 0 (fun G => { G with phase := .halting, image := some loc })
     s.gangs[0]?.isSome ∧ (s.gang 0).phase = .halting ∧ (s.gang 0).image = some loc ∧ (s.gang 0).cluster < 72 ∧ s.streamsRest 0 = true ∧
       (s.gang 0).killed = false ∧ s.lineHeld (fun z => z.writeImage 0 loc (s.imageBytes 0 0 1)) = false ∧
       (∀ x ∈ s.chainsOf 0, ∀ r ∈ x.2.recs, r.live = false ∧ r.hold = none) ∧ s.heldJob 0 = none ∧ s.imageReady 0 = true ∧
       (if room = 100 then loc.room < s.lastSize 0 else s.lastSize 0 ≤ loc.room)) ∧
    (let loc : ImageLoc := { addr := 0x50000, software := true, reason := 1, waiter := some 0, slot := none, room := 0, request := 0 }
     let T : Team := { T0 with wait := .ctx 1 }
     loc.waiter = some 0 ∧ (st T).teams[(0 : Nat)]? = some T ∧ T.wait = .ctx 1) ∧
    (let s := (st T0).modCluster 71 (fun k => { k with quarantine := (0, 1) :: [] })
     (s.cluster 71).quarantine[0]? = some (0, 1) ∧ (∀ l ∈ (s.cluster 71).channels.toList, ∀ k ∈ l, k.gang ≠ 0) ∧
       (∀ e ∈ s.arr, e.dest ≠ .bank 0) ∧ (s.gang 0).phase = .resident ∧
       ∃ e ∈ ({ s with arr := ent (.load 4) .none 0 :: [] } : State).arr, e.dest = .bank 0) :=
  ⟨by decide +kernel, ⟨by decide +kernel, by decide +kernel, by decide +kernel⟩,
   by decide +kernel, ⟨rfl, rfl, rfl⟩, by decide +kernel, by decide +kernel, by decide +kernel, rfl,
   _, .head _, rfl⟩

/-! ## States that meet the hypotheses: the distributor and the host's registers -/

/-- A machine with one accepted launch, of which no gang has been placed. -/
def stReady (d : Desc) : State :=
  { State.reset.placeCode false [] with
    launches := { Launch.blank with desc := d, phase := .ready, circles := .empty :: [] } :: [], gangs := [], teams := [] }

theorem dealt_alone (d : Desc) (h : 0 < d.gangs) :
    dealt (stReady d) 0 0 { Launch.blank with desc := d, phase := .ready, circles := .empty :: [] } := by
  refine ⟨rfl, ⟨rfl, .inl rfl, .inr h⟩, fun m M hm _ => ?_⟩
  cases m with
  | zero => cases hm; exact .inr ⟨rfl, Nat.le_refl 0⟩
  | succ n => cases hm

/-- A ring of 16 entries at 0x1000 in host memory with its last entry published, after rings that have none. -/
def stRing (bs : List Byte) : State :=
  let s := st T0
  { s.modPart 0 (fun P => { P with
      evbase := some 0x200000, rotation := 1, rings := P.rings.set 0 { base := 0x1000, ctl := 0x80000004, head := 15, tail := 16 } }) with
    hostMem := Memory.writeN [] (0x1000 + 128 * 15) bs }

/-- The gang that fits exactly: 32 teams of 16 slots on two cores, and all 1024 scratchpad units. -/
theorem test_wit_Distributor :
    (let d : Desc := { probeDesc with teams := 32, gsize := 32, span := 2, spad := 1024 }
     let s := stReady d
     (s.part 0).state = .ready ∧ dealt s 0 0 (s.launch 0) ∧ (s.launch 0).resumed = [] ∧ 0 < d.span ∧ (s.clustersOf 0).head? = some 0 ∧
       hasRoom s 0 (s.launch 0) 0) ∧
    (let d : Desc := { probeDesc with spad := 1025 }
     let s := stReady d
     dealt s 0 0 (s.launch 0) ∧ (∀ clu ∈ s.clustersOf 0, ¬ hasRoom s 0 (s.launch 0) clu) ∧ ∀ G ∈ s.gangs, G.phase ≠ .resident) ∧
    (∀ bs ∈ [descBytes 0, zeros 128],
      let s := stRing bs
      (s.part 0).state = .ready ∧ (s.part 0).evbase.isSome ∧ s.linkShut 0 = false ∧ s.destroying 0 = false ∧ (s.part 0).taking = none ∧ nextRing (s.part 0) 0 ∧
        s.hostMem.readN (0x1000 + 128 * 15) 128 = bs) ∧
    (descMalformed (descBytes 0) = false ∧ (Desc.ofBytes (descBytes 0)).caddies = 0 ∧ descMalformed (zeros 128) = true) ∧
    (let c : Completion := { lseq := 0, tag := 0, status := 1, queue := 0, done := some 5, launch := none, time := 0 }
     let s := (stRing []).modPart 0 (fun P => { P with
       comp := { base := 0x8000, ctl := 0x80000004, head := 0, tail := 15 }, compWait := c :: [] })
     (s.part 0).compWait = c :: [] ∧ (s.part 0).state ≠ .absent ∧ (s.part 0).comp.on = true ∧ (s.part 0).comp.full = false ∧
       s.linkShut 0 = false ∧ c.launch = none ∧ s.hostMem.wf = true) ∧
    ((st T0).period < ({ st T0 with time := 10000 } : State).time.toNat / 10000 ∧
      (∀ q < 8, ((st T0).part q).elWait = [] ∧ ((st T0).part q).doneWait = []) ∧
      ({ st T0 with time := 9999 } : State).time.toNat / 10000 ≤ (st T0).period) := by
  refine ⟨⟨by decide +kernel, dealt_alone _ (by decide), rfl, by decide +kernel, by decide +kernel, ?_⟩,
    ⟨dealt_alone _ (by decide), ?_, fun _ h => nomatch h⟩, ?_, by decide +kernel, by decide +kernel, by decide +kernel⟩
  · unfold hasRoom; decide +kernel
  · unfold hasRoom; decide +kernel
  · intro bs hb
    have h : ∀ bs ∈ [descBytes 0, zeros 128], ((stRing bs).part 0).state = .ready ∧ ((stRing bs).part 0).evbase.isSome ∧
        ((stRing bs).linkShut 0 = false ∧ (stRing bs).destroying 0 = false ∧ ((stRing bs).part 0).taking = none) ∧ (vget ((stRing bs).part 0).rings 0).published = true ∧ ((stRing bs).part 0).rotation = 1 ∧
        (∀ j < 63, (vget ((stRing bs).part 0).rings ((1 + j) % 64)).published = false) ∧
        (stRing bs).hostMem.readN (0x1000 + 128 * 15) 128 = bs := by decide +kernel
    obtain ⟨h1, h2, h3, h4, h5, h6, h7⟩ := h bs hb
    exact ⟨h1, h2, h3.1, h3.2.1, h3.2.2, ⟨63, by omega, by rw [h5], h4, by rw [h5]; exact h6⟩, h7⟩

/-- A saved gang whose launch resumes it. -/
def stResume : State :=
  (stSaved T0).modLaunch 1 (fun L => { L with resumed := 1 :: [], desc := { L.desc with span := 1, gsize := 1, w := 32 } })

/-- The same with what its image holds. -/
def stLoaded : State :=
  match stResume.imageOf 1 with
  | some img => stResume.loadImage 1 img
  | none => stResume

theorem test_wit_resumedDeal :
    let s := stResume
    let s1 : State := stLoaded
    (s.part 0).state = .ready ∧ dealt s 0 1 (s.launch 1) ∧ (s.launch 1).resumed = 1 :: [] ∧ 0 < (s.launch 1).desc.span ∧
      (s.clustersOf 0).head? = some 0 ∧ hasRoom s 1 (s.launch 1) 0 ∧ s.gangs[(1 : Nat)]?.isSome ∧ (s.gang 1).phase = .saved ∧
      (s.gang 1).launch = 1 ∧ (s.gang 1).unhandled = none ∧ (s.imageOf 1).isSome = true ∧
      ((s1.gang 1).killed = false ∧ (s1.teams[(1 : Nat)]?).any (fun T => T.gang == 1 && T.phase != .ended) = true) := by
  refine ⟨by decide +kernel, ⟨rfl, ⟨rfl, .inr rfl, .inl (by decide +kernel)⟩, ?_⟩, rfl, by decide +kernel, by decide +kernel, ?_, rfl,
    rfl, rfl, rfl, by decide +kernel, by decide +kernel⟩
  · intro m M hm h
    match m, hm with
    | 0, hm =>
      have h0 : ∀ M ∈ stResume.launches[0]?, M.resumed = [] ∧ M.desc.gangs ≤ M.nextGang := by decide +kernel
      rcases h.2.2 with h | h
      · exact absurd (h0 M hm).1 h
      · exact absurd h (Nat.not_lt.mpr (h0 M hm).2)
    | 1, hm => cases hm; exact .inr ⟨rfl, Nat.le_refl 1⟩
  · unfold hasRoom; decide +kernel

/-- A launch that a chain of one of its teams keeps from its record, and one of which nothing is left. -/

theorem test_wit_completions :
    (unfinished (stK (chain0 [])) 0) ∧ (st T0).writesDone 0 = true ∧ (st T0).destroying 0 = false :=
  ⟨.inr (.inl ⟨0, (chain0 []) :: [], chain0 [], by decide +kernel, by decide +kernel, by decide +kernel, by decide +kernel⟩),
    by decide +kernel, by decide +kernel⟩

/-! ### The host's registers -/

theorem okE_of {ε α : Type} {r : Except ε α} (h : r.toOption.isSome = true) : ∃ x, r = .ok x := by
  cases r with
  | ok x => exact ⟨x, rfl⟩
  | error e => cases h

/-- The first clause at an absent partition; a base in the partition's HBM4E; the first and the last event; a launch that waits; an
entry that software has marked FAIL; rings of the least and the greatest size; a ceiling above the fuse limit. -/
theorem test_wit_HostRegisters :
    (st T0).part 7 = .reset ∧
    (let P := (st T0).part 0
     P.state ≠ .absent ∧ P.evbase = none ∧ P.inHbm 0x200000 0x200000 = true) ∧
    (let s := stRing []
     (s.part 0).evbase ≠ none ∧ s.mem.wf = true ∧ (0xFFFFFF : Word).toNat ∉ (s.part 0).events ∧
       (0xFFFFFF : Word).toNat ∈ ((s.modPart 0 (fun P => { P with events := 0xFFFFFF :: [] })).part 0).events) ∧
    (let s := stReady { probeDesc with deps := some 0xFFFFFF :: [], tag := 7 }
     ∃ L, s.launches[0]? = some L ∧ L.part = 0 ∧ L.desc.tag = 7 ∧ L.nextGang = 0) ∧
    (let h := { newHold with seq := some 15 }
     let T : Team := { T0 with shold := some h }
     let s := (stFq T 16).modPart 0 (fun P => { P with fqOpen := ⟨15, .s 0, 0⟩ :: [] })
     let t := poke s (0x90000 + 64 * 15 + 0x0C) [1]
     let P := t.part 0
     let d := P.place (P.fq.base.toNat + 64 * ((15 : Word).toNat % 2 ^ P.fq.log)) 64
     P.doneWait = [] ∧ P.openOf 15 none = some ⟨15, .s 0, 0⟩ ∧ (t.gangOf 0).phase ≠ .removed ∧ t.fqdoneHeld 0 15 = false ∧ t.teams[0]? = some T ∧ T.shold = some h ∧
       h.res = none ∧ bitsOf (natAt (t.readAt 0 d.1 d.2 64) 0x0C 4) 1 0 = 1) ∧
    (let s := (stFq T0 16).modPart 0 (fun P => { P with
         fqOpen := ⟨15, .s 0, 0⟩ :: [], fq := { P.fq with base := BitVec.ofNat 64 hostBase }, grants := ⟨0, 0x10000, 0x10000, true, true⟩ :: [],
         budgets := vmod P.budgets 4 (fun b => { b with ceil := 1, used := 1 }) })
     (s.part 0).doneWait = [] ∧ ((s.part 0).openOf 15 none).isSome = true ∧ s.fqdoneHeld 0 15 = true) ∧
    (∃ Q, ((st T0).part 0).writePriv 0x011 ((0xC0000004 : Word).setWidth 64) = .ok Q) ∧
    (∃ Q, ((st T0).part 0).writePriv 0x019 ((0x80000010 : Word).setWidth 64) = .ok Q) ∧
    ctlTaken .reset 32 0x80000004 ∧ ctlTaken .reset 128 0x80000010 ∧ ¬ctlTaken .reset 32 0x80000003 ∧ ¬ctlTaken .reset 128 0x80000011 ∧
    ((st T0).stage = .ready ∧ (st T0).overdue = false ∧ (vget ((stReady probeDesc).part 0).budgets 5).fuse.toNat = 0xFFFFFFFF) := by
  refine ⟨by decide +kernel, by decide +kernel, by decide +kernel, ⟨_, rfl, rfl, rfl, rfl⟩,
    ⟨by decide +kernel, by decide +kernel, by decide +kernel, by decide +kernel, rfl, rfl, rfl, by decide +kernel⟩, by decide +kernel, okE_of (by decide +kernel), okE_of (by decide +kernel), ?_⟩
  unfold ctlTaken; decide +kernel

/-! ## States that meet the hypotheses: module commands, power, the fabric link -/

/-- A command block (18/R450): its OP and its arguments. -/
def cmdBlk (op : Nat) (args : List Byte) : List Byte := leBytes 4 op ++ zeros 4 ++ args ++ zeros (248 - args.length)

/-- Cratal holds a command block that it read at 0x4000. -/
def stCmd (s : State) (b : List Byte) : State := { s with cmd := some (0x4000, b), cmdBusy := true }

/-- A request block of `ctxsave` (15/R391) for gang 0 of launch 0. -/
def saveBlk : List Byte := leBytes 4 0 ++ leBytes 4 0 ++ leBytes 8 0x60000 ++ leBytes 4 0x40000000 ++ zeros 44

/-- A grant, a sweep without a team, the command begun. -/
def stPart0 (gs : List Grant) (ws : List Sweep) (begun : Bool) : State :=
  { (st T0).modPart 0 (fun P => { P with grants := gs, sweeps := ws }) with cmdBegun := begun }

def gr0 : Grant := { w := 0, host := 0, size := 65536, write := true, firmware := false }

/-- The doorbell with a bad address, an OP of 0 and of 10, and the last OP. -/
theorem test_wit_ModuleCommands_door :
    let s := st T0
    (s.cmdBusy = false ∧ s.powered = true ∧ s.stage = .ready ∧ s.thermal = false ∧ s.overdue = false ∧ s.hostMem.wf = true) ∧
    ({ s with time := 100000000 } : State).overdue = true ∧ (0x4080 : DWord).toNat % 256 ≠ 0 ∧ (0x4000 : DWord).toNat % 256 = 0 ∧
    (∀ op ∈ [0, 10, 9], let m : Memory := Memory.writeN [] 0x4000 (cmdBlk op [])
      m.wf = true ∧ natAt (m.readN 0x4000 256) 0 4 = op) ∧
    (∀ op ∈ [1, 2, 3, 4, 5, 6, 7, 8, 9], let b := cmdBlk op (zeros 0x77 ++ [1])
      commands (stCmd s b) 0x4000 b op ∧ (stCmd s b).cmdBegun = false ∧ (b[0x7F]?).getD 0 ≠ 0) := by
  refine ⟨by decide +kernel, by decide +kernel, by decide +kernel, by decide +kernel, by decide +kernel, ?_⟩
  unfold commands; decide +kernel

/-- PCREATE of partition 7 on the last four dies, and on dies that are taken; PDESTROY. -/
theorem test_wit_ModuleCommands_parts :
    (let b := cmdBlk 1 (leBytes 4 7 ++ leBytes 4 0x404 ++ leBytes 4 1)
     let s := stCmd (st T0) b
     commands s 0x4000 b 1 ∧ argsOk b [(8, 12)] = true ∧ natAt b 8 4 = 7 ∧ natAt b 0xC 4 = 4 * 256 + 4 ∧ natAt b 0x10 4 = 1 ∧
       (s.part 7).state = .absent ∧ (∀ d < 8, 4 ≤ d → d < 4 + 4 → s.partOfDie d = none) ∧ s.mem.wf = true) ∧
    (let b := cmdBlk 1 (leBytes 4 7 ++ leBytes 4 0x008 ++ leBytes 4 1)
     let s := stCmd (st T0) b
     commands s 0x4000 b 1 ∧ argsOk b [(8, 12)] = true ∧ s.partOfDie 0 ≠ none) ∧
    (let b := cmdBlk 2 (leBytes 4 0)
     let s := stCmd (st T0) b
     commands s 0x4000 b 2 ∧ argsOk b [(8, 4)] = true ∧ argPart b = 0 ∧ (s.part 0).state ≠ .absent ∧ s.cmdBegun = false) ∧
    (let b := cmdBlk 2 (leBytes 4 0)
     let s := stCmd (stPart0 [] [] true) b
     commands s 0x4000 b 2 ∧ s.cmdBegun = true ∧ s.flight = [] ∧ (s.part 0).compWait = [] ∧
       ∀ c < 72, (s.cluster c).jobs = [] ∧ ∀ q ∈ (s.cluster c).channels.toList, q = []) ∧
    ((stJob none [job0]).cluster 0).jobs ≠ [] := by
  unfold commands; refine ⟨?_, ?_, ?_, ?_, ?_⟩ <;> decide +kernel

/-- A grant next to another and one that meets it; a revocation, before its sweep and after. -/
theorem test_wit_ModuleCommands_grants :
    (let b := cmdBlk 3 (leBytes 8 0 ++ leBytes 8 0x10000 ++ leBytes 8 0 ++ leBytes 8 0x10000 ++ leBytes 4 3)
     let s := stCmd (stPart0 [gr0] [] false) b
     commands s 0x4000 b 3 ∧ argsOk b [(8, 4), (0x10, 0x1C)] = true ∧ natAt b 0x10 8 = 0x10000 ∧ natAt b 0x20 8 = 0x10000 ∧
       natAt b 0x28 4 = 3 ∧ 0x10000 + 0x10000 ≤ hostWindow ∧
       (∀ g ∈ (s.part 0).grants, overlaps g.w g.size 0x10000 0x10000 = false) ∧
       ∃ g ∈ (s.part 0).grants, overlaps g.w g.size 0 0x10000 = true) ∧
    (let b := cmdBlk 4 (leBytes 8 0 ++ leBytes 8 0 ++ leBytes 8 0 ++ leBytes 8 0x10000)
     argsOk b [(8, 4), (0x10, 8), (0x20, 8)] = true ∧ commands (stCmd (stPart0 [gr0] [] false) b) 0x4000 b 4 ∧
       (stCmd (stPart0 [gr0] [] false) b).cmdBegun = false ∧ commands (stCmd (stPart0 [] [] true) b) 0x4000 b 4 ∧
       (stCmd (stPart0 [] [] true) b).cmdBegun = true ∧ (∀ w ∈ ((stCmd (stPart0 [] [] true) b).part 0).sweeps, w.team ≠ none) ∧
       ∃ w ∈ ((stPart0 [] [⟨none, 0, false, []⟩] true).part 0).sweeps, w.team = none) ∧
    (let b := cmdBlk 4 (leBytes 8 0 ++ leBytes 8 4096 ++ leBytes 8 0 ++ leBytes 8 0x10000)
     commands (stCmd (stPart0 [gr0] [] false) b) 0x4000 b 4 ∧ argsOk b [(8, 4), (0x10, 8), (0x20, 8)] = true ∧
       ¬(natAt b 0x10 8 % 65536 = 0)) := by
  unfold commands
  refine ⟨⟨?_, ?_, ?_, ?_, ?_, ?_, ?_, gr0, .head _, ?_⟩, ⟨?_, ?_, ?_, ?_, ?_, ?_, _, .head _, rfl⟩, ?_, ?_, ?_⟩ <;> decide +kernel

/-- A page of the partition that lies in the host window, granted to firmware, and the request block in it. -/
def firmPage : Tlb := ⟨0, 0x50000, 0x10000, hostBase, true, true, false, false, 0, [], false⟩
def stFirm (blk : List Byte) (firm : Bool) : State :=
  { (stPart0 [{ gr0 with host := 0x100000, firmware := firm }] [] false).modDie 0 (fun D => { D with l2 := firmPage :: [] }) with
    hostMem := Memory.writeN [] 0x100000 blk }

def saveCmd : List Byte := cmdBlk 6 (leBytes 8 0 ++ leBytes 8 0x50000)

def splitOk (r : UOut (List (Nat × Nat × Tlb)) × State) : Bool := match r.1 with | .ok _ => true | .fail _ _ _ => false

theorem split_of {r : UOut (List (Nat × Nat × Tlb)) × State} (h : splitOk r = true) : ∃ l, r = (.ok l, r.2) := by
  obtain ⟨x, s⟩ := r
  cases x with
  | ok b => exact ⟨b, rfl⟩
  | fail c k a => exact (Bool.false_ne_true h).elim

/-- KILL of gang 0 of launch 0, and of a launch that is not there; SAVE of gang 0, of a gang that is not there, of a block that
Cratal does not reach, of a misaligned block, and once the image is written. -/
theorem test_wit_ModuleCommands_gangs :
    (let b := cmdBlk 5 (leBytes 8 0 ++ leBytes 4 0 ++ leBytes 4 0)
     let s := stCmd (st T0) b
     commands s 0x4000 b 5 ∧ argsOk b [(8, 4), (0x10, 8)] = true ∧ s.launchBySeq 0 (wordAt b 0x10) = some 0 ∧
       s.gangBy 0 (natAt b 0x14 4) (fun h => h == .resident || h == .halting || h == .saved) = some 0) ∧
    (let b := cmdBlk 5 (leBytes 8 0 ++ leBytes 4 9 ++ leBytes 4 0)
     commands (stCmd (st T0) b) 0x4000 b 5 ∧ (stCmd (st T0) b).launchBySeq 0 (wordAt b 0x10) = none) ∧
    (∀ gang : Bool,
     let s := stCmd (stFirm (if gang then saveBlk else leBytes 4 9 ++ zeros 60) true) saveCmd
     ∃ l s0 blk s1, commands s 0x4000 saveCmd 6 ∧ argsOk saveCmd [(8, 4), (0x10, 8)] = true ∧ s.cmdBegun = false ∧
       (dwordAt saveCmd 0x10).toNat % 64 = 0 ∧
       s.unitSplit 0 none (s.part 0).dieFirst (dwordAt saveCmd 0x10) 64 { r := true, w := true } none = (.ok l, s0) ∧
       s.cratalReaches 0 (s.part 0).dieFirst (dwordAt saveCmd 0x10) 64 = true ∧ s.linkShut 0 = false ∧
       s.unitRead 0 none (s.part 0).dieFirst (dwordAt saveCmd 0x10) 64 none = (.ok blk, s1) ∧ (s1.saveReq 0 blk).ok = true ∧
       (s1.saveReq 0 blk).gang = (if gang then some 0 else none) ∧
       ∃ s2, s1.unitWrite 0 none (s.part 0).dieFirst 0 (dwordAt saveCmd 0x10 + 0x14) (leBytes 4 1 ++ leBytes 4 0) none = (.ok (), s2) ∧
         s2.hostMem.wf = true) ∧
    (stCmd (stFirm saveBlk false) saveCmd).cratalReaches 0 0 (dwordAt saveCmd 0x10) 64 = false ∧
    (dwordAt (cmdBlk 6 (leBytes 8 0 ++ leBytes 8 0x50020)) 0x10).toNat % 64 ≠ 0 ∧
    (let s := stCmd (stPart0 [] [] true) saveCmd
     commands s 0x4000 saveCmd 6 ∧ s.cmdBegun = true ∧ s.saving 0 = false) := by
  unfold commands
  have hs : ∀ gang : Bool, splitOk ((stCmd (stFirm (if gang then saveBlk else leBytes 4 9 ++ zeros 60) true) saveCmd).unitSplit 0 none
      ((stCmd (stFirm (if gang then saveBlk else leBytes 4 9 ++ zeros 60) true) saveCmd).part 0).dieFirst (dwordAt saveCmd 0x10) 64
      { r := true, w := true } none) = true := by decide +kernel
  refine ⟨by decide +kernel, by decide +kernel, fun gang => ?_, by decide +kernel, by decide +kernel, by decide +kernel⟩
  obtain ⟨l, hl⟩ := split_of (hs gang)
  cases gang
  all_goals
    exact ⟨l, _, _, _, by decide +kernel, by decide +kernel, by decide +kernel, by decide +kernel, hl, by decide +kernel, by decide +kernel,
      uok_of (by decide +kernel), by decide +kernel, by decide +kernel, _, uw_of (by decide +kernel), by decide +kernel⟩

/-- STATESYNC, QUOTE, and PEERWIN of the last port with no bytes and with bytes of another die. -/
theorem test_wit_ModuleCommands_areas :
    (let b := cmdBlk 7 (leBytes 8 0x8000)
     commands (stCmd (st T0) b) 0x4000 b 7 ∧ argsOk b [(8, 8)] = true ∧ natAt b 8 8 % 64 = 0) ∧
    (let b := cmdBlk 8 (zeros 64 ++ leBytes 8 0x8000)
     commands (stCmd (st T0) b) 0x4000 b 8 ∧ argsOk b [(8, 72)] = true) ∧
    (let b := cmdBlk 9 (leBytes 4 15 ++ leBytes 4 0 ++ leBytes 8 0 ++ leBytes 8 0x1000)
     let s := stCmd (st T0) b
     commands s 0x4000 b 9 ∧ argsOk b [(8, 24)] = true ∧ natAt b 8 4 = 15 ∧ natAt b 0xC 4 = 0 ∧ natAt b 0x10 8 = 0 ∧
       natAt b 0x18 8 = 0x1000 ∧ (s.part 0).state ≠ .absent ∧ (s.part 0).inHbm 0 0x1000 = true ∧
       (s.part 0).inHbm (2 ^ 52 - 0x1000) 0x1000 = false) := by
  unfold commands; refine ⟨?_, ?_, ?_⟩ <;> decide +kernel

/-! ### Power and errors -/

/-- A public key and its signature of the bytes of "abc", made with OpenSSL: RSASSA-PSS with SHA-512, MGF1 with SHA-512 and a salt of
64 bytes. -/
def key0 : List Byte := beBytes 512 0xCF5B2FE7D52E83ED658985DA227F1302E0B8682808D888D709CD0B75F8F88F1FD83879D2664B1E92FAD3A043BE90C32CF94ABDF24367960A669C439DD234D3DF25506DA1DCE9E1417E6754FD271E456BE7EF421C5D80580BE7BB3B9EF3E671724A56AC2E2F7444C125EF2904708F8C5FED84D7A4374051A52F38D98406857A31A3FBBBB34550F86447E3FC9216A76798155C5B8B2F4106172AEF0CDAFBF5721267511F30882CDB1034C49B3C99E6754ECB4AC74D5A533C6AE336ECEF79969FBF7DB22981A58A4508E48C784D2EF9C25146739EC9F99611DBAB62A3A7868A0DB6C9605DA1DDCE2C17FE61E45FB0ECC0DAD19E297DDE7257A45E890526E78037791678D8F2F5748CCD790442F8FCBE192C6EA7611DDD29F98B39646DE3463EA457524CC715E503F8A5681AA61E9106361169DB381031FE7679E7B0EEB8E3B7BD52A153785FB2F7FD60F418D23D27DE6CCECE3CAA6DF764B3012D9DEAEF90B6BDF1868DACE18EF26A78E3AD1E3D253DC2719ECC64BED817DD68BDA51682E89FB65496641EAF80C85E04B5567D520174F85B7FCE00BDB8ADE515A286D553CF1E2B26DFBD7994CAAFD217DA47B51F219B2BFC05226D5B43A764B44CBBB40852BA05A6D4396D51A4ADECD4A55E15F389FF82B08623C02510F86F89AABA0C62CD1170C6789364E214A6BB4A3F84B413F580831E979448F38EF7A9D26AFAF20C221543E5 ++ [1, 0, 1]
def sig0 : List Byte := beBytes 512 0xA9463A33F68811E57A79E297501386554B578FE2312E7856ACE28C3C49FFF68BBE5D88E64436BC8F81C844C91CE041EA0C2F001E7E840E4F6B27C1089C5DAE43B9A9727A7DE759F4FC51943796219585C13EA72FBAF3B3975EBAD7161E74471946940DA0E520D4B131FF5F78A62C258D5040FD4407F7C948C89FA00213766CF25801F2F36660158A89269CC23FE03C34E5CFE59990042B3F3EC442780A78A698AE1560B7C963271CF4D6D58BE97B85A2621C0DBAC52D2CB0869A9FAFE91132BCCDD508BF6EC7BF2A0F784125A3CA31CD7BE6E0A1F73BC37399686D3DDBFFAFE941678F4AD2927C32BDDBDFEC32567558DC0C99EFB8523AEF91A09F3CDAAC0FEC0E7AC96313A9F281C6D0309D07DD84DD237E3CC18137E19EDEAF6387694C45676F1E8310672ADE09E5787E824CFACA16C76DE0B676ADD3AA0B0209D55B59FBB5C3AF32A84C1CAB77FBDD8B8A2FD5D13945C289FBED08240C4D402EB3C111D3B6142F3A4D6D7E4E9FF65FDCB548B31174FA942E7620C5A10B48895E04F6EEA2D4A336869412B398A1966F8FA03FC6972CED7B3F988EF7DA3554A44530E1BC90D86C8893627CDAA0D1B9D8F486C6B0353D2326EDB8EC53FD8263C2BB2971FEDCC09C47E5CE56B3317210C9F4EBED24C19A8559D5C45ED4622B84955B5870060C009B8AB3D7672F6184C4E1B2E35471BBA28FC3C767C50EB806E5E9508E928F02C9

theorem test_rsaPss : rsaPssVerify key0 [0x61, 0x62, 0x63] sig0 = true := by decide +kernel

/-- An image that the fused key has signed, at a machine in RESET; a signature of the wrong length is refused. -/
theorem test_wit_boot :
    (let s : State := { State.reset with keyFuse := digest key0 }
     accepted s [0x61, 0x62, 0x63] sig0 key0 ∧ s.powered = true ∧ s.stage = .reset) ∧
    ¬ accepted State.reset [] [] [] := by
  refine ⟨⟨⟨rfl, test_rsaPss⟩, rfl, rfl⟩, fun h => ?_⟩
  have h2 := h.2
  exact absurd h2 (by decide +kernel)

/-- A doorbell that waits while the watchdog has run out, at a machine with a fused key. -/
theorem test_wit_doorbellWaits :
    let s : State := { st T0 with keyFuse := digest key0, time := 100000000, cmdBusy := true, cmdWait := some (0x4000, .written) }
    s.stage = .ready ∧ 100000000 ≤ (s.time - s.wdTime).toNat ∧ s.powered = true ∧ s.thermal = false ∧
      accepted s [0x61, 0x62, 0x63] sig0 key0 ∧ s.cmdWait = some (0x4000, .written) :=
  ⟨by decide +kernel, by decide +kernel, by decide +kernel, by decide +kernel, ⟨rfl, test_rsaPss⟩, rfl⟩

/-- A machine at which 100 ms have passed since the last watchdog write, and one at which a nanosecond lacks; a bad unit of die 0. -/
theorem test_wit_PowerAndErrors :
    (let s : State := { State.reset with powered := false }
     s.powered = false) ∧
    (State.reset.powered = true ∧ State.reset.stage = .reset) ∧
    ((st T0).stage = .ready ∧ 100000000 ≤ (({ st T0 with time := 100000000 } : State).time - (st T0).wdTime).toNat ∧
      (({ st T0 with time := 99999999 } : State).time - (st T0).wdTime).toNat < 100000000) ∧
    ((st T0).powered = true ∧ (st T0).thermal = false ∧ ((st T0).part 0).state = .ready) ∧
    (let b : BadUnit := { unit := 0, inst := 0, lo := 0x50000, len := 32 }
     let s : State := { st T0 with bad := b :: [] }
     let t := s.modPart 0 (fun P => { P with el := { base := 0x90000, ctl := 0x80000004, head := 0, tail := 15 } })
     let E := (t.part 0).el
     let d := (t.part 0).place (E.base.toNat + 64 * (E.tail.toNat % 2 ^ E.log)) 64
     s.bad[0]? = some b ∧ s.badDie b = 0 ∧ s.partOfDie 0 = some 0 ∧ (s.part 0).el.on = false ∧ t.bad[0]? = some b ∧ t.partOfDie 0 = some 0 ∧
       (t.part 0).el.on = true ∧ (t.part 0).el.full = false ∧ (t.part 0).elWait = [] ∧ t.errorHeld 0 = false ∧ d.1 = .home 0 ∧ (memAt t d.1).wf = true) := by
  refine ⟨rfl, ⟨rfl, rfl⟩, ?_, ?_, ?_⟩ <;> decide +kernel

/-! ### The fabric link -/

/-- A WRITE of 4 bytes to node 0, from node 3 with tag 7, at an address; and a REDUCE that adds 4 bytes. -/
def wrMsg (node pa : Nat) : List (List Byte) :=
  msgHeader 1 1 3 3 0 7 :: slot16 (leBytes 8 (node * 2 ^ 58 + pa)) :: slot16 [1, 2, 3, 4] :: []
def redMsg : List (List Byte) := msgHeader 2 1 0 3 0 7 :: slot16 (leBytes 8 0x50000) :: slot16 [1, 0, 0, 0] :: []

/-- The first 248 bytes of a flit with its number and some slots; and the flit, with their CRC. -/
def flitBody (seq : Nat) (slots : List Byte) : List Byte :=
  leBytes 2 seq ++ leBytes 2 0 ++ leBytes 2 0 ++ leBytes 2 0 ++ slots ++ zeros (240 - slots.length)
def flitOf (b : List Byte) : BitVec 2048 := BitVec.ofNat 2048 (leNat (b ++ w64le (crc64 b)))

theorem intact_of {b : List Byte} (h : b.length = 248) (hk : natAt b 0 2 / 2 ^ 12 < 2) :
    intact (flitOf b) (leBytes 256 (flitOf b).toNat) ∧
      (∀ off n, off + n ≤ 248 → bytesAt (leBytes 256 (flitOf b).toNat) off n = bytesAt b off n) := by
  obtain ⟨h1, h2⟩ := crc_flit b h
  have h3 : ∀ off n, off + n ≤ 248 → bytesAt (leBytes 256 (flitOf b).toNat) off n = bytesAt b off n := fun off n hn => by
    unfold flitOf; rw [h1]; exact bytesAt_append _ _ _ _ (by omega)
  exact ⟨⟨rfl, h2, by unfold natAt; rw [h3 0 2 (by omega)]; exact hk⟩, h3⟩

/-- The last port is up and has a window of partition 0. -/
def stGfl (f : Port → Port) : State :=
  (st T0).modPort 15 (fun P => f { P with up := true, partner := 3, winPart := 0, winBase := 0x50000, winSize := 4, rxNext := 5 })

theorem test_wit_GflLink_flits :
    (let b := flitBody 5 ((wrMsg 0 0x50000).flatMap id)
     let f := flitOf b
     let bs := leBytes 256 f.toNat
     intact f bs ∧ bytesAt bs 0 2 = bytesAt b 0 2 ∧ bytesAt bs 8 240 = bytesAt b 8 240 ∧ ((stGfl id).port 15).up = true ∧
       natAt b 0 2 = ((stGfl id).port 15).rxNext.toNat ∧ (parseSlots 15 (slotsOf 15 (bytesAt b 8 240))).2.2 = none ∧
       (parseSlots 15 (slotsOf 15 (bytesAt b 8 240))).1.length = 1) ∧
    (let b := flitBody 5 ((wrMsg 0 0x50000).flatMap id ++ slot16 [9])
     let f := flitOf b
     let bs := leBytes 256 f.toNat
     intact f bs ∧ bytesAt bs 0 2 = bytesAt b 0 2 ∧ bytesAt bs 8 240 = bytesAt b 8 240 ∧
       (parseSlots 15 (slotsOf 15 (bytesAt b 8 240))).2.2.isSome = true) ∧
    (let bs := leBytes 256 (6 : BitVec 2048).toNat
     natAt bs 0 2 < 2 ^ 12 ∧ natAt bs 0 2 ≠ ((stGfl id).port 15).rxNext.toNat) ∧
    (¬ intact 0x2000 (leBytes 256 (0x2000 : BitVec 2048).toNat)) ∧
    (let b := flitBody 0x1000 []
     let bs := leBytes 256 (flitOf b).toNat
     intact (flitOf b) bs ∧ bytesAt bs 0 2 = bytesAt b 0 2 ∧ natAt b 0 2 / 2 ^ 12 = 1) := by
  have h1 := intact_of (b := flitBody 5 ((wrMsg 0 0x50000).flatMap id)) (by decide +kernel) (by decide +kernel)
  have h3 := intact_of (b := flitBody 5 ((wrMsg 0 0x50000).flatMap id ++ slot16 [9])) (by decide +kernel) (by decide +kernel)
  have h2 := intact_of (b := flitBody 0x1000 []) (by decide +kernel) (by decide +kernel)
  refine ⟨⟨h1.1, h1.2 0 2 (by omega), h1.2 8 240 (by omega), by decide +kernel, by decide +kernel, by decide +kernel, by decide +kernel⟩,
    ⟨h3.1, h3.2 0 2 (by omega), h3.2 8 240 (by omega), by decide +kernel⟩, by decide +kernel, fun h => absurd h.2.2 (by decide +kernel), h2.1, h2.2 0 2 (by omega), by decide +kernel⟩

/-- A write that lies in the window, one a byte past it, one to another node, one to a partition that is not READY; a reduction. -/
theorem test_wit_GflLink_requests :
    (∀ m ∈ [wrMsg 0 0x50000, wrMsg 0 0x50001, wrMsg 1 0x50000], headerOf m 1 1 3 3 0 7 ∧
      ((stGfl (fun P => { P with inReq := m :: [] })).port 15).inReq = m :: []) ∧
    natAt (((wrMsg 0 0x50000)[1]?).getD []) 0 8 = 0 * 2 ^ 58 + 0x50000 ∧
    natAt (((wrMsg 1 0x50000)[1]?).getD []) 0 8 = 1 * 2 ^ 58 + 0x50000 ∧
    headerOf redMsg 2 1 0 3 0 7 ∧ natAt ((redMsg[1]?).getD []) 0 8 = 0 * 2 ^ 58 + 0x50000 ∧ reduceOf 0 = some (.add, 4) ∧
    (st T0).node = 0 ∧ ((st T0).part 0).state = .ready ∧ ((st T0).part 1).state ≠ .ready ∧
    (let P := (stGfl id).port 15
     P.winBase.toNat ≤ 0x50000 ∧ 0x50000 + 4 ≤ P.winBase.toNat + P.winSize.toNat ∧ ¬(0x50001 + 4 ≤ P.winBase.toNat + P.winSize.toNat)) := by
  unfold headerOf; refine ⟨?_, ?_⟩ <;> decide +kernel

/-- DONE and REFUSE from node 3 for the request that waits with tag 7. -/
theorem test_wit_GflLink_responses :
    let w : GReq := { tag := 7, entry := 1, part := 0, va := 0, lpa := 0, nodes := (3, 0) :: [], sentAt := 0 }
    (∀ type ∈ [3, 4], let m : List (List Byte) := msgHeader type 0 0 3 0 7 :: []
      let P := (stGfl (fun P => { P with inRsp := m :: [], waiting := w :: [] })).port 15
      headerOf m type 0 0 3 (st T0).node.toNat 7 ∧ P.inRsp = m :: [] ∧ P.waiting.filter (fun x => x.tag == 7) = [w] ∧
        w.nodes = [(3, 0)] ∧ ∀ x ∈ P.waiting, x ≠ w → x.entry ≠ w.entry ∧ x.nodes ≠ []) ∧
    (let m : List (List Byte) := msgHeader 4 0 3 9 0 7 :: []
     headerOf m 4 0 3 9 (st T0).node.toNat 7 ∧ (3 : Nat) % 16 = 3 ∧ ((3, 0) : Nat × Nat).1 ≠ 9) ∧
    (let t := (st T0).modPart 0 (fun P => { P with el := { base := 0x90000, ctl := 0x80000004, head := 0, tail := 15 } })
     (t.part 0).el.on = true ∧ (t.part 0).el.full = false ∧ (t.part 0).elWait = [] ∧ t.errorHeld 0 = false) := by
  unfold headerOf; refine ⟨?_, ?_, ?_⟩ <;> decide +kernel

/-- The times at which a port acts, and what a training may find. -/
theorem test_wit_GflLink_times :
    (let P := { Port.reset with up := true, replay := (0, [], 16) :: [] }
     P.up = true ∧ P.replay ≠ [] ∧ P.resend = 0 ∧ 5000 ≤ ((5000 : DWord) - P.lastAck).toNat ∧ (∃ x ∈ P.replay, 16 ≤ x.2.2) ∧
       50000 ≤ ((50000 : DWord) - P.lastGood).toNat) ∧
    ((st T0).stage = .ready ∧ ((st T0).port 0).up = false ∧ ((st T0).port 0).trainFails < 2) ∧
    (let s := (st T0).modPort 0 (fun P => { P with trainFails := 2 })
     (s.port 0).up = false ∧ (s.port 0).trainFails = 2) ∧
    (let s : State := { (st T0).modPort 0 (fun P => { P with trainFails := 3 }) with time := 1000000000 }
     (s.port 0).up = false ∧ 3 ≤ (s.port 0).trainFails ∧ 1000000000 ≤ (s.time - (s.port 0).lastGood).toNat) := by
  refine ⟨⟨rfl, ?_, rfl, ?_, ⟨_, .head _, ?_⟩, ?_⟩, ?_, ?_, ?_⟩ <;> decide +kernel

/-! ## States that meet the hypotheses: steps, traps, the whole machine -/

def decIs (r : Except DecodeFault (Instr × List Byte)) (i : Instr) : Bool :=
  match r with
  | .ok (j, []) => decide (j = i)
  | _ => false

theorem decIs_of {r : Except DecodeFault (Instr × List Byte)} {i : Instr} (h : decIs r i = true) : r = .ok (i, []) := by
  cases r with
  | error e => exact (Bool.false_ne_true h).elim
  | ok x =>
    obtain ⟨j, l⟩ := x
    cases l with
    | nil => cases of_decide_eq_true h; rfl
    | cons b l => exact (Bool.false_ne_true h).elim

def decIllegal (r : Except DecodeFault (Instr × List Byte)) : Bool := match r with | .error .illegal => true | _ => false

theorem decIllegal_of {r : Except DecodeFault (Instr × List Byte)} (h : decIllegal r = true) : r = .error .illegal := by
  cases r with
  | ok x => exact (Bool.false_ne_true h).elim
  | error e =>
    cases e with
    | illegal => rfl
    | reservedField => exact (Bool.false_ne_true h).elim

/-- `add s5, s6, s7` on an S-stream, the worked `vmul` (05/R120) on an L-stream, and a visitor at the same code. -/
def stepS0 : State := State.reset.withFetchWord 32 0x04518700
def stepL0 : State := State.reset.withFetchWord 96 (0x020813FF + 0x00400500 * 2 ^ 32)
def stepV0 : State := { stepL0 with visitors := { vis0 with core := 0 } :: [], agenda := .v 0 0 :: [] }

theorem test_wit_StepRunsInstruction :
    (let s := stepS0
     let u := ({ s with agenda := s.agenda.tail, cur := .s 0, choice := 1 }).clearHolds
     ∃ bs i rest s2, s.time.toNat / 10000 ≤ s.period ∧ s.agenda.head? = some (.s 0 1) ∧ (({ s with agenda := s.agenda.tail }).beforeS 0 1).isNone ∧
       u.fetchBlocked (u.partOf 0) (u.team 0).core (dieOfCore (u.team 0).core) 0 (u.team 0).spc 4 = false ∧
       u.fetchBytes (u.partOf 0) (u.team 0).core (dieOfCore (u.team 0).core) 0 (u.team 0).spc 4 = (.ok bs, s2) ∧
       decodeSBytes bs = .ok (i, rest) ∧ s2.sBroken 0 i = false) ∧
    (let s := stepL0
     let u := ({ s with agenda := s.agenda.tail, cur := .l 0, choice := 1 }).clearHolds
     ∃ bs i rest s2, s.agenda.head? = some (.l 0 1) ∧ (({ s with agenda := s.agenda.tail }).beforeL 0).isNone ∧ u.lctx.isSome ∧
       let C := u.lctx.getD noCtx
       u.fetchBlocked C.part C.core C.die C.t (u.lAddr C) 12 = false ∧
       u.fetchBytes C.part C.core C.die C.t (u.lAddr C) 12 = (.ok bs, s2) ∧ decodeLBytes bs = .ok (i, rest)) ∧
    (let s := stepV0
     let u := ({ s with agenda := s.agenda.tail, cur := .v 0, choice := 0 }).clearHolds
     ∃ bs i rest s2, s.agenda.head? = some (.v 0 0) ∧ (({ s with agenda := s.agenda.tail }).beforeV 0).isNone ∧ u.lctx.isSome ∧
       let C := u.lctx.getD noCtx
       u.fetchBlocked C.part C.core C.die C.t (u.lAddr C) 12 = false ∧
       u.fetchBytes C.part C.core C.die C.t (u.lAddr C) 12 = (.ok bs, s2) ∧ decodeLBytes bs = .ok (i, rest)) :=
  ⟨⟨_, .add 5 6 7, [], _, by decide +kernel, by decide +kernel, by decide +kernel, by decide +kernel, uok_of (by decide +kernel),
     decIs_of (by decide +kernel), by decide +kernel⟩,
   ⟨_, .vmul { ty := .f32, d := .l 0, a := .reg (.v 4), b := .reg (.v 5), c := .reg (.v 0) }, [], _, by decide +kernel, by decide +kernel,
     by decide +kernel, by decide +kernel, uok_of (by decide +kernel), decIs_of (by decide +kernel)⟩,
   _, .vmul { ty := .f32, d := .l 0, a := .reg (.v 4), b := .reg (.v 5), c := .reg (.v 0) }, [], _, by decide +kernel, by decide +kernel,
     by decide +kernel, by decide +kernel, uok_of (by decide +kernel), decIs_of (by decide +kernel)⟩

/-- A word of an unassigned opcode, to a handler and without one; a word that reads a register with an error; an L trap of the last
slot that waits, in a running team and in one without a handler; traps of a team without a handler and in a handler. -/
theorem test_wit_TrapDelivery :
    (let s0 := State.reset.withFetchWord 32 0
     let met (s : State) (T : Team) : Prop :=
       let u := ({ s with agenda := s.agenda.tail, cur := .s 0, choice := 1 }).clearHolds
       sMoves s 0 1 T ∧ T.pendL = none ∧ T.shold = none ∧
         u.fetchBlocked (u.partOf 0) (u.team 0).core (dieOfCore (u.team 0).core) 0 T.spc 4 = false ∧
         ∃ bs e s2, u.fetchBytes (u.partOf 0) T.core (dieOfCore T.core) 0 T.spc 4 = (.ok bs, s2) ∧ decodeSBytes bs = .error e
     let s := s0.modTeam 0 (fun T => { T with handler := 0x1000 })
     met s (s.team 0) ∧ (s.team 0).hasHandler ∧ met s0 (s0.team 0) ∧ (s0.team 0).handler = 0 ∧
       (s0.gang (s0.team 0).gang).phase = .resident) ∧
    (let s : State := { stepS0.modTeam 0 (fun T => { T with handler := 0x1000 }) with
       bad := { unit := 4, inst := teamFile 0, lo := 6, len := 1 } :: [] }
     let T := s.team 0
     let u := ({ s with agenda := s.agenda.tail, cur := .s 0, choice := 1 }).clearHolds
     sMoves s 0 1 T ∧ T.pendL = none ∧ T.shold = none ∧
       u.fetchBlocked (u.partOf 0) (u.team 0).core (dieOfCore (u.team 0).core) 0 T.spc 4 = false ∧
       (∃ bs s2, u.fetchBytes (u.partOf 0) T.core (dieOfCore T.core) 0 T.spc 4 = (.ok bs, s2) ∧
         decodeSBytes bs = .ok (.add 5 6 7, []) ∧ s2.sBroken 0 (.add 5 6 7) = true) ∧
       T.busy (sReads (.add 5 6 7)) = false ∧ (s.descOf 0).sup = true ∧ T.hasHandler ∧ (s.part (s.partOf 0)).el.on = false) ∧
    (let p : LTrap := { cause := .page, taddr := 0, tlpc := 0, lanes := 1, slot := some 3, redoFrom := none, sseq := none, visitor := none }
     let T : Team := { T0 with pendL := some p }
     let U : Team := { T with handler := 0 }
     let s (T : Team) : State := { st T with agenda := .s 0 0 :: [] }
     sMoves (s T) 0 0 T ∧ T.pendL = some p ∧ T.hasHandler ∧
       sMoves (s U) 0 0 U ∧ U.pendL = some p ∧ U.phase = .running ∧ U.handler = 0 ∧ ((s U).gang U.gang).phase = .resident) ∧
    (let T : Team := { T0 with handler := 0 }
     (st T).runsS 0 T [] ∧ T.phase = .running ∧ ((st T).gang T.gang).phase = .resident ∧ ((st T).descOf 0).sup = true) ∧
    (let T : Team := { T0 with phase := .trapped }
     (st T).runsS 0 T [1, 2, 3] ∧ T.rd 3 = 0 ∧ T.phase = .trapped ∧ ((st T).gang T.gang).phase = .resident) ∧
    (let s := st { L0 with phase := .trapped }
     let s : State := { s with cur := .l 0 }
     let C := ctxOf s (.ltrap lf) 0
     s.actsL (.ltrap lf) 0 C ∧ C.who = .l 0 ∧ s.teams[0]? = some { L0 with phase := .trapped } ∧ (s.gang L0.gang).phase = .resident) := by
  have idsf : ∀ s : State, s.fwd = [] → idsFresh s := fun s h e he => by rw [h] at he; cases he
  refine ⟨⟨⟨⟨by decide +kernel, ⟨[], rfl⟩, rfl, by decide +kernel, by decide +kernel, idsf _ rfl⟩, by decide +kernel, by decide +kernel,
        by decide +kernel, _, .illegal, _, uok_of (by decide +kernel), decIllegal_of (by decide +kernel)⟩, ⟨by decide +kernel, by decide +kernel⟩,
      ⟨⟨by decide +kernel, ⟨[], rfl⟩, rfl, by decide +kernel, by decide +kernel, idsf _ rfl⟩, by decide +kernel, by decide +kernel,
        by decide +kernel, _, .illegal, _, uok_of (by decide +kernel), decIllegal_of (by decide +kernel)⟩, by decide +kernel, by decide +kernel⟩,
    ⟨⟨by decide +kernel, ⟨[], rfl⟩, rfl, by decide +kernel, by decide +kernel, idsf _ rfl⟩, by decide +kernel, by decide +kernel,
      by decide +kernel, ⟨_, _, uok_of (by decide +kernel), decIs_of (by decide +kernel), by decide +kernel⟩, by decide +kernel, by decide +kernel,
      ⟨by decide +kernel, by decide +kernel⟩, by decide +kernel⟩,
    ⟨⟨by decide +kernel, ⟨[], rfl⟩, rfl, by decide +kernel, by decide +kernel, idsf _ rfl⟩, rfl, ⟨T0_handler, rfl⟩,
      ⟨by decide +kernel, ⟨[], rfl⟩, rfl, by decide +kernel, by decide +kernel, idsf _ rfl⟩, rfl, rfl, rfl, by decide +kernel⟩,
    ⟨⟨rfl, rfl, rfl⟩, rfl, by decide +kernel, by decide +kernel⟩, ⟨⟨rfl, rfl, rfl⟩, by decide +kernel, rfl, by decide +kernel⟩,
    ⟨acts_of (by decide +kernel), by decide +kernel, rfl, by decide +kernel⟩⟩

/-- A user team with a save pool of one slot of 1 MiB. -/
theorem test_wit_TrapDelivery_pool :
    let T : Team := { T0 with handler := 0 }
    let s := (user (st T)).modPart 0 (fun P =>
      { P with fq := { base := 0x90000, ctl := 0xC0000004, head := 0, tail := 0 }, saveBase := 0x100000, saveCtl := 0x00100001 })
    s.runsS 0 T [] ∧ (s.descOf 0).sup = false ∧ (s.part 0).fqOn = true ∧ s.freeSaveSlot 0 = some (0, 0x100000) :=
  ⟨⟨rfl, rfl, rfl⟩, by decide +kernel, by decide +kernel, by decide +kernel⟩

/-- Words of the round trip, in both directions; the first and the last unassigned opcodes. -/
theorem test_wit_EncodingRoundTrip : WellFormed (.add 5 6 7) ∧ encode (.add 5 6 7) ≠ [] ∧ WellFormed (.vadd lf) ∧ encode (.vadd lf) ≠ [] ∧
    decodeTableWord 32 0x04518700 = some (.add 5 6 7) := by decide +kernel

theorem test_wit_UnassignedOpcodes : (0x03FFFFFF : Word).toNat / 2 ^ 26 = 0 ∧ (0xFC000000 : Word).toNat / 2 ^ 26 = 0x3F ∧
    ((0x04000036 : Word).toNat / 2 ^ 26 = 1 ∧ (0x04000036 : Word).toNat % 256 = 0x36) ∧ (0x1AFFFFFF : Word).toNat / 2 ^ 24 = 0x1A ∧
    (0xFF000000 : Word).toNat / 2 ^ 24 = 0xFF := by decide +kernel

theorem test_wit_MemoryFormKept : (st T0).memOk ∧ idsFresh stepS0 ∧ ∃ s', step stepS0 = .next s' := by
  have h : ∀ G ∈ (st T0).gangs, G.spad.wf = true ∧ G.engine = none := by decide +kernel
  have hf : stepS0.fwd = [] := by decide +kernel
  refine ⟨⟨by decide +kernel, by decide +kernel, fun G hG => ⟨(h G hG).1, fun e he => by rw [(h G hG).2] at he; cases he⟩,
    State.reset_memOk.2.2.2⟩, fun e he => ?_, _, next_of (by decide +kernel)⟩
  rw [hf] at he
  cases he

theorem test_wit_StreamsStayAligned : aligned stepS0 ∧ ∃ s', step stepS0 = .next s' := by
  refine ⟨?_, _, next_of (by decide +kernel)⟩
  unfold aligned; decide +kernel

theorem test_wit_UserLeavesPrivilegedState : encode (.sysw 0x10 2) ≠ [] ∧ actor (user (st T0)) = some 0 ∧
    ((user (st T0)).descOf 0).sup = false ∧ ∃ s', exec (.sysw 0x10 2) (user (st T0)) = .next s' :=
  ⟨by decide +kernel, rfl, by decide +kernel, _, next_of (by decide +kernel)⟩

/-! ## Single steps: scalar instructions (hand calculation from 07/R153 to R166) -/

theorem test_wit_ScalarRegisters : T0.rd 0 = 0 ∧ (T0.wr 1 7).rd 1 = 7 ∧ (T0.wr 1 7).rd 2 = T0.rd 2 := by decide +kernel

/-- A team with `s2` and `s3`. -/
def two (x y : Word) : Team := (T0.wr 2 x).wr 3 y

theorem test_alu : ∀ p ∈ ([(.add 1 2 3, 0xFFFFFFFF, 2, 1), (.sub 1 2 3, 1, 2, 0xFFFFFFFF), (.mul 1 2 3, 0x10001, 0x10001, 0x20001),
    (.mulh 1 2 3, 0xFFFFFFFF, 2, 0xFFFFFFFF), (.mulhu 1 2 3, 0xFFFFFFFF, 2, 1), (.div 1 2 3, 0xFFFFFFF9, 2, 0xFFFFFFFD),
    (.divu 1 2 3, 0xFFFFFFF9, 2, 0x7FFFFFFC), (.rem 1 2 3, 0xFFFFFFF9, 2, 0xFFFFFFFF), (.remu 1 2 3, 0xFFFFFFF9, 4, 1),
    (.and 1 2 3, 0xC, 0xA, 8), (.or 1 2 3, 0xC, 0xA, 0xE), (.xor 1 2 3, 0xC, 0xA, 6), (.andn 1 2 3, 0xC, 0xA, 4),
    (.shl 1 2 3, 3, 33, 6), (.shr 1 2 3, 0x80000000, 31, 1), (.sra 1 2 3, 0x80000000, 63, 0xFFFFFFFF), (.rot 1 2 3, 0x80000001, 1, 3),
    (.min 1 2 3, 0xFFFFFFFF, 1, 0xFFFFFFFF), (.minu 1 2 3, 0xFFFFFFFF, 1, 1), (.max 1 2 3, 0xFFFFFFFF, 1, 1),
    (.maxu 1 2 3, 0xFFFFFFFF, 1, 0xFFFFFFFF), (.clz 1 2, 1, 0, 31), (.popc 1 2, 0xF000000F, 0, 8), (.seq 1 2 3, 5, 5, 1), (.sne 1 2 3, 5, 5, 0),
    (.slt 1 2 3, 0xFFFFFFFF, 0, 1), (.sltu 1 2 3, 0xFFFFFFFF, 0, 0), (.sle 1 2 3, 4, 4, 1), (.sleu 1 2 3, 5, 4, 0)] :
    List (Instr × Word × Word × Word)), sReg p.1 (two p.2.1 p.2.2.1) 1 = p.2.2.2 := by decide +kernel

/-- Immediates: -3 is added and compared; 0x3FFD is not sign-extended by `andi`, `ori` and `xori`. -/
theorem test_alu_immediate : ∀ p ∈ ([(.addi 1 2 0x3FFD, 1, 0xFFFFFFFE), (.andi 1 2 0x3FFD, 0xFFFFFFFF, 0x3FFD), (.ori 1 2 0x3FFD, 0, 0x3FFD),
    (.xori 1 2 0x3FFD, 0xFFFFFFFF, 0xFFFFC002), (.shli 1 2 31, 3, 0x80000000), (.shri 1 2 31, 0x80000000, 1),
    (.srai 1 2 31, 0x80000000, 0xFFFFFFFF), (.roti 1 2 4, 0xF0000001, 0x1F), (.slti 1 2 0x3FFD, 0xFFFFFFFC, 1), (.lui 1 0xFFFFF, 0, 0xFFFFF000)] :
    List (Instr × Word × Word)), sReg p.1 (two p.2.1 0) 1 = p.2.2 := by decide +kernel

/-- Pairs: `s4:s5` = 0x1_FFFFFFFF, `s6:s7` = 2; the shift count 33. -/
theorem test_pairs : ∀ p ∈ ([(.dadd 2 4 6, 0x200000001), (.dsub 2 6 4, 0xFFFFFFFE00000003), (.dshl 2 4 8, 0xFFFFFFFE00000000),
    (.dshr 2 4 8, 0), (.dsra 2 10 8, 0xFFFFFFFFFFFFFFFF), (.daddi 2 4 0x3FFF, 0x1FFFFFFFE)] : List (Instr × DWord)),
    (after (exec p.1 (st ((((T0.wr 4 0xFFFFFFFF).wr 5 1).wr 6 2).wr 8 33 |>.wr 11 0xFFFFFFFE)))).rdp 2 = p.2 := by decide +kernel

/-- Branches by -2 words and transfers from 0x40000; a link. -/
theorem test_branches : (∀ p ∈ ([(.bCond 2 0 0xFFFE, 0, 0x3FFF8), (.bCond 2 0 0xFFFE, 1, 0x40004), (.bCond 2 1 2, 1, 0x40008),
    (.jmp 0x3FFFFFF, 0, 0x3FFFC), (.call 4, 0, 0x40010)] : List (Instr × Word × DWord)),
    (after (exec p.1 (st (two p.2.1 0)))).spc = p.2.2) ∧ sReg (.call 4) T0 63 = 0x40004 := by decide +kernel

/-- A division by zero goes to the handler with ARITH in TCAUSE; `tresume` gives the instruction back. -/
theorem test_trap : (let U := after (exec (.div 1 2 3) (st T0))
      U.spc = 0x1000 ∧ U.phase = .trapped ∧ U.tspc = 0x40000 ∧ U.tcause = BitVec.ofNat 32 (causeCode .arith)) ∧
    (after (exec .tresume (st { T0 with phase := .trapped, resume := 0x40000 }))).spc = 0x40000 := by decide +kernel

/-! ## Lane instructions (08, 09) -/

/-- The element of a lane of a register after an L instruction. -/
def lv (i : Instr) (xs : List (Nat × VReg)) (n lane : Nat) : Word :=
  (((after (exec i (laneSt xs))).regs.v[n]?).getD (.u 0)).at lane

/-- `vK = v2 op v3`, with `v1` as the destination. -/
def lo (ty : LType) : LF := { lf with ty := ty }

theorem test_lane_integers : ∀ p ∈ ([(.vadd (lo .i32), 0xFFFFFFFF, 2, 1), (.vsub (lo .n32), 1, 2, 0xFFFFFFFF), (.vmul (lo .i32), 0x10001, 0x10001, 0x20001),
    (.vmulh (lo .i32), 0xFFFFFFFF, 2, 0xFFFFFFFF), (.vmulh (lo .n32), 0xFFFFFFFF, 2, 1), (.vdiv (lo .i32), 0xFFFFFFF9, 2, 0xFFFFFFFD),
    (.vrem (lo .i32), 0xFFFFFFF9, 2, 0xFFFFFFFF), (.vand (lo .i32), 0xC, 0xA, 8), (.vor (lo .i32), 0xC, 0xA, 0xE), (.vxor (lo .i32), 0xC, 0xA, 6),
    (.vandn (lo .i32), 0xC, 0xA, 4), (.vshl (lo .n32), 3, 33, 6), (.vshr (lo .n32), 0x80000000, 31, 1), (.vsra (lo .i32), 0x80000000, 63, 0xFFFFFFFF),
    (.vrot (lo .n32), 0x80000001, 1, 3), (.vmin (lo .i32), 0xFFFFFFFF, 1, 0xFFFFFFFF), (.vmax (lo .n32), 0xFFFFFFFF, 1, 0xFFFFFFFF)] :
    List (Instr × Word × Word × Word)), lv p.1 [(2, .u p.2.1), (3, .u p.2.2.1)] 1 31 = p.2.2.2 := by decide +kernel

/-- An affine operand gives each lane its own element; a lane outside the mask keeps its value. -/
theorem test_lane_forms : lv (.vadd (lo .i32)) [(2, .a 5 3), (3, .u 1)] 1 31 = 99 ∧
    (let m (l : Nat) : Word :=
       (((after (exec (.vadd { lo .i32 with ms := 1, a := .reg .lid, b := .reg .lid }) (withM (Mask.one 3)))).regs.v[1]?).getD (VReg.u 9)).at l
     m 3 = 6 ∧ m 2 = 0) := by decide +kernel

/-- 1.0 + 2.0 = 3.0; 1.5 × 2.0 = 3.0; sqrt 4.0 = 2.0; NaNs are canonical (04/R86). -/
theorem test_lane_floats : ∀ p ∈ ([(.vadd (lo .f32), 0x3F800000, 0x40000000, 0x40400000), (.vmul (lo .f32), 0x3FC00000, 0x40000000, 0x40400000),
    (.vsqrt { lo .f32 with b := .reg (.v 0) }, 0x40800000, 0, 0x40000000), (.vsub (lo .f32), 0x7F800000, 0x7F800000, 0x7FC00000),
    (.vdiv (lo .f32), 0x3F800000, 0x40400000, 0x3EAAAAAB)] :
    List (Instr × Word × Word × Word)), lv p.1 [(2, .u p.2.1), (3, .u p.2.2.1)] 1 0 = p.2.2.2 := by decide +kernel

/-- The worked elastic encodings of 04/R99: 1.0 and -0.1 at C = 5 with σ = 53, and the canonical NaN. -/
theorem test_elastic_codes :
    EV.read [0xF350, 0x33FF, 0, 0, 0] = ⟨5, .fin false (2 ^ 52) (-52), 53⟩ ∧
    EV.write ⟨5, .fin false 1 0, 53⟩ = [0xF350, 0x33FF, 0, 0, 0] ∧
    EV.write ⟨5, (roundElastic 0 5 (divFV 60 (.fin true 1 0) (.fin false 10 0)).1).1, 53⟩ = [0xB359, 0x3BFF, 0x9999, 0x9999, 0x999A] ∧
    EV.write ⟨5, .nan false, 0⟩ = [0xF008, 0x37FF, 0, 0, 0] := by decide +kernel

/-- The Transposed Requant of 12: 1.0 × 2^r in column 0 takes scale 0x7A, 6.0 × 4 in column 7 code 0x74, a NaN 0x7F. -/
theorem test_requant :
    (let col (p : Nat) (e : Int) := engineQuantise 0 0 ((List.range 32).map (fun r => if r = 5 then .nan false else .fin false p (e + (r % 4 : Nat))))
     (col 1 0).1 = 0x7A ∧ (col 1 0).2.take 6 = [0x60, 0x68, 0x70, 0x78, 0x60, 0x7F] ∧ (col 6 0).1 = 0x7C ∧
       (col 6 0).2.take 4 = [0x64, 0x6C, 0x74, 0x7C]) := by decide +kernel

/-- The Three-Slot Blend of 13: slot 1 becomes 0.5 and then 1.75; slot 2 becomes 1.5. -/
theorem test_blend : blendElem false 0x3F000000 0x3F800000 0 = 0x3F000000 ∧ blendElem false 0x3F000000 0x40400000 0x3F000000 = 0x3FE00000 ∧
    blendElem false 0x3F000000 0x40400000 0 = 0x3FC00000 := by decide +kernel

/-- The abstract's digest of "abc" (FIPS 180-4), as the log entry on SHA-512 says. -/
theorem test_sha512 : (sha512 [0x61, 0x62, 0x63]).take 8 = [0xDD, 0xAF, 0x35, 0xA1, 0x93, 0x61, 0x7A, 0xBA] := by decide +kernel

end Sys2Proof.Tests
end

section
/-! PROOFS. The state in which a team starts (O51, 02/R49). -/
namespace Sys2Proof.Machine

/-- At its start every `s` register of a team is 0, but for the pair 2 that holds ARGS (02/R49). -/
theorem Team.start_rd (l g tid rank core : Nat) (d : Desc) {r : BitVec 6} (h2 : r ≠ 2) (h3 : r ≠ 3) :
    (Team.start l g tid rank core d).rd r = 0 := by
  have n2 : 2 ≠ r.toNat := fun e => h2 (BitVec.eq_of_toNat_eq e.symm)
  have n3 : 3 ≠ r.toNat := fun e => h3 (BitVec.eq_of_toNat_eq e.symm)
  unfold Team.rd
  split
  · rfl
  · simp [Team.start, n2, n3]

theorem Team.start_rdp_args (l g tid rank core : Nat) (d : Desc) : (Team.start l g tid rank core d).rdp 2 = d.args := by
  show d.args.extractLsb' 32 32 ++ d.args.extractLsb' 0 32 = d.args
  exact BitVec.extractLsb'_append_extractLsb'_eq_extractLsb' (by decide) |>.trans BitVec.extractLsb'_eq_self

/-- Settles O51: the table of 02/R49 row by row. -/
theorem teamStart : Obligations.TeamStart := by
  intro l g tid rank core d
  refine ⟨rfl, Team.start_rdp_args .., fun r h2 h3 => Team.start_rd _ _ _ _ _ d h2 h3, rfl, List.length_replicate,
    fun r hr => List.eq_of_mem_replicate hr, fun k => ⟨?_, ?_⟩, rfl, rfl, rfl, rfl, rfl, rfl, rfl, rfl, rfl, rfl, rfl, fun k => ?_,
    rfl, fun k => ⟨?_, ?_⟩⟩
  all_goals simp [Team.start, Regs.start, Token.start]

end Sys2Proof.Machine
end

section
/-! PROOFS. Lane control: L instructions that write no register, and the constructs of 08/R226 to R231 (O33). -/
namespace Sys2Proof.Machine

open Sys2Proof.Claims

/-! ### L instructions that write no register -/

/-- An instruction whose destination touches nothing heals nothing (15/R399). -/
theorem State.healL_noDst (s : State) (C : LCtx) {i : Instr} (m : Mask) (h : dstTouch i = {}) : s.healL C i m = s := by
  unfold State.healL
  rw [h]
  exact ite_self s

/-- An instruction that acts on the team as a whole comes to what its rule says, under any mask (02/R30). -/
theorem State.runL_team {s : State} {i : Instr} {ms : BitVec 3} {C : LCtx} (h : s.runsL i ms C) (f : LCtx → LEff) :
    s.runL i ms true f = .next ((s.finishL (f C)).healL C i (if isPending i then 0 else (f C).wrote)) := by
  obtain ⟨⟨D, b, hD, h1, h2, h3, hm, rfl⟩, h4, h6⟩ := h
  have h6' : s.lBroken { D with blk := b, eff := D.effOf ms } i (s.softD D.t i) = 0 := h6
  have h4' : LCtx.regCheck { D with blk := b, eff := D.effOf ms } (touch i (s.softD D.t i)) = none := h4
  unfold State.runL State.runLPre State.runLAdj
  rw [hD]
  simp only [h1, h2, h3, hm, Mask.or_zero, h4']
  rw [if_neg (by decide), if_neg (by decide), if_neg (by simp)]
  simp only [State.runSound_sound h6']

/-- A lane-control instruction names no destination, and comes to what its rule says. -/
theorem State.runCtl_eq {s : State} {i : Instr} {C : LCtx} (h : s.runsL i 0 C) (hd : dstTouch i = {}) (f : LCtx → LEff) :
    s.runCtl i f = .next (s.finishL (f C)) := by
  rw [State.runCtl, State.runL_team h, State.healL_noDst _ _ _ hd]

theorem State.finishL_jump (s : State) (C : LCtx) (i : BitVec 26) : s.finishL (.jump s C i) = s.lGoto C i := rfl

theorem State.finishL_done_eq_lGoto (s : State) (C : LCtx) : s.finishL (.done s C) = s.lGoto C (C.blk.lpc + 1) := rfl

/-- A rule that falls through or jumps by a test of its mask goes to the one index or the other. -/
theorem State.finishL_branch (s : State) (C : LCtx) (p : Prop) [Decidable p] (i : BitVec 26) :
    s.finishL (if p then .jump s C i else .done s C) = s.lGoto C (if p then i else C.blk.lpc + 1) := by
  split <;> rfl

/-- Below the limit of 32 a push goes on with the entry on the stack (02/R37). -/
theorem LCtx.push_room (C : LCtx) (s : State) (rpc : BitVec 26) (k : RKind) (g : LCtx → LEff) (h : C.blk.stack.length < 32) :
    C.push s rpc k g = g { C with blk := { C.blk with stack := ⟨C.blk.path, C.blk.fmt, rpc, k⟩ :: C.blk.stack } } :=
  if_neg (by omega)

theorem lfmt_value (imm : BitVec 24) : (imm.extractLsb' 0 8).setWidth 32 = BitVec.ofNat 32 (imm.toNat % 256) := by
  apply BitVec.eq_of_toNat_eq; simp

/-- The formats that `lfmt` takes are those whose two fields are below 5 (03/R62). -/
theorem fmtOk_ofNat {x : Nat} (h : x < 256) (h1 : x / 8 % 8 < 5) (h2 : x % 8 < 5) : fmtOk (BitVec.ofNat 32 x) = true := by
  have hx : (BitVec.ofNat 32 x).toNat = x := by simp; omega
  simp [fmtOk, bitsOf, hx, h1, h2]; omega

/-! ### What each lane-control instruction comes to (02/R38, 08/R227, R230, R231) -/

section
variable {s : State} {C : LCtx} {f : LF} {m : Mask} {fmt : Word} {st : List REntry} {pc : BitVec 26}

/-- The context with the path mask, FMT and stack that a construct leaves. -/
def LCtx.construct (C : LCtx) (m : Mask) (fmt : Word) (st : List REntry) : LCtx :=
  { C with blk := { C.blk with path := m, fmt := fmt, stack := st } }

theorem exec_lif (h : ctlOut (.lif f) C = some (m, fmt, st, pc)) (hr : s.runsL (.lif f) 0 C) :
    exec (.lif f) s = .next (s.lGoto (C.construct m fmt st) pc) := by
  simp only [ctlOut] at h
  split at h
  · cases h
  · next hs =>
    cases h
    refine (State.runCtl_eq hr rfl _).trans ?_
    rw [LCtx.push_room _ _ _ _ _ (by omega), State.finishL_branch]
    rfl

theorem exec_ldo (h : ctlOut (.ldo f) C = some (m, fmt, st, pc)) (hr : s.runsL (.ldo f) 0 C) :
    exec (.ldo f) s = .next (s.lGoto (C.construct m fmt st) pc) := by
  simp only [ctlOut] at h
  split at h
  · cases h
  · next hs =>
    cases h
    refine (State.runCtl_eq hr rfl _).trans ?_
    rw [LCtx.push_room _ _ _ _ _ (by omega), State.finishL_done_eq_lGoto]
    rfl

theorem exec_lelse (h : ctlOut (.lelse f) C = some (m, fmt, st, pc)) (hr : s.runsL (.lelse f) 0 C) :
    exec (.lelse f) s = .next (s.lGoto (C.construct m fmt st) pc) := by
  refine (State.runCtl_eq hr rfl _).trans ?_
  cases hs : C.blk.stack with
  | nil => simp [ctlOut, hs] at h
  | cons e r =>
    simp only [ctlOut, hs] at h
    split at h
    · cases h
    · next hk =>
      cases h
      have hk' : e.kind = .ifK := Decidable.not_not.mp hk
      simp only [hk', bne_self_eq_false, Bool.false_eq_true, if_false]
      rw [State.finishL_branch]
      rfl

theorem exec_lfi (h : ctlOut (.lfi f) C = some (m, fmt, st, pc)) (hr : s.runsL (.lfi f) 0 C) :
    exec (.lfi f) s = .next (s.lGoto (C.construct m fmt st) pc) := by
  refine (State.runCtl_eq hr rfl _).trans ?_
  cases hs : C.blk.stack with
  | nil => simp [ctlOut, hs] at h
  | cons e r =>
    simp only [ctlOut, hs] at h
    split at h
    · cases h
    · next hk =>
      cases h
      have hk' : (e.kind == .loopK) = false := beq_eq_false_iff_ne.mpr hk
      simp only [hk', Bool.false_eq_true, if_false]
      rfl

theorem exec_lwhile (h : ctlOut (.lwhile f) C = some (m, fmt, st, pc)) (hr : s.runsL (.lwhile f) 0 C) :
    exec (.lwhile f) s = .next (s.lGoto (C.construct m fmt st) pc) := by
  refine (State.runCtl_eq hr rfl _).trans ?_
  cases hs : C.blk.stack with
  | nil => simp [ctlOut, hs] at h
  | cons e r =>
    simp only [ctlOut, hs] at h
    split at h
    · cases h
    · next hk =>
      have hk' : e.kind = .loopK := Decidable.not_not.mp hk
      simp only [hk', bne_self_eq_false, Bool.false_eq_true, if_false]
      split at h
      · next ha => cases h; rw [if_pos ha]; rfl
      · next ha => cases h; rw [if_neg ha, ← hs]; rfl

theorem exec_lod (h : ctlOut (.lod f) C = some (m, fmt, st, pc)) (hr : s.runsL (.lod f) 0 C) :
    exec (.lod f) s = .next (s.lGoto (C.construct m fmt st) pc) := by
  refine (State.runCtl_eq hr rfl _).trans ?_
  cases hs : C.blk.stack with
  | nil => simp [ctlOut, hs] at h
  | cons e r =>
    simp only [ctlOut, hs] at h
    split at h
    · cases h
    · next hk =>
      cases h
      have hk' : e.kind = .loopK := Decidable.not_not.mp hk
      simp only [hk', bne_self_eq_false, Bool.false_eq_true, if_false]
      rw [← hs]
      rfl

theorem exec_lnop (h : ctlOut (.lnop f) C = some (m, fmt, st, pc)) (hr : s.runsL (.lnop f) 0 C) :
    exec (.lnop f) s = .next (s.lGoto (C.construct m fmt st) pc) := by
  cases h
  exact State.runCtl_eq hr rfl _

theorem exec_lfmt (h : ctlOut (.lfmt f) C = some (m, fmt, st, pc)) (hr : s.runsL (.lfmt f) 0 C) :
    exec (.lfmt f) s = .next (s.lGoto (C.construct m fmt st) pc) := by
  refine (State.runCtl_eq hr rfl _).trans ?_
  simp only [ctlOut] at h
  split at h
  · next hx =>
    cases h
    have hok := fmtOk_ofNat (Nat.mod_lt f.imm.toNat (by decide)) hx.1 hx.2
    simp only [lfmt_value, hok, if_true]
    rfl
  · cases h

end

/-- Settles O33, by the instruction: only these eight give `ctlOut` a value. -/
theorem laneControlTransfers : Obligations.LaneControlTransfers := by
  intro i s C m fmt st pc h hr
  cases i with
  | lif f => exact exec_lif h hr
  | lelse f => exact exec_lelse h hr
  | lfi f => exact exec_lfi h hr
  | ldo f => exact exec_ldo h hr
  | lwhile f => exact exec_lwhile h hr
  | lod f => exact exec_lod h hr
  | lfmt f => exact exec_lfmt h hr
  | lnop f => exact exec_lnop h hr
  | _ => simp [ctlOut] at h

end Sys2Proof.Machine
end

section
/-! PROOFS. Instructions that act per lane, under an empty mask (O28, 02/R30). -/
namespace Sys2Proof.Machine

open Sys2Proof.Claims

/-- The fields of an instruction that acts per lane and that 02/R30 lets pass under an empty mask; none for any other. -/
def laneFields (i : Instr) : Option LF :=
  match i with
  | .vadd f | .vsub f | .vmul f | .vmulh f | .vmad f | .vdiv f | .vrem f | .vneg f | .vabs f | .vand f | .vor f | .vxor f
  | .vandn f | .vshl f | .vshr f | .vsra f | .vrot f | .vmin f | .vmax f | .vclz f | .vpopc f | .vcmp f | .vsel f | .vmov f
  | .vlea f | .vbfx f | .vbfi f | .vsqrt f | .vrcp f | .vrsq f | .vexp2 f | .vlog2 f | .vcls f | .vfinq f | .vcvt f
  | .vcvtSr f | .vmxq f | .vmxd f | .vprune f | .vrng f | .eprec f | .eround f | .esig f | .eld f | .eldn f | .est f | .vld f
  | .vst f | .vatom f | .vlds f | .vsts f | .vatoms f | .vprf f | .vrank f | .vswz f | .vbcast f | .mand f | .mor f | .mxor f
  | .mnot f | .mmov f | .vput f | .vrdx f => some f
  | .vmovImm ty ms d _ => some { ty := ty, ms := ms, d := d }
  | _ => none

theorem laneFields_of_laneInt {i : Instr} {f : LF} (h : (laneInt i).map (·.1) = some f) : laneFields i = some f := by
  unfold laneInt at h
  simp only [] at h
  split at h
  all_goals simp_all [laneFields, apply_ite (Option.map Prod.fst)]

theorem laneFields_of_laneValue {i : Instr} {s : State} {f : LF} (h : (laneValue s i).map (·.1) = some f) :
    laneFields i = some f := by
  unfold laneValue at h
  simp only [] at h
  split at h
  all_goals simp_all [laneFields, apply_ite (Option.map Prod.fst)]

theorem laneFields_of_laneElastic {i : Instr} {f : LF} (h : (laneElastic i).map (·.1) = some f) : laneFields i = some f := by
  unfold laneElastic at h
  simp only [] at h
  split at h
  all_goals simp_all [laneFields, apply_ite (Option.map Prod.fst)]

theorem laneFields_of_laneTest {i : Instr} {f : LF} (h : (laneTest i).map (·.1) = some f) (hb : i ≠ .vballot f) :
    laneFields i = some f := by
  unfold laneTest at h
  split at h
  all_goals simp_all [laneFields, apply_ite (Option.map Prod.fst)]

/-- What an instruction comes to is a rule of the lanes of its effective mask. -/
def State.PerLane (s : State) (i : Instr) (ms : BitVec 3) (o : Host.Outcome State Fault Refusal) : Prop :=
  ∃ g, o = s.runL i ms false g

theorem State.PerLane.ite {s : State} {i : Instr} {ms : BitVec 3} {o o' : Host.Outcome State Fault Refusal} {p : Prop}
    [Decidable p] (h : s.PerLane i ms o) (h' : s.PerLane i ms o') : s.PerLane i ms (if p then o else o') := by
  split
  · exact h
  · exact h'

theorem exec_perLane {i : Instr} {f : LF} (s : State) (h : laneFields i = some f) : s.PerLane i f.ms (exec i s) := by
  cases i with
  | vadd f' | vsub f' | vmul f' | vmad f' | vdiv f' | vneg f' | vabs f' | vmin f' | vmax f' =>
    cases h; exact .ite ⟨_, rfl⟩ (.ite ⟨_, rfl⟩ ⟨_, rfl⟩)
  | vsqrt f' | vrcp f' | vrsq f' | vexp2 f' | vlog2 f' | vcls f' | vfinq f' | mmov f' => cases h; exact .ite ⟨_, rfl⟩ ⟨_, rfl⟩
  | vmulh f' | vrem f' | vand f' | vor f' | vxor f' | vandn f' | vshl f' | vshr f' | vsra f' | vrot f' | vclz f' | vpopc f'
  | vcmp f' | vsel f' | vmov f' | vlea f' | vbfx f' | vbfi f' | vcvt f' | vcvtSr f' | vmxq f' | vmxd f' | vprune f' | vrng f'
  | eprec f' | eround f' | esig f' | eld f' | eldn f' | est f' | vld f' | vst f' | vatom f' | vlds f' | vsts f' | vatoms f'
  | vprf f' | vrank f' | vswz f' | vbcast f' | mand f' | mor f' | mxor f' | mnot f' | vput f' | vrdx f' | vmovImm ty ms d x =>
    cases h; exact ⟨_, rfl⟩
  | _ => cases h

/-- Settles O28: each of these instructions is a rule of its active lanes, of which there are none. -/
theorem emptyMaskHasNoEffect : Obligations.EmptyMaskHasNoEffect := by
  intro i s C f h hi he
  have hf : laneFields i = some f := by
    rcases h with h | h | h | ⟨h, hb⟩ | rfl | rfl | rfl | rfl | rfl | rfl | rfl | rfl | rfl | rfl | rfl | rfl
    · exact laneFields_of_laneInt h
    · exact laneFields_of_laneValue h
    · exact laneFields_of_laneElastic h
    · exact laneFields_of_laneTest h hb
    all_goals rfl
  obtain ⟨g, hg⟩ := exec_perLane s hf
  rw [hg]
  exact State.runLAdj_empty hi he (fun _ => none) (fun _ => g)

end Sys2Proof.Machine
end

section
/-!
SUPPORT. What the accesses of the machine's units, and the closing of steeps, leave alone: the teams and the launches.
-/
namespace Sys2Proof.Machine

/-- Two states differ at most in the caches of translations, in the walks under way and in what a step has noted
(16/R418 to R420). -/
def State.sameButCaches (s s' : State) : Prop :=
  s' = { s with cores := s'.cores, dies := s'.dies, walks := s'.walks, touched := s'.touched }

namespace State.sameButCaches

theorem refl (s : State) : s.sameButCaches s := rfl

theorem trans {s s' s'' : State} (h : s.sameButCaches s') (g : s'.sameButCaches s'') : s.sameButCaches s'' := by
  unfold State.sameButCaches at *
  rw [g, h]

theorem walkFor (s : State) (p : Nat) (va : DWord) (n : Need) : s.sameButCaches (s.walkFor p va n).2.2 := by
  unfold State.walkFor
  split <;> rfl

end State.sameButCaches

/-- A translation fills and empties caches; only one that fails may also leave the record of a table entry that holds an
error (15/R399, 16/R417). -/
theorem State.translate_cases (s : State) (p : Nat) (core : Option Nat) (die : Nat) (last : Option Tlb) (va : DWord)
    (need : Need) (who : Option Nat) :
    ∃ z, s.sameButCaches z ∧ ((s.translate p core die last va need who).2.2 = z ∨
      (∃ c res, (s.translate p core die last va need who).1 = .fail c res) ∧
        ∃ u d pa a, (s.translate p core die last va need who).2.2 = z.metBad p u d pa a who) := by
  unfold State.translate
  extract_lets cached l1 l2 hit fill1 finish usable z
  have hfill (y : State) (t : Tlb) : y.sameButCaches (fill1 y t) := by cases core <;> rfl
  have hfin (t : Tlb) (reads : List Nat) (y : State) : (finish t reads y).2.2 = y := by
    simp only [finish]; split <;> rfl
  have hz : s.sameButCaches z := by cases core <;> rfl
  clear_value usable fill1 finish z
  split
  · split
    · exact ⟨s, .refl s, .inl (hfin ..)⟩
    · exact ⟨fill1 s _, hfill s _, .inl (hfin ..)⟩
  · have hw := hz.trans (.walkFor z p va need)
    split
    · next y e =>
      rw [e] at hw
      refine ⟨y, hw, ?_⟩
      dsimp only
      split
      · exact .inr ⟨⟨_, _, rfl⟩, _, _, _, _, rfl⟩
      · exact .inl rfl
    · next y e =>
      rw [e] at hw
      split
      · exact ⟨_, hw.trans (hfill (y.modDie die _) _), .inl (hfin ..)⟩
      · exact ⟨y, hw, .inl rfl⟩

/-- Two states have the same teams and the same launches. -/
def State.sameWork (s s' : State) : Prop := s'.teams = s.teams ∧ s'.launches = s.launches

namespace State.sameWork

theorem refl (s : State) : s.sameWork s := ⟨rfl, rfl⟩

theorem trans {s s' s'' : State} (h : s.sameWork s') (g : s'.sameWork s'') : s.sameWork s'' :=
  ⟨g.1.trans h.1, g.2.trans h.2⟩

/-- A fold of steps that leave them alone leaves them alone. -/
theorem foldl {α : Type} {f : State → α → State} (h : ∀ (s : State) x, s.sameWork (f s x)) (l : List α) (s : State) :
    s.sameWork (l.foldl f s) := by
  induction l generalizing s with
  | nil => exact refl s
  | cons x r ih => exact (h s x).trans (ih _)

theorem ite {s a b : State} {p : Prop} [Decidable p] (h : s.sameWork a) (g : s.sameWork b) :
    s.sameWork (if p then a else b) := by
  split
  · exact h
  · exact g

/-! ### At a place, and error records (15/R399, R401) -/

theorem writeAt (s : State) (d : Dest) (a : Nat) (bs : List Byte) : s.sameWork (s.writeAt d a bs) := by
  cases d with
  | bank g => exact .ite (refl s) (refl s)
  | _ => exact refl s

theorem pcie (s : State) (p : Nat) (d : Dest) (n : Nat) : s.sameWork (s.pcie p d n) := by
  cases d <;> exact refl s

theorem writeEntry (s : State) (p pa : Nat) (bs : List Byte) : s.sameWork (s.writeEntry p pa bs) :=
  (writeAt s _ _ _).trans (pcie _ _ _ _)

theorem writeError (s : State) (p : Nat) (r : ErrRec) : s.sameWork (s.writeError p r) :=
  .ite (refl s) (.ite (refl s) ((writeEntry s _ _ _).trans (refl _)))

theorem postErrors (s : State) (p : Nat) : s.sameWork (s.postErrors p) := by
  have h : ∀ (l : List ErrRec) (x : List ErrRec × State), x.2.sameWork (l.foldl (fun (x : List ErrRec × State) r =>
      if !x.1.isEmpty || x.2.errorHeld p then (x.1 ++ [r], x.2) else (x.1, x.2.writeError p r)) x).2 := by
    intro l
    induction l with
    | nil => exact fun x => refl x.2
    | cons r l ih =>
      intro x
      refine trans (s' := (if !x.1.isEmpty || x.2.errorHeld p then (x.1 ++ [r], x.2) else (x.1, x.2.writeError p r)).2)
        ?_ (ih _)
      split
      · exact refl x.2
      · exact writeError x.2 p r
  exact h _ ([], s)

theorem metBad (s : State) (p unit die pa va : Nat) (who : Option Nat) : s.sameWork (s.metBad p unit die pa va who) :=
  .ite (refl s) (trans (s' := s.modPart p _) (refl s) (postErrors _ p))

/-! ### Virtual accesses of units (10/R276, 16/R411 to R423) -/

theorem of_caches {s s' : State} (h : s.sameButCaches s') : s.sameWork s' := by
  rw [State.sameButCaches] at h
  exact ⟨by rw [h], by rw [h]⟩

theorem translate (s : State) (p : Nat) (core : Option Nat) (die : Nat) (last : Option Tlb) (va : DWord) (need : Need)
    (who : Option Nat) : s.sameWork (s.translate p core die last va need who).2.2 := by
  obtain ⟨z, hz, h | ⟨-, u, d, pa, a, h⟩⟩ := s.translate_cases p core die last va need who
  · rw [h]; exact of_caches hz
  · rw [h]; exact (of_caches hz).trans (metBad z p u d pa a who)

theorem unitParts (s : State) (p : Nat) (core : Option Nat) (die : Nat) (va : DWord) (need : Need) (who : Option Nat)
    (ps : List (Nat × Nat)) : s.sameWork (s.unitParts p core die va need who ps).2 := by
  induction ps generalizing s with
  | nil => exact refl s
  | cons x r ih =>
    have ht := translate s p core die none (partVa va x.1) need who
    simp only [State.unitParts]
    split
    · next e => rw [e] at ht; exact ht
    · next z e =>
      rw [e] at ht
      have hr := ih z
      split
      all_goals next e' => rw [e'] at hr; exact ht.trans hr

theorem unitSplit (s : State) (p : Nat) (core : Option Nat) (die : Nat) (va : DWord) (n : Nat) (need : Need)
    (who : Option Nat) : s.sameWork (s.unitSplit p core die va n need who).2 := unitParts ..

theorem readParts (s : State) (p : Nat) (va : DWord) (who : Option Nat) (l : List (Nat × Nat × Tlb)) :
    s.sameWork (s.readParts p va who l).2 := by
  unfold State.readParts
  extract_lets place bad
  split
  · exact metBad ..
  · exact foldl (f := fun z x => (z.pcie p (place x).1 x.2.1).note (place x).1 (place x).2 x.2.1)
      (fun z x => (pcie z p _ _).trans (refl _)) l s

theorem unitRead (s : State) (p : Nat) (core : Option Nat) (die : Nat) (va : DWord) (n : Nat) (who : Option Nat) :
    s.sameWork (s.unitRead p core die va n who).2 := by
  have h := unitSplit s p core die va n { r := true } who
  unfold State.unitRead
  split
  · next e => rw [e] at h; exact h
  · next e => rw [e] at h; exact h.trans (readParts ..)

theorem writePart (s : State) (p die src : Nat) (va : DWord) (bs : List Byte) (who : Option Nat) (x : Nat × Nat × Tlb) :
    s.sameWork (s.writePart p die src va bs who x) := by
  unfold State.writePart
  extract_lets t a chunk pl z
  have hz : s.sameWork z := .ite (refl s) ((writeAt s _ _ _).trans ((pcie _ _ _ _).trans (refl _)))
  split
  · exact hz.trans (foldl (f := fun y pm => y.enter _ none p die _ _ a (.store chunk) .none none) (fun y _ => refl y) _ z)
  · exact hz

theorem unitWrite (s : State) (p : Nat) (core : Option Nat) (die src : Nat) (va : DWord) (bs : List Byte)
    (who : Option Nat) : s.sameWork (s.unitWrite p core die src va bs who).2 := by
  have h := unitSplit s p core die va bs.length { w := true } who
  unfold State.unitWrite
  split
  · next e => rw [e] at h; exact h
  · next e => rw [e] at h; exact h.trans (foldl (fun z x => writePart z p die src va bs who x) _ _)

/-! ### Steeps (13/R350, R351, R353) -/

theorem openHeader (s : State) (set k p : Nat) (c : Caddy) : s.sameWork (s.openHeader set k p c).2 := by
  unfold State.openHeader
  split
  · exact refl s
  · have h := unitWrite s p none c.home (caddySrc set k) (c.segAddr c.openSteep) (segHeader c.openSteep 0 false none false) none
    split
    all_goals next e => rw [e] at h; exact h.trans (refl _)

theorem openSegment (s : State) (set k : Nat) : s.sameWork (s.openSegment set k) := by
  unfold State.openSegment
  split
  · exact refl s
  · split
    · exact refl s
    · exact .ite (refl s) (openHeader ..)

theorem tryClose (s : State) (set k : Nat) : s.sameWork (s.tryClose set k) := by
  unfold State.tryClose
  split
  · exact refl s
  · split
    · exact refl s
    · exact .ite ((refl s).trans (openSegment ..)) (refl s)

theorem testCloses (s : State) (l : Nat) : s.sameWork (s.testCloses l) := by
  unfold State.testCloses
  split
  · exact refl s
  · split
    · exact refl s
    · exact foldl (fun z k => tryClose z _ k) _ s

end State.sameWork

end Sys2Proof.Machine
end

section
/-! PROOFS. Where grow, shrink, the circle instructions and pour trap (O11). -/
namespace Sys2Proof.Machine

open Sys2Proof.Claims

/-! ### S instructions: issue and end -/

/-- No load in flight writes a register of an empty list. -/
theorem Team.busy_nil (T : Team) : T.busy [] = false := by simp [Team.busy]

theorem State.runsS.nil {s : State} {t : Nat} {T : Team} {rs : List (BitVec 6)} (h : s.runsS t T rs) : s.runsS t T [] :=
  ⟨h.1, h.2.1, T.busy_nil⟩

theorem State.partOf_eq {s : State} {t : Nat} {T : Team} (h : s.teams[t]? = some T) : s.partOf t = (s.launch T.launch).part := by
  rw [State.partOf, State.launchOf, State.team_of h]

theorem State.descOf_eq {s : State} {t : Nat} {T : Team} (h : s.teams[t]? = some T) : s.descOf t = (s.launch T.launch).desc := by
  rw [State.descOf, State.launchOf, State.team_of h]

/-- A team put back as it stands changes nothing. -/
theorem State.setTeam_self {s : State} {t : Nat} {T : Team} (h : s.teams[t]? = some T) : s.setTeam t T = s := by
  have hm : modifyAt s.teams t (fun _ => T) = s.teams := by
    apply List.ext_getElem?
    intro j
    by_cases hj : j = t
    · rw [hj, modifyAt_getElem?_self, h]; rfl
    · exact modifyAt_getElem?_ne _ _ hj
  unfold State.setTeam State.modTeam
  rw [hm]

/-- An S instruction that changes nothing ends so. -/
theorem State.finishS_unchanged {s : State} {t : Nat} {T : Team} (h : s.teams[t]? = some T) :
    s.finishS t (.done s) = s.sNext t T := by
  rw [← State.finishS_setTeam s t rfl, State.setTeam_self h]

/-- A rule that leaves its team alone completes: the S-PC goes on, and what it leaves of the machine is as it left it but for
that team and a budget (07/R152). -/
theorem completesS_done {s s1 : State} {t : Nat} {T : Team} {p : State → Team → Prop} (h : s1.teams[t]? = some T)
    (hp : ∀ U : Team, U = { T with spc := T.spc + 4, wait := .none, blocked := false } → p (s.finishS t (.done s1)) U) :
    completesS (.next (s.finishS t (.done s1))) t T T.s p := by
  refine ⟨_, { T with spc := T.spc + 4, wait := .none, blocked := false }, rfl, ?_, rfl, rfl, rfl, rfl, hp _ rfl⟩
  have : (s.finishS t (.done s1)).teams[t]? = s1.teams[t]?.map _ := State.modTeam_get_self ..
  rw [this, h]
  rfl

/-- An S trap with a handler changes no launch. -/
theorem State.trapS_launches {s : State} {t : Nat} {T : Team} (c : Cause) (a : DWord) (h : s.teams[t]? = some T)
    (hh : T.hasHandler) : (s.trapS t c a).launches = s.launches := by
  have h1 : (s.modTeam t (fun T => { T.sTrapRegs c a with wait := .none })).teams[t]? =
      some { T.sTrapRegs c a with wait := .none } := by rw [State.modTeam_get_self, h]; rfl
  rw [State.trapS, State.divert_handler c h1 hh]
  rfl

/-! ### `grow` and `shrink` (02/R50, 07/R169) -/

theorem growFaults : Sys2Proof.Claims.GrowFaults := by
  intro s t T k h hh
  have traps {f : Nat → Team → Eff} {c : Cause} (hf : f t T = .trap s c 0) : TrapsS (s.runS [] f) s t T c 0 :=
    State.runS_traps h hh hf rfl (State.sameMemory_refl s)
  refine ⟨fun hw => ⟨traps ?_, traps ?_⟩, fun hw hn => traps ?_, fun hw hn => traps ?_⟩
  · exact if_pos (bne_iff_ne.mpr hw)
  · exact if_pos (bne_iff_ne.mpr hw)
  · simp [hw, State.descOf_eq h.2.1, hn]
  · simp [hw, hn]

/-! ### Circles (02/R44, R45) -/

/-- The circle that a team names is that of the claims. -/
theorem State.circle_eq {s : State} {t : Nat} {T : Team} (h : s.teams[t]? = some T) (kind : BitVec 1) (n : BitVec 6) :
    s.circle t (kind == 1) n.toNat = circleOf s T kind n := by
  unfold State.circle circleOf State.launchOf State.gangOf
  rw [State.team_of h]
  by_cases hk : kind = 1 <;> simp [hk]

theorem Team.circleName_eq (T : Team) (kind : BitVec 1) : T.circleName (kind == 1) = nameIn T kind := by
  unfold Team.circleName nameIn
  by_cases hk : kind = 1 <;> simp [hk]

theorem circleFaults : Sys2Proof.Claims.CircleFaults := by
  intro s t T kind n d h hh
  have traps {rs : List (BitVec 6)} {f : Nat → Team → Eff} (hr : s.runsS t T rs) (hf : f t T = .trap s .membership 0) :
      TrapsS (s.runS rs f) s t T .membership 0 := State.runS_traps hr hh hf rfl (State.sameMemory_refl s)
  have hc := State.circle_eq h.2.1 kind n
  refine ⟨fun hn => ?_, fun c hs hw hm => ?_⟩
  · rw [hn] at hc
    exact ⟨traps h.nil (by simp only [hc]), traps h.nil (by simp only [hc]), traps h.nil (by simp only [hc]),
      traps h (by simp only [hc])⟩
  · rw [hs] at hc
    refine traps h.nil ?_
    simp only [hc, hw, Team.circleName_eq]
    exact if_pos (by simpa using hm)

/-! ### `pour` (07/R172) -/

/-- The higher bytes of a number. -/
theorem leNat_drop (l : List Byte) (k : Nat) : leNat (l.drop k) = leNat l / 256 ^ k := by
  induction k generalizing l with
  | zero => simp
  | succ k ih =>
    cases l with
    | nil => simp [leNat]
    | cons b r =>
      have hb : b.toNat < 256 := b.isLt
      rw [List.drop_succ_cons, ih, leNat, Nat.pow_succ', ← Nat.div_div_eq_div_mul]
      congr 1; omega

/-- The last byte of a field of four. -/
theorem natAt_top (bs : List Byte) (off : Nat) : natAt bs (off + 3) 1 = natAt bs off 4 / 2 ^ 24 := by
  unfold natAt bytesAt
  rw [show (2 : Nat) ^ 24 = 256 ^ 3 from rfl, ← leNat_drop, List.drop_take, List.drop_drop]

theorem natAt_lt (bs : List Byte) (off n : Nat) : natAt bs off n < 2 ^ (8 * n) :=
  Nat.lt_of_lt_of_le (leNat_lt _) (Nat.pow_le_pow_right (by decide) (Nat.mul_le_mul_left 8 (List.length_take_le n (bs.drop off))))

/-- A descriptor sets SUP when the top bit of its counts is set (02/R47). -/
theorem Desc.ofBytes_sup (bs : List Byte) (h : 128 ≤ natAt bs 0x37 1) : (Desc.ofBytes bs).sup = true := by
  have ht : natAt bs 0x37 1 = natAt bs 0x34 4 / 2 ^ 24 := natAt_top bs 0x34
  have hl := natAt_lt bs 0x34 4
  have hs : bitsOf (natAt bs 0x34 4) 31 31 = 1 := by unfold bitsOf; omega
  exact decide_eq_true hs

theorem pourFaults : Sys2Proof.Claims.PourFaults := by
  intro s s1 t T a bs h hh
  refine ⟨fun ha => ?_, fun ha hmay hrel hread hr hbad => ?_⟩
  · refine State.runS_traps h hh ?_ rfl (State.sameMemory_refl s)
    simp [ha]
  · have hw : s.sameWork s1 := by
      have := State.sameWork.unitRead s (s.partOf t) (some T.core) (T.core / 36) (T.rdp a) 128 (some t)
      rw [hr] at this; exact this
    have hT : s1.teams[t]? = some T := by rw [hw.1]; exact h.2.1
    have hq : (descMalformed bs || (Desc.ofBytes bs).sup) = true := by
      rcases hbad with hbad | hbad
      · simp [hbad]
      · simp [Desc.ofBytes_sup bs hbad]
    have he : exec (.pour a) s = .next (s.finishS t (.trap s1 .queue (T.rdp a))) := by
      refine (State.runS_eq h _).trans ?_
      have hmay' : s.sMay t true true = true := hmay
      have hrel' : s.sReleased t 3 = true := hrel
      have hst : s.walkStalls (s.partOf t) (some T.core) (T.core / 36) t (T.core / 36) (T.rdp a) 128 { r := true } = false :=
        hread.1
      have hun : s.unitHeld (s.partOf t) (some T.core) (T.core / 36) (T.rdp a) 128 { r := true } = false := hread.2
      simp [ha, hmay', hrel', dieOfCore, hst, hun, hr, hq]
    obtain ⟨U, g1, g2, -, -⟩ := State.trapS_handler .queue (T.rdp a) hT hh
    exact ⟨_, U, he, g1, g2, (State.trapS_launches .queue (T.rdp a) hT hh).trans hw.2⟩

/-- Settles O11: each trap is the one that the rule of the instruction names. -/
theorem gangAndLaunchFaults : Obligations.GangAndLaunchFaults := ⟨growFaults, circleFaults, pourFaults⟩

end Sys2Proof.Machine
end

section
/-! PROOFS. Circles: joining, leaving, arriving and asking (O12, 02/R44, R45). -/
namespace Sys2Proof.Machine

open Sys2Proof.Claims

/-! ### A circle's own operations (02/R45) -/

/-- Check(), as 02/R45 says it. -/
theorem Circle.check_eq (c : Circle) : c.check = circleChecked c.members c.arrived c.phase := by
  obtain ⟨ms, ar, ph⟩ := c
  simp [Circle.check, circleChecked]

theorem Circle.mem_join (c : Circle) (x m : Nat) : m ∈ (c.join x).members ↔ m ∈ c.members ∨ m = x := by
  unfold Circle.join
  split
  · next h => exact ⟨.inl, fun g => g.elim id (fun e => e ▸ List.contains_iff_mem.mp h)⟩
  · simp

theorem Circle.join_arrived (c : Circle) (x : Nat) : (c.join x).arrived = c.arrived := by unfold Circle.join; split <;> rfl

theorem Circle.join_phase (c : Circle) (x : Nat) : (c.join x).phase = c.phase := by unfold Circle.join; split <;> rfl

theorem Circle.leave_eq (c : Circle) (x : Nat) : c.leave x =
    if x ∈ c.members then circleChecked (c.members.filter (· ≠ x)) (c.arrived.filter (· ≠ x)) c.phase else c := by
  have hf (l : List Nat) : l.filter (· != x) = l.filter (fun m => decide (m ≠ x)) := by
    congr 1
    funext m
    rw [Bool.eq_iff_iff, bne_iff_ne, decide_eq_true_eq]
  simp only [Circle.leave, Circle.check_eq, List.contains_iff_mem, hf]

theorem Circle.info_eq (c : Circle) (x : Nat) : c.info x = (BitVec.ofNat 32 c.members.length,
    if x ∈ c.members then BitVec.ofNat 32 (c.members.filter (· < x)).length else 0xFFFFFFFF) := by
  simp only [Circle.info, List.contains_iff_mem]

/-- The arrival of the last member ends the phase. -/
theorem Circle.arrive_last {c : Circle} {x : Nat} (hx : x ∈ c.members) (h : ∀ m ∈ c.members, m = x ∨ m ∈ c.arrived) :
    c.arrive x = ⟨c.members, [], c.phase + 1⟩ := by
  rw [Circle.arrive, Circle.check_eq, circleChecked, if_pos]
  refine ⟨List.ne_nil_of_mem hx, fun m hm => ?_⟩
  rcases h m hm with rfl | h
  · simp
  · exact List.mem_append_left _ h

/-- An arrival before others' is recorded. -/
theorem Circle.arrive_early {c : Circle} {x : Nat} (h : ¬∀ m ∈ c.members, m = x ∨ m ∈ c.arrived) :
    c.arrive x = ⟨c.members, c.arrived ++ [x], c.phase⟩ := by
  rw [Circle.arrive, Circle.check_eq, circleChecked, if_neg]
  rintro ⟨-, ha⟩
  refine h fun m hm => ?_
  rcases List.mem_append.mp (ha m hm) with h | h
  · exact .inr h
  · exact .inl (by simpa using h)

/-! ### A team's circle in the state -/

theorem State.modCircle_teams (s : State) (t : Nat) (l : Bool) (n : Nat) (f : Circle → Circle) :
    (s.modCircle t l n f).teams = s.teams := by
  unfold State.modCircle
  split
  · exact (State.sameWork.testCloses _ _).1
  · rfl

/-- What a team's circle is depends on the launches and gangs alone. -/
theorem circleOf_congr {s s' : State} {T U : Team} (kind : BitVec 1) (n : BitVec 6) (hl : s'.launches = s.launches)
    (hg : s'.gangs = s.gangs) (hL : U.launch = T.launch) (hG : U.gang = T.gang) : circleOf s' U kind n = circleOf s T kind n := by
  unfold circleOf State.launch State.gang
  rw [hl, hg, hL, hG]

/-- An operation on a team's circle changes that circle so. -/
theorem State.circleOf_modCircle {s : State} {t : Nat} {T : Team} {kind : BitVec 1} {n : BitVec 6} {c : Circle}
    (h : s.teams[t]? = some T) (hc : circleOf s T kind n = some c) (f : Circle → Circle) :
    circleOf (s.modCircle t (kind == 1) n.toNat f) T kind n = some (f c) := by
  unfold State.modCircle
  rw [State.team_of h]
  by_cases hk : kind = 1
  · subst hk
    have hc' : (s.launch T.launch).circles[n.toNat]? = some c := hc
    have hw := (State.sameWork.testCloses (s.modLaunch T.launch
      (fun L => { L with circles := modifyAt L.circles n.toNat f })) T.launch).2
    show ((State.testCloses _ _).launch T.launch).circles[n.toNat]? = some (f c)
    rw [State.launch, hw, State.modLaunch_get_self]
    cases hL : s.launches[T.launch]? with
    | none => rw [State.launch, hL] at hc'; cases hc'
    | some L =>
      rw [State.launch, hL] at hc'
      exact (modifyAt_getElem?_self ..).trans (congrArg (Option.map f) hc')
  · have hc' : (s.gang T.gang).circles[n.toNat]? = some c := by rw [circleOf, if_neg hk] at hc; exact hc
    rw [if_neg (by simpa using hk), circleOf, if_neg hk, State.gang, State.modGang_get_self]
    cases hG : s.gangs[T.gang]? with
    | none => rw [State.gang, hG] at hc'; cases hc'
    | some G =>
      rw [State.gang, hG] at hc'
      exact (modifyAt_getElem?_self ..).trans (congrArg (Option.map f) hc')

/-! ### The instructions (07/R170, R171) -/

section
variable {s : State} {t : Nat} {T : Team} {kind : BitVec 1} {n : BitVec 6} {c : Circle}

/-- An instruction that completes with an operation on the team's circle leaves that circle changed so. -/
theorem completesS_modCircle (h : s.teams[t]? = some T) (hc : circleOf s T kind n = some c) (f : Circle → Circle)
    {p : Circle → Prop} (hp : p (f c)) :
    completesS (.next (s.finishS t (.done (s.modCircle t (kind == 1) n.toNat f)))) t T T.s
      (fun s' U => ∃ c', circleOf s' U kind n = some c' ∧ p c') := by
  refine completesS_done (by rw [State.modCircle_teams]; exact h) fun U hU => ⟨f c, ?_, hp⟩
  subst hU
  exact (circleOf_congr kind n rfl rfl rfl rfl).trans (State.circleOf_modCircle h hc f)

theorem exec_cjoin (h : s.runsS t T []) (hc : circleOf s T kind n = some c) : exec (.cjoin kind n) s =
    .next (s.finishS t (.done (s.modCircle t (kind == 1) n.toNat (fun c => c.join (nameIn T kind))))) := by
  refine (State.runS_eq h _).trans ?_
  simp only [(State.circle_eq h.2.1 kind n).trans hc, Team.circleName_eq]

theorem exec_cleave (h : s.runsS t T []) (hc : circleOf s T kind n = some c) : exec (.cleave kind n) s =
    .next (s.finishS t (.done (s.modCircle t (kind == 1) n.toNat (fun c => c.leave (nameIn T kind))))) := by
  refine (State.runS_eq h _).trans ?_
  simp only [(State.circle_eq h.2.1 kind n).trans hc, Team.circleName_eq]

theorem exec_cinfo {d : BitVec 6} (h : s.runsS t T [d, d + 1]) (hc : circleOf s T kind n = some c) :
    exec (.cinfo d kind n) s = .next (s.sNext t ((T.wr d (BitVec.ofNat 32 c.members.length)).wr (d + 1)
        (if nameIn T kind ∈ c.members then BitVec.ofNat 32 (c.members.filter (· < nameIn T kind)).length
         else 0xFFFFFFFF))) := by
  refine (State.runS_eq h _).trans ?_
  simp only [(State.circle_eq h.2.1 kind n).trans hc, Team.circleName_eq, Circle.info_eq]
  rw [State.finishS_setTeam (T := T) s t (by simp)]

theorem circleScope_eq (kind : BitVec 1) : circleScope kind = if kind = 1 then 3 else 1 := by
  unfold circleScope
  by_cases hk : kind = 1 <;> simp [hk]

/-- The arrival at a circle: `csync` of a member that has not arrived. -/
theorem exec_csync_arrives (h : s.runsS t T []) (hc : circleOf s T kind n = some c) (hw : T.wait = .none)
    (hm : nameIn T kind ∈ c.members) (hr : releasedS s t (if kind = 1 then 3 else 1)) : exec (.csync kind n) s =
      let s' := s.modCircle t (kind == 1) n.toNat (fun c => c.arrive (nameIn T kind))
      .next (s.finishS t (if (c.arrive (nameIn T kind)).phase = c.phase then
        .wait (s'.modTeam t (fun T => { T with wait := .csync (kind == 1) n.toNat c.phase })) else .done s')) := by
  have hr' : s.sReleased t (circleScope kind) = true := by rw [circleScope_eq]; exact hr
  have hc' : (s.modCircle t (kind == 1) n.toNat (fun c => c.arrive (nameIn T kind))).circle t (kind == 1) n.toNat =
      some (c.arrive (nameIn T kind)) :=
    (State.circle_eq (by rw [State.modCircle_teams]; exact h.2.1) kind n).trans (State.circleOf_modCircle h.2.1 hc _)
  refine (State.runS_eq h _).trans ?_
  simp only [(State.circle_eq h.2.1 kind n).trans hc, hw, Team.circleName_eq, List.contains_iff_mem.mpr hm, hr', hc',
    Bool.not_true, Bool.false_eq_true, if_false, beq_iff_eq]

theorem exec_csync_unreleased (h : s.runsS t T []) (hc : circleOf s T kind n = some c) (hw : T.wait = .none)
    (hm : nameIn T kind ∈ c.members) (hr : ¬releasedS s t (if kind = 1 then 3 else 1)) :
    exec (.csync kind n) s = .next (s.modTeam t (fun T => { T with blocked := true })) := by
  have hr' : s.sReleased t (circleScope kind) = false := by rw [circleScope_eq]; exact Bool.eq_false_iff.mpr hr
  refine (State.runS_eq h _).trans ?_
  simp only [(State.circle_eq h.2.1 kind n).trans hc, hw, Team.circleName_eq, List.contains_iff_mem.mpr hm, hr',
    Bool.not_true, Bool.not_false, Bool.false_eq_true, if_false, if_true]
  rfl

/-- `csync` that has arrived completes once the phase of its arrival has ended, and else goes on waiting. -/
theorem exec_csync_waits {p : Word} (h : s.runsS t T []) (hc : circleOf s T kind n = some c)
    (hw : T.wait = .csync (kind == 1) n.toNat p) : exec (.csync kind n) s =
      .next (if p = c.phase then s.modTeam t (fun T => { T with blocked := true }) else s.sNext t T) := by
  refine (State.runS_eq h _).trans ?_
  simp only [(State.circle_eq h.2.1 kind n).trans hc, hw]
  by_cases hp : p = c.phase
  · subst hp; simp [State.finishS]
  · rw [if_neg hp, if_neg (by simpa using Ne.symm hp), State.finishS_unchanged h.2.1]

/-- The last arrival completes, and the circle is in its next phase. -/
theorem csync_last (h : s.runsS t T []) (hc : circleOf s T kind n = some c) (hw : T.wait = .none)
    (hm : nameIn T kind ∈ c.members) (hr : releasedS s t (if kind = 1 then 3 else 1))
    (ha : ∀ m ∈ c.members, m = nameIn T kind ∨ m ∈ c.arrived) :
    completesS (exec (.csync kind n) s) t T T.s (fun s' U => ∃ c', circleOf s' U kind n = some c' ∧
      c'.phase = c.phase + 1 ∧ c'.arrived = [] ∧ c'.members = c.members) := by
  have hlast := Circle.arrive_last hm ha
  have hne : (c.arrive (nameIn T kind)).phase ≠ c.phase := by rw [hlast]; simp
  rw [exec_csync_arrives h hc hw hm hr]
  simp only [if_neg hne]
  refine completesS_modCircle h.2.1 hc _ ?_
  simp only [hlast, and_self]

/-- An arrival that others are still to join blocks. -/
theorem csync_early (h : s.runsS t T []) (hc : circleOf s T kind n = some c) (hw : T.wait = .none)
    (hm : nameIn T kind ∈ c.members) (hr : releasedS s t (if kind = 1 then 3 else 1))
    (ha : ¬∀ m ∈ c.members, m = nameIn T kind ∨ m ∈ c.arrived) :
    ∃ s' U, exec (.csync kind n) s = .next s' ∧
      s'.teams[t]? = some U ∧ U = { T with wait := .csync (kind == 1) n.toNat c.phase, blocked := true } ∧
      circleOf s' U kind n = some ⟨c.members, c.arrived ++ [nameIn T kind], c.phase⟩ := by
  have hearly := Circle.arrive_early ha
  have heq : (c.arrive (nameIn T kind)).phase = c.phase := by rw [hearly]
  rw [exec_csync_arrives h hc hw hm hr]
  simp only [if_pos heq]
  refine ⟨_, _, rfl, ?_, rfl, ?_⟩
  · simp only [State.finishS, State.modTeam_get_self, State.modCircle_teams, h.2.1]
    rfl
  · exact (circleOf_congr kind n rfl rfl rfl rfl).trans ((State.circleOf_modCircle h.2.1 hc _).trans (by rw [hearly]))

end

/-- Settles O12, by the instruction. -/
theorem circleInstructions : Obligations.CircleInstructions := by
  intro s t T kind n c hc
  refine ⟨fun h => ⟨?_, ?_, fun hw hm => ⟨fun hr => exec_csync_unreleased h hc hw hm hr, fun hr =>
    ⟨fun ha => csync_last h hc hw hm hr ha, fun ha => csync_early h hc hw hm hr ha⟩⟩, fun p hw => ⟨fun hp => ?_, fun hp => ?_⟩⟩,
    fun d h => exec_cinfo h hc⟩
  · rw [exec_cjoin h hc]
    exact completesS_modCircle h.2.1 hc _ ⟨Circle.mem_join c _, Circle.join_arrived c _, Circle.join_phase c _⟩
  · rw [exec_cleave h hc]
    exact completesS_modCircle h.2.1 hc _ (Circle.leave_eq c _)
  · rw [exec_csync_waits h hc hw, if_neg hp]
  · rw [exec_csync_waits h hc hw, if_pos hp]

end Sys2Proof.Machine
end

section
/-! PROOFS. The start of a block (O37, 02/R32 to R34). -/
namespace Sys2Proof.Machine

open Sys2Proof.Claims

/-! ### BLOCK_START (02/R32 to R34) -/

/-- The full mask of a width holds the lanes below it. -/
theorem Mask.full_getLsbD (w l : Nat) (h : l < 1024) : (Mask.full w).getLsbD l = decide (l < w) := by
  rw [Mask.full, BitVec.getLsbD_ofNat, Nat.testBit_two_pow_sub_one]
  simp [h]

theorem exec_blockStart {s : State} {t : Nat} {T : Team} {q : LQ} {r : List LQ} (h : s.teams[t]? = some T)
    (hb : T.blk = none) (hq : T.laneQ = q :: r) (hd : T.trapDue = false) (ho : s.onCore t = true) :
    exec (.blockStart t) s =
      .next (s.setTeam t { T.freshRegs q with blk := some (Blk.start q T.w T.fmt), laneQ := r }) := by
  show execBlockStart t s = _
  unfold execBlockStart
  simp only [State.team_of h, hb, hq, hd, ho, Bool.not_false, Bool.and_true, if_true]

/-- A held block gets a stash alone when a block starts (02/R50). -/
theorem Team.freshRegs_held_eq {T : Team} {x : Blk} (q : LQ) (h : T.held = some x) :
    ∃ y, (T.freshRegs q).held = some y ∧ y = { x with stash := y.stash } := by
  refine ⟨_, by rw [Team.freshRegs, h]; rfl, ?_⟩
  dsimp only
  split <;> rfl

/-- With its stash, a held block's own registers come back as they were (02/R50). -/
theorem Team.freshRegs_unstash {T : Team} {x : Blk} {q : LQ} (h : T.held = some x) (hs : x.stash = [])
    (hq : q.low < x.lq.n) (hn : x.lq.n ≤ T.regs.v.length) :
    ∃ y, (T.freshRegs q).held = some y ∧ y.unstash (T.freshRegs q).regs.v = T.regs.v.take x.lq.n := by
  refine ⟨{ x with stash := (T.regs.v.take x.lq.n).drop q.low }, by simp [Team.freshRegs, h, hs, hq], ?_⟩
  have hne : ((T.regs.v.take x.lq.n).drop q.low).isEmpty = false := by
    rw [List.isEmpty_eq_false_iff, ← List.length_pos_iff]; simp; omega
  have hlen : x.lq.n - ((T.regs.v.take x.lq.n).drop q.low).length = q.low := by simp; omega
  have htake : (T.regs.v.take q.low ++ List.replicate (T.regs.v.length - q.low) (VReg.u 0)).take q.low = T.regs.v.take q.low :=
    List.take_left' (by simp; omega)
  have hlow : T.regs.v.take q.low = (T.regs.v.take x.lq.n).take q.low := by rw [List.take_take]; congr 1; omega
  simp only [Blk.unstash, hne, hlen, Team.freshRegs, htake]
  rw [if_neg (by decide), hlow, List.take_append_drop]

theorem blockStarts : Sys2Proof.Claims.BlockStarts := by
  intro s t T q r h hb hq hd ho
  refine ⟨Blk.start q T.w T.fmt, (T.freshRegs q).held, exec_blockStart h hb hq hd ho, fun hn => ?_, fun x hx => ?_, rfl, rfl,
    rfl, rfl, rfl, rfl, rfl, rfl, fun l hl => Mask.full_getLsbD T.w l hl⟩
  · rw [Team.freshRegs, hn]; rfl
  · obtain ⟨y, hy, hyx⟩ := Team.freshRegs_held_eq q hx
    refine ⟨y, hy, hyx, fun hs hlt hle => ?_⟩
    obtain ⟨z, hz, hu⟩ := Team.freshRegs_unstash hx hs hlt hle
    rw [hy] at hz
    cases hz
    exact hu

end Sys2Proof.Machine
end

section
/-!
SUPPORT. The accesses of lanes that every check lets go: what the checks leave of the machine, and what entering the accesses
adds to it (03/R81, 08/R203, R204, 10/R264).
-/
namespace Sys2Proof.Machine

open Sys2Proof.Claims

/-! ### Masks of lanes -/

theorem Mask.one_getLsbD (n l : Nat) (h : l < 1024) : (Mask.one n).getLsbD l = decide (n = l) := by
  rw [Mask.one, BitVec.getLsbD_ofNat, Nat.testBit_two_pow]
  simp [h]

theorem Mask.foldl_one_getLsbD (ls : List Nat) (m : Mask) {l : Nat} (h : l < 1024) :
    (ls.foldl (fun m n => m ||| Mask.one n) m).getLsbD l = (m.getLsbD l || ls.any (· == l)) := by
  induction ls generalizing m with
  | nil => simp
  | cons n r ih =>
    rw [List.foldl_cons, ih, BitVec.getLsbD_or, Mask.one_getLsbD n l h, List.any_cons, Bool.or_assoc]
    rfl

/-- The mask that holds a list of lanes holds those lanes and no other. -/
theorem Mask.ofLanes_getLsbD (ls : List Nat) {l : Nat} (h : l < 1024) : (Mask.ofLanes ls).getLsbD l = ls.any (· == l) := by
  rw [Mask.ofLanes, Mask.foldl_one_getLsbD ls 0 h]
  simp

/-! ### Checks that let a lane go -/

/-- A look-up that gives a translation changes caches alone. -/
theorem Chk.look_ok {k z : Chk} {C : LCtx} {lane : Nat} {va : DWord} {need : Need} {t : Tlb} {reads : List Nat}
    (h : k.look C lane va need = (.ok t, reads, z)) : k.s.sameButCaches z.s := by
  unfold Chk.look at h
  dsimp only at h
  split at h
  · simp only [Prod.mk.injEq] at h
    obtain ⟨-, -, rfl⟩ := h
    exact .refl _
  · simp only [Prod.mk.injEq] at h
    obtain ⟨h1, -, rfl⟩ := h
    obtain ⟨y, hy, e | ⟨⟨c, res, e⟩, -⟩⟩ :=
      k.s.translate_cases C.part (some C.core) C.die (lastOf k.last lane) va need (some C.t)
    · rw [← e] at hy; exact hy
    · rw [e] at h1; cases h1

theorem Chk.parts_go {k z : Chk} {C : LCtx} {own : List Entry} {lane : Nat} {va : DWord} {need : Need}
    {done qs : List (Nat × Nat × Tlb)} {ps : List (Nat × Nat)} (h : k.parts C own lane va need done ps = (.go qs, z)) :
    k.s.sameButCaches z.s := by
  induction ps generalizing k done with
  | nil => cases h; exact .refl _
  | cons p r ih =>
    simp only [Chk.parts] at h
    split at h
    · split at h
      · cases h
      · split at h <;> cases h
    · next t reads y e =>
      split at h
      · cases h
      · have hz := ih h
        exact (Chk.look_ok e).trans hz

theorem Chk.global_go {k z : Chk} {C : LCtx} {own : List Entry} {m : MemOp} {migctl : Word} {o : LaneOp}
    {qs : List (Nat × Nat × Tlb)} (h : k.global C own m migctl o = (.go qs, z)) : k.s.sameButCaches z.s := by
  unfold Chk.global at h
  dsimp only at h
  split at h
  · cases h
  · split at h
    · next ps y e =>
      have hy := Chk.parts_go e
      split at h
      · split at h
        · split at h
          · cases h
          · next hne => exact absurd h (hne _ _)
        · cases h; exact hy
      · cases h; exact hy
    · next hne => exact absurd h (hne _ _)

theorem Chk.spad_go {k z : Chk} {C : LCtx} {m : MemOp} {o : LaneOp} {qs : List (Nat × Nat × Tlb)}
    (h : k.spad C m o = (.go qs, z)) : z = k := by
  unfold Chk.spad at h
  dsimp only at h
  repeat' split at h
  all_goals cases h
  rfl

theorem Chk.lane_go {k z : Chk} {C : LCtx} {own : List Entry} {m : MemOp} {migctl : Word} {o : LaneOp}
    {qs : List (Nat × Nat × Tlb)} (h : k.lane C own m migctl o = (.go qs, z)) : k.s.sameButCaches z.s := by
  unfold Chk.lane at h
  split at h
  · exact Chk.global_go h
  · rw [Chk.spad_go h]; exact .refl k.s

/-- Checks that let every lane go change caches alone: no error record is written, and no byte of memory (15/R399). -/
theorem Chk.lanes_go {k z : Chk} {C : LCtx} {own : List Entry} {m : MemOp} {migctl : Word} {os : List LaneOp}
    {ws : List (LaneOp × Want)} (h : k.lanes C own m migctl os = (ws, z)) (hw : ∀ w ∈ ws, ∃ ps, w.2 = .go ps) :
    k.s.sameButCaches z.s := by
  induction os generalizing k ws with
  | nil => cases h; exact .refl _
  | cons o r ih =>
    simp only [Chk.lanes] at h
    cases h
    obtain ⟨ps, hp⟩ := hw _ List.mem_cons_self
    exact (Chk.lane_go (Prod.ext hp rfl)).trans (ih rfl fun w hm => hw w (List.mem_cons_of_mem _ hm))

/-! ### Entering (10/R264) -/

/-- Entries are appended to the forward queues, and nothing else changes but the numbers to come. -/
def State.enters (s s' : State) (es : List Entry) : Prop := s' = { s with fwd := s.fwd ++ es, nextId := s'.nextId }

namespace State.enters

theorem nil (s : State) : s.enters s [] := by unfold State.enters; rw [List.append_nil]

theorem trans {s s' s'' : State} {es fs : List Entry} (h : s.enters s' es) (g : s'.enters s'' fs) :
    s.enters s'' (es ++ fs) := by
  unfold State.enters at *
  rw [g, h, List.append_assoc]

theorem fwd {s s' : State} {es : List Entry} (h : s.enters s' es) : s'.fwd = s.fwd ++ es := by rw [h]
theorem parts {s s' : State} {es : List Entry} (h : s.enters s' es) : s'.parts = s.parts := by rw [h]
theorem teams {s s' : State} {es : List Entry} (h : s.enters s' es) : s'.teams = s.teams := by rw [h]

theorem sameMemory {s s' : State} {es : List Entry} (h : s.enters s' es) : s.sameMemory s' :=
  State.sameMemory_of (by rw [h]) (by rw [h]) (by rw [h])

end State.enters

/-- Some entries are those of some items under a relation: each item has one, and each is of an item. -/
def entriesOf {α : Type} (R : α → Entry → Prop) (qs : List α) (es : List Entry) : Prop :=
  (∀ q ∈ qs, ∃ e ∈ es, R q e) ∧ ∀ e ∈ es, ∃ q ∈ qs, R q e

theorem entriesOf.append {α : Type} {R : α → Entry → Prop} {qs rs : List α} {es fs : List Entry} (h : entriesOf R qs es)
    (g : entriesOf R rs fs) : entriesOf R (qs ++ rs) (es ++ fs) := by
  constructor
  · intro q hq
    rcases List.mem_append.mp hq with hq | hq
    · obtain ⟨e, he, hr⟩ := h.1 q hq; exact ⟨e, List.mem_append_left _ he, hr⟩
    · obtain ⟨e, he, hr⟩ := g.1 q hq; exact ⟨e, List.mem_append_right _ he, hr⟩
  · intro e he
    rcases List.mem_append.mp he with he | he
    · obtain ⟨q, hq, hr⟩ := h.2 e he; exact ⟨q, List.mem_append_left _ hq, hr⟩
    · obtain ⟨q, hq, hr⟩ := g.2 e he; exact ⟨q, List.mem_append_right _ hq, hr⟩

/-- A fold of steps each of which enters the entries of some items enters those of all. -/
theorem State.enters_foldl {α β : Type} {R : β → Entry → Prop} {I : State → Prop}
    (hI : ∀ s s' es, s.enters s' es → I s → I s') {f : State → α → State} {g : α → List β} {l : List α}
    (hf : ∀ x ∈ l, ∀ s, I s → ∃ es, s.enters (f s x) es ∧ entriesOf R (g x) es) {s : State} (hs : I s) :
    ∃ es, s.enters (l.foldl f s) es ∧ entriesOf R (l.flatMap g) es := by
  induction l generalizing s with
  | nil => exact ⟨[], .nil s, by simp [entriesOf]⟩
  | cons x r ih =>
    obtain ⟨es, he, hr⟩ := hf x List.mem_cons_self s hs
    obtain ⟨fs, hfs, hrs⟩ := ih (fun y hy => hf y (List.mem_cons_of_mem _ hy)) (hI _ _ _ he hs)
    exact ⟨es ++ fs, he.trans hfs, hr.append hrs⟩

/-- States in which the place and the team of lane entries are those of another. -/
def State.placesAs (k : State) (t : Nat) (s : State) : Prop := s.parts = k.parts ∧ (s.team t).gang = (k.team t).gang

theorem State.placesAs_enters (k : State) (t : Nat) (s s' : State) (es : List Entry) (h : s.enters s' es)
    (hs : k.placesAs t s) : k.placesAs t s' := by
  refine ⟨h.parts.trans hs.1, ?_⟩
  rw [State.team, h.teams]
  exact hs.2

theorem State.enterGlobal_plain (s : State) (owner : Issuer) (team : Option Nat) (part die : Nat) {t : Tlb} (va : DWord)
    (op : Acc) (ret : Ret) (lane : Option Nat) (h : t.replica = false) :
    s.enterGlobal owner team part die t va op ret lane =
      s.enter owner team part die ((s.part part).place (t.pa va) op.len).1 ((s.part part).place (t.pa va) op.len).2 va op ret
        lane := by
  simp [State.enterGlobal, h]

/-- An access enters one entry, under the next number. -/
theorem State.enters_enter (s : State) (owner : Issuer) (team : Option Nat) (part die : Nat) (dest : Dest) (addr : Nat)
    (va : DWord) (op : Acc) (ret : Ret) (lane : Option Nat) : s.enters (s.enter owner team part die dest addr va op ret lane)
      [{ id := s.nextId, owner := owner, team := team, part := part, die := die, dest := dest, addr := addr, va := va, op := op,
         ret := ret, lane := lane, rpage := none }] := rfl

section
variable {k : State} {C : LCtx} {m : MemOp} (slot : Nat)
  (hsp : m.space ≠ .mcast) (hwho : C.who = .l C.t)
include hsp hwho

/-- Entering a home lane's access enters one entry for each of its line parts. -/
theorem State.enters_enterLane (o : LaneOp) {ps : List (Nat × Nat × Tlb)} (hp : ∀ p ∈ ps, p.2.2.replica = false) {s : State}
    (hs : k.placesAs C.t s) : ∃ es, s.enters (s.enterLane C m slot o ps) es ∧ entriesOf (laneEntry k C m slot o) ps es := by
  have key := State.enters_foldl (R := laneEntry k C m slot o) (g := fun p => [p]) (l := ps)
    (State.placesAs_enters k C.t) (s := s) (f := fun s p =>
      let op := m.acc o p.1 p.2.1
      let ret : Ret := if m.returns && !(p.2.2.replica && !op.isLoad) then retOf C.who slot o.lane p.1 else .none
      match m.space with
      | .global => s.enterGlobal C.who (some C.t) C.part C.die p.2.2 (partVa (o.addr m.i) p.1) op ret (some o.lane)
      | .spad =>
        s.enter C.who (some C.t) C.part C.die (.bank (s.team C.t).gang) ((o.addr m.i).toNat + p.1) (partVa (o.addr m.i) p.1)
          op ret (some o.lane)
      | .mcast =>
        (mcastGangs o.c).foldl (fun s g =>
          let T := s.team C.t
          let dest : Dest := if (s.gang T.gang).num == g then .bank T.gang else .mcast T.launch g
          s.enter C.who (some C.t) C.part C.die dest ((o.addr m.i).toNat + p.1) (partVa (o.addr m.i) p.1) op .none
            (some o.lane)) s)
    ?_ hs
  · rw [List.flatMap_singleton'] at key; exact key
  · intro p hm z hz
    have hrep := hp p hm
    have hpart : z.part C.part = k.part C.part := by rw [State.part, hz.1, State.part]
    cases hm : m.space with
    | mcast => exact absurd hm hsp
    | global =>
      refine ⟨_, by dsimp only; rw [State.enterGlobal_plain _ _ _ _ _ _ _ _ _ hrep]; exact State.enters_enter .., ?_⟩
      simp [entriesOf, laneEntry, hm, hrep, hwho, retOf, hpart, partVa]
    | spad =>
      refine ⟨_, State.enters_enter .., ?_⟩
      simp [entriesOf, laneEntry, hm, hrep, hwho, retOf, hz.2, partVa]

/-- Entering home lanes' accesses enters one entry for each line part of each lane, and no other. -/
theorem State.enters_enterLanes {gs : List (LaneOp × List (Nat × Nat × Tlb))}
    (hp : ∀ g ∈ gs, ∀ p ∈ g.2, p.2.2.replica = false) {s : State} (hs : k.placesAs C.t s) :
    ∃ es, s.enters (gs.foldl (fun s e => s.enterLane C m slot e.1 e.2) s) es ∧
      (∀ g ∈ gs, ∀ p ∈ g.2, ∃ e ∈ es, laneEntry k C m slot g.1 p e) ∧
      ∀ e ∈ es, ∃ g ∈ gs, ∃ p ∈ g.2, laneEntry k C m slot g.1 p e := by
  obtain ⟨es, he, h1, h2⟩ := State.enters_foldl (l := gs)
    (R := fun (q : LaneOp × (Nat × Nat × Tlb)) e => laneEntry k C m slot q.1 q.2 e) (g := fun g => g.2.map (fun p => (g.1, p)))
    (f := fun s e => s.enterLane C m slot e.1 e.2) (State.placesAs_enters k C.t) (fun g hg z hz => by
      obtain ⟨es, he, h1, h2⟩ := State.enters_enterLane slot hsp hwho g.1 (hp g hg) hz
      refine ⟨es, he, fun q hq => ?_, fun e hm => ?_⟩
      · obtain ⟨p, hpg, rfl⟩ := List.mem_map.mp hq; exact h1 p hpg
      · obtain ⟨p, hpg, hr⟩ := h2 e hm; exact ⟨(g.1, p), List.mem_map.mpr ⟨p, hpg, rfl⟩, hr⟩) hs
  refine ⟨es, he, fun g hg p hpg => h1 (g.1, p) ?_, fun e hm => ?_⟩
  · exact List.mem_flatMap.mpr ⟨g, hg, List.mem_map.mpr ⟨p, hpg, rfl⟩⟩
  · obtain ⟨q, hq, hr⟩ := h2 e hm
    obtain ⟨g, hg, hq⟩ := List.mem_flatMap.mp hq
    obtain ⟨p, hpg, rfl⟩ := List.mem_map.mp hq
    exact ⟨g, hg, p, hpg, hr⟩

end

/-! ### Issuing lanes none of which is turned away -/

/-- Lanes that all go, with their parts. -/
theorem exists_goes {ws : List (LaneOp × Want)} (h : ∀ w ∈ ws, ∃ ps, w.2 = .go ps) :
    ∃ gs : List (LaneOp × List (Nat × Nat × Tlb)), ws = gs.map (fun g => (g.1, .go g.2)) := by
  induction ws with
  | nil => exact ⟨[], rfl⟩
  | cons w r ih =>
    obtain ⟨gs, hgs⟩ := ih fun x hx => h x (List.mem_cons_of_mem _ hx)
    obtain ⟨ps, hp⟩ := h w List.mem_cons_self
    exact ⟨(w.1, ps) :: gs, by rw [hgs, List.map_cons, ← hp]⟩

theorem State.setLastPages_brokenPart (s : State) (who : Issuer) (l : List (Nat × Tlb)) (C : LCtx) (m : MemOp) (va : DWord)
    (ps : List (Nat × Nat × Tlb)) : (s.setLastPages who l).brokenPart C m va ps = s.brokenPart C m va ps := by
  cases who <;> rfl

/-- Nothing becomes of no migrating lanes. -/
theorem Leaving.all_nil (L : Leaving) (s : State) : L.all s [] = { s := s, gone := 0, back := [], bad := [] } := by
  have hg : groupsOf [] = [] := by simp [groupsOf]
  rw [Leaving.all, hg]
  rfl

/-- Issuing lanes that the checks all let go, and whose reads meet no error, enters their accesses; no lane is held, faults or
leaves (03/R79, 08/R203). -/
theorem Issue.run_go {x : Issue} {s : State} {slot : Nat} {gs : List (LaneOp × List (Nat × Nat × Tlb))} {c : Chk}
    (hl : (Chk.mk s (s.lastPages x.C.who) []).lanes x.C (s.teamQueue x.C.t x.C.die) x.m x.migctl x.ops =
      (gs.map (fun g => (g.1, .go g.2)), c))
    (hmay : s.lMay x.C x.m = true) (hb : ∀ g ∈ gs, c.s.brokenPart x.C x.m (g.1.addr x.m.i) g.2 = none) :
    x.run s slot = some
      { s := gs.foldl (fun s e => s.enterLane x.C x.m slot e.1 e.2) (c.s.setLastPages x.C.who c.last),
        fly := if x.m.returns then Mask.ofLanes (gs.map (·.1.lane)) else 0,
        fin := (if x.m.returns then 0 else Mask.ofLanes (gs.map (·.1.lane))) ||| 0, gone := 0, bad := [], held := [] } := by
  have hbr : gs.filterMap (fun e => ((c.s.setLastPages x.C.who c.last).brokenPart x.C x.m (e.1.addr x.m.i) e.2).map
      (fun b => (e.1.lane, b))) = [] := by
    apply List.filterMap_eq_nil_iff.mpr
    intro g hg
    rw [State.setLastPages_brokenPart, hb g hg]
    rfl
  have hnone {β : Type} : gs.filterMap (fun _ => (none : Option β)) = [] := List.filterMap_eq_nil_iff.mpr fun _ _ => rfl
  have hhere : gs.filterMap (fun g => some (g.1, g.2)) = gs := List.filterMap_some
  have hstall : gs.any (fun _ => false) = false := List.any_eq_false.mpr fun _ _ => Bool.false_ne_true
  have hall : gs.filter (fun _ => true) = gs := List.filter_eq_self.mpr fun _ _ => rfl
  unfold Issue.run
  simp only [hl, hmay, List.any_map, List.filterMap_map, Function.comp_def, hnone, Leaving.all_nil, hhere, hbr, hstall, hall,
    List.any_nil, List.isEmpty_nil, Bool.not_true, Bool.not_false, Bool.false_and, Bool.or_false, Bool.false_eq_true, if_false,
    List.foldl_nil, List.map_nil, List.append_nil]

end Sys2Proof.Machine
end

section
/-! PROOFS. The replay of an operand-log slot, and its trap (O37, 03/R54, R79, R81). -/
namespace Sys2Proof.Machine

open Sys2Proof.Claims

/-! ### The fault that a trap reports (03/R54) -/

/-- A fold whose steps keep one of two items, and one that is at most both, ends with a least of all. -/
theorem foldl_least {α : Type} {le : α → α → Prop} {f : α → α → α} (hrefl : ∀ x, le x x)
    (htrans : ∀ x y z, le x y → le y z → le x z) (hf : ∀ x y, (f x y = x ∨ f x y = y) ∧ le (f x y) x ∧ le (f x y) y)
    (l : List α) (b : α) : l.foldl f b ∈ b :: l ∧ ∀ y ∈ b :: l, le (l.foldl f b) y := by
  induction l generalizing b with
  | nil =>
    refine ⟨List.mem_cons_self, fun y hy => ?_⟩
    rw [List.mem_singleton.mp hy]
    exact hrefl b
  | cons x r ih =>
    obtain ⟨hm, hl⟩ := ih (f b x)
    obtain ⟨hone, hb, hx⟩ := hf b x
    have hstep := hl _ List.mem_cons_self
    rw [List.foldl_cons]
    refine ⟨?_, fun y hy => ?_⟩
    · rcases List.mem_cons.mp hm with h | h
      · rcases hone with e | e
        · exact List.mem_cons.mpr (.inl (h.trans e))
        · exact List.mem_cons_of_mem _ (List.mem_cons.mpr (.inl (h.trans e)))
      · exact List.mem_cons_of_mem _ (List.mem_cons_of_mem _ h)
    · rcases List.mem_cons.mp hy with rfl | hy
      · exact htrans _ _ _ hstep hb
      · rcases List.mem_cons.mp hy with rfl | hy
        · exact htrans _ _ _ hstep hx
        · exact hl y (List.mem_cons_of_mem _ hy)

/-- The order of faults: by cause, and of one cause by lane (03/R54). -/
def badLe (x y : Nat × Cause × DWord) : Prop :=
  causeCode x.2.1 < causeCode y.2.1 ∨ (causeCode x.2.1 = causeCode y.2.1 ∧ x.1 ≤ y.1)

theorem badLe_refl (x : Nat × Cause × DWord) : badLe x x := .inr ⟨rfl, Nat.le_refl _⟩

theorem badLe_trans (x y z : Nat × Cause × DWord) (h : badLe x y) (g : badLe y z) : badLe x z := by
  unfold badLe at *
  omega

/-- Of two faults the first in that order. -/
def lowerBad (x y : Nat × Cause × DWord) : Nat × Cause × DWord :=
  if decide (causeCode y.2.1 < causeCode x.2.1) || (causeCode y.2.1 == causeCode x.2.1 && decide (y.1 < x.1)) then y else x

theorem lowestBad_cons (b : Nat × Cause × DWord) (r : Bads) : lowestBad (b :: r) = (r.foldl lowerBad b).2 := rfl

theorem lowerBad_le (x y : Nat × Cause × DWord) :
    (lowerBad x y = x ∨ lowerBad x y = y) ∧ badLe (lowerBad x y) x ∧ badLe (lowerBad x y) y := by
  unfold lowerBad
  split
  · next h =>
    rw [Bool.or_eq_true, Bool.and_eq_true, decide_eq_true_eq, decide_eq_true_eq, beq_iff_eq] at h
    refine ⟨.inr rfl, ?_, badLe_refl y⟩
    unfold badLe
    omega
  · next h =>
    rw [Bool.or_eq_true, Bool.and_eq_true, decide_eq_true_eq, decide_eq_true_eq, beq_iff_eq] at h
    refine ⟨.inl rfl, badLe_refl x, ?_⟩
    unfold badLe
    omega

/-- What a trap reports is the lowest cause, and the address of the lowest lane that has it. -/
theorem lowestBad_least {bad : Bads} (h : bad ≠ []) : ∃ x ∈ bad, lowestBad bad = x.2 ∧ ∀ y ∈ bad, badLe x y := by
  cases bad with
  | nil => exact absurd rfl h
  | cons b r =>
    obtain ⟨hm, hl⟩ := foldl_least badLe_refl badLe_trans lowerBad_le r b
    exact ⟨_, hm, lowestBad_cons b r, hl⟩

theorem badLe_cause {x y : Nat × Cause × DWord} (h : badLe x y) :
    causeCode x.2.1 ≤ causeCode y.2.1 ∧ (y.2.1 = x.2.1 → x.1 ≤ y.1) := by
  rcases h with h | ⟨h, hl⟩
  · exact ⟨Nat.le_of_lt h, fun e => absurd h (by rw [e]; exact Nat.lt_irrefl _)⟩
  · exact ⟨Nat.le_of_eq h, fun _ => hl⟩

/-! ### Operand-log slots (03/R79, R81) -/

theorem vget_eq {α : Type} {n j : Nat} {v : Vector α (n + 1)} {x : α} (h : v[j]? = some x) : vget v j = x := by
  obtain ⟨hj, hx⟩ := Vector.getElem?_eq_some_iff.mp h
  simp [vget, Nat.mod_eq_of_lt hj, hx]

theorem vmod_getElem?_self {α : Type} {n j : Nat} (v : Vector α n) (f : α → α) : (vmod v j f)[j]? = v[j]?.map f := by
  unfold vmod
  split
  · next h => simp [h]
  · next h => simp [h]

section
variable {s : State} {t j : Nat} {T : Team} {k : Slot}

theorem State.putSlot_get (x : Slot) (h : s.teams[t]? = some T) : (s.putSlot t j x).teams[t]? =
    some { T with oplog := vmod T.oplog j (fun _ => if x.over then none else some x) } := by
  rw [State.putSlot, State.modTeam_get_self, h]; rfl

/-- A slot with lanes that have not finished keeps its place. -/
theorem Slot.over_false {x : Slot} (h : x.eff &&& ~~~x.done ≠ 0) : x.over = false := by
  have hm : (Mask.minus x.eff x.done == 0) = false := beq_eq_false_iff_ne.mpr h
  rw [Slot.over, hm, Bool.false_and]

/-- An L trap of a RUNNING team waits for its S-stream's next boundary (03/R54). -/
theorem State.raiseL_running (p : LTrap) (h : (s.team t).phase = .running) :
    s.raiseL t p = s.modTeam t (fun T => { T with pendL := some p }) := by
  unfold State.raiseL
  rw [h]
  rfl

/-- A slot as its trap leaves it: it keeps its lanes that have not finished, and their operands (03/R79). -/
def Slot.trapped (k : Slot) : Slot := { k with traps := [], hold := none, faulted := k.todo }

/-- The trap of a slot: the lowest cause, by name of the slot, for its lanes that have not finished. -/
def Slot.trap (k : Slot) (j : Nat) (bad : Bads) : LTrap :=
  { cause := (lowestBad bad).1, taddr := (lowestBad bad).2, tlpc := k.lpc, lanes := Mask.minus k.eff k.done,
    slot := some (BitVec.ofNat 3 j), redoFrom := none, sseq := none, visitor := none }

theorem State.trapSlot_running (h : s.teams[t]? = some T) (hp : T.phase = .running) (bad : Bads) :
    s.trapSlot t j k bad = (s.putSlot t j k.trapped).modTeam t (fun U => { U with pendL := some (k.trap j bad) }) := by
  refine State.raiseL_running (k.trap j bad) ?_
  exact (congrArg Team.phase (State.team_of (State.putSlot_get k.trapped h))).trans hp

/-- The slot of a replay, and that it is one whose step is due (03/R81). -/
structure SlotDue (s : State) (t j : Nat) (T : Team) (k : Slot) : Prop where
  team : s.teams[t]? = some T
  lt : j < 4
  slot : T.oplog[j]? = some (some k)
  core : s.onCore t = true
  due : T.trapDue = false
  landed : k.flying = 0

/-- The faults for which a slot traps: those of its lanes, or that of a hold answered with FAIL (15/R395). -/
def Slot.faults (k : Slot) (bad : Bads) : Prop :=
  k.traps = bad ∨ (k.traps = [] ∧ ∃ h, k.hold = some h ∧ h.res = some .fail ∧ bad = [(0, h.cause, h.addr)])

theorem exec_operandLogReplay_traps (h : SlotDue s t j T k) {bad : Bads} (hb : bad ≠ []) (hf : k.faults bad) :
    exec (.operandLogReplay t j) s = .next (s.trapSlot t j k bad) := by
  show execOperandLogReplay t j s = _
  unfold execOperandLogReplay
  rcases hf with hf | ⟨hf, x, hx, hr, rfl⟩
  · simp [State.team_of h.team, h.lt, vget_eq h.slot, h.core, h.due, h.landed, hf, hb]
  · simp [State.team_of h.team, h.lt, vget_eq h.slot, h.core, h.due, h.landed, hf, hx, hr]

theorem operandLogReplay_traps (h : SlotDue s t j T k) {bad : Bads} (hb : bad ≠ []) (hp : T.phase = .running)
    (hf : k.faults bad) :
    ∃ s' U p, exec (.operandLogReplay t j) s = .next s' ∧ s'.teams[t]? = some U ∧ U.pendL = some p ∧
      (∃ x ∈ bad, x.2.1 = p.cause ∧ x.2.2 = p.taddr ∧ ∀ y ∈ bad, causeCode p.cause ≤ causeCode y.2.1 ∧ (y.2.1 = p.cause → x.1 ≤ y.1)) ∧
      p.tlpc = k.lpc ∧ p.lanes = k.eff &&& ~~~ k.done ∧ U.regs = T.regs ∧ s.sameMemory s' ∧
      p.slot = some (BitVec.ofNat 3 j) ∧ p.redoFrom = none ∧
      (k.eff &&& ~~~ k.done ≠ 0 → ∃ x, U.oplog[j]? = some (some x) ∧ x.i = k.i ∧ x.ops = k.ops ∧ x.eff = k.eff ∧
        x.done = k.done) := by
  obtain ⟨x, hx, hlow, hleast⟩ := lowestBad_least hb
  rw [exec_operandLogReplay_traps h hb hf, State.trapSlot_running h.team hp]
  refine ⟨_, { T with
      oplog := vmod T.oplog j (fun _ => if k.trapped.over then none else some k.trapped)
      pendL := some (k.trap j bad) }, k.trap j bad, rfl,
    by rw [State.modTeam_get_self, State.putSlot_get k.trapped h.team]; rfl, rfl,
    ⟨x, hx, congrArg Prod.fst hlow.symm, congrArg Prod.snd hlow.symm, fun y hy => ?_⟩, rfl, rfl, rfl,
    State.sameMemory_trans (State.sameMemory_modTeam s t _) (State.sameMemory_modTeam _ t _), rfl, rfl, fun hne => ⟨k.trapped, ?_, rfl, rfl, rfl, rfl⟩⟩
  · have := badLe_cause (hleast y hy)
    rwa [← hlow] at this
  · have ho : k.trapped.over = false := Slot.over_false hne
    simp only [vmod_getElem?_self, h.slot, ho]
    rfl

/-! ### Replays (03/R81) -/

theorem Mask.ofLanes_nil : Mask.ofLanes [] = 0 := rfl

theorem Mask.zero_or (m : Mask) : 0 ||| m = m := BitVec.zero_or

/-- A slot's accesses are not those of a multicast. -/
theorem memOpOf_space {i : Instr} {m : MemOp} (h : memOpOf i = some m) : m.space ≠ .mcast := by
  unfold memOpOf at h
  split at h
  all_goals cases h
  all_goals exact nofun

/-- The global accesses of lanes, whose lanes can leave for another cluster. -/
def movesOut (i : Instr) : Bool :=
  match i with
  | .vld _ | .vst _ | .vatom _ | .eld _ | .eldn _ | .est _ => true
  | _ => false

theorem movesOut_eq {i : Instr} {m : MemOp} (h : memOpOf i = some m) : movesOut i = (m.space == .global) := by
  unfold memOpOf at h
  split at h
  all_goals cases h
  all_goals rfl

/-- A slot whose hold was answered with RETRY, or that nothing holds and of which no lane has faulted. -/
def Slot.answered (k : Slot) : Prop :=
  (k.hold.isSome = true ∧ k.hold.bind (·.res) = some .retry) ∨ (k.hold = none ∧ k.faulted = 0)

theorem exec_operandLogReplay_replays {m : MemOp} (h : SlotDue s t j T k) (ht : k.traps = []) (ha : k.answered)
    (hm : memOpOf k.i = some m) (hv : m.space = .spad ∨ k.migctl.getLsbD 5 = true ∨ T.mayLeave k = true) :
    exec (.operandLogReplay t j) s = .next (s.replay t j k) := by
  have hgo : (!movesOut k.i || k.migctl.getLsbD 5 || T.mayLeave k) = true := by
    rw [movesOut_eq hm]
    rcases hv with hv | hv | hv <;> simp [hv]
  show execOperandLogReplay t j s = _
  unfold execOperandLogReplay
  rcases ha with ⟨hs, hr⟩ | ⟨hn, hf⟩
  · obtain ⟨x, hx⟩ := Option.isSome_iff_exists.mp hs
    rw [hx, Option.bind_some] at hr
    simp only [State.team_of h.team, h.lt, vget_eq h.slot, h.core, h.due, h.landed, ht, hx, hr, if_true, bne_self_eq_false, Bool.not_true,
      Bool.or_false, Bool.false_eq_true, if_false, List.isEmpty_nil, beq_self_eq_true, Bool.true_and]
    exact if_pos hgo
  · simp only [State.team_of h.team, h.lt, vget_eq h.slot, h.core, h.due, h.landed, ht, hn, hf, if_true, bne_self_eq_false, Bool.not_true,
      Bool.or_false, Bool.false_eq_true, if_false, List.isEmpty_nil, beq_self_eq_true, Bool.true_and]
    exact if_pos hgo

theorem replayCtx_who {C : LCtx} (h : replayCtx s t k C) : C.who = .l t ∧ C.t = t := by
  obtain ⟨D, hD, rfl⟩ := h
  cases hD
  exact ⟨rfl, rfl⟩

/-- A slot some of whose lanes have been replayed, all of them let go: they fly, or have finished when nothing comes back. -/
def Slot.replayed (k : Slot) (m : MemOp) (ls : Mask) : Slot :=
  { k with
    done := k.done ||| if m.returns then 0 else ls
    flying := if m.returns then ls else 0
    faulted := 0
    traps := []
    hold := none }

/-- What a replay of a slot issues: its lanes that have neither finished nor are in flight. -/
def Slot.issue (k : Slot) (C : LCtx) (m : MemOp) : Issue :=
  { C := C
    m := m
    migctl := k.migctl
    lpc := k.lpc
    restart := k.chainHead
    ops := k.ops.filter (fun o => k.todo.getLsbD o.lane) }

theorem State.replay_go {m : MemOp} {C : LCtx} {gs : List (LaneOp × List (Nat × Nat × Tlb))} {c : Chk} (hC : replayCtx s t k C)
    (hfly : k.flying = 0) (hm : memOpOf k.i = some m) (hmay : s.lMay C m = true)
    (hl : (Chk.mk s (s.lastPages (.l t)) []).lanes C (s.teamQueue C.t C.die) m k.migctl
      (k.ops.filter (fun o => C.eff.getLsbD o.lane)) = (gs.map (fun g => (g.1, .go g.2)), c))
    (hb : ∀ g ∈ gs, c.s.brokenPart C m (g.1.addr m.i) g.2 = none) :
    s.replay t j k =
      ((gs.foldl (fun s e => s.enterLane C m j e.1 e.2) (c.s.setLastPages (.l t) c.last)).acquireL C m s.nextId).putSlot t j
        (k.replayed m (Mask.ofLanes (gs.map (·.1.lane)))) := by
  obtain ⟨hwho, -⟩ := replayCtx_who hC
  obtain ⟨D, hD, hE⟩ := hC
  have htodo : k.todo = k.eff &&& ~~~k.done := by
    simp only [Slot.todo, hfly, Mask.minus, BitVec.ofNat_eq_ofNat, BitVec.not_zero, BitVec.and_allOnes]
  have hctx : { D with eff := k.todo } = C := by rw [htodo, hE]
  have heff : C.eff = k.todo := by rw [hE, htodo]
  rw [← hwho, heff] at hl
  have hrun := Issue.run_go (slot := j) (x := k.issue C m) hl hmay hb
  rw [Slot.issue] at hrun
  unfold State.replay
  simp only [hD, hctx, hm, hrun, hwho]
  congr 1
  simp only [Slot.issued, Slot.replayed, hfly, lanesOf, List.map_nil, Mask.ofLanes_nil, ite_self, List.append_nil,
    List.isEmpty_nil, Bool.not_true, Bool.and_false, Bool.false_eq_true, if_false, Mask.or_zero, Mask.zero_or]

/-! ### What a replay leaves of the machine -/

theorem State.setLastPages_get {s : State} (l : List (Nat × Tlb)) (h : s.teams[t]? = some T) :
    (s.setLastPages (.l t) l).teams[t]? = some { T with lastPage := l } := by
  rw [State.setLastPages, State.modTeam_get_self, h]; rfl

/-- Noting the pages of an issue moves no lane entry to another place. -/
theorem State.placesAs_setLastPages {s : State} (l : List (Nat × Tlb)) (h : s.teams[t]? = some T) :
    s.placesAs t (s.setLastPages (.l t) l) := by
  refine ⟨rfl, ?_⟩
  rw [State.team_of (State.setLastPages_get l h), State.team_of h]

/-- An acquire leaves its order on the team of the lanes, and nothing else. -/
theorem State.acquireL_get {s : State} {C : LCtx} (m : MemOp) (n : Nat) (hwho : C.who = .l t) (h : s.teams[t]? = some T) :
    ∃ o, (s.acquireL C m n).teams[t]? = some { T with lOrd := o } := by
  unfold State.acquireL State.addLOrd
  split
  · rw [hwho]
    exact ⟨_, by rw [State.modTeam_get_self, h]; rfl⟩
  · exact ⟨T.lOrd, h⟩

theorem State.acquireL_fwd {s : State} {C : LCtx} (m : MemOp) (n : Nat) (hwho : C.who = .l t) :
    (s.acquireL C m n).fwd = s.fwd := by
  unfold State.acquireL State.addLOrd
  rw [hwho]
  split <;> rfl

theorem State.sameMemory_acquireL {s : State} {C : LCtx} (m : MemOp) (n : Nat) (hwho : C.who = .l t) :
    s.sameMemory (s.acquireL C m n) := by
  unfold State.acquireL State.addLOrd
  rw [hwho]
  split
  · exact State.sameMemory_modTeam s t _
  · exact State.sameMemory_refl s

theorem State.sameMemory_of_caches {s s' : State} (h : s.sameButCaches s') : s.sameMemory s' := by
  rw [State.sameButCaches] at h
  exact State.sameMemory_of (by rw [h]) (by rw [h]) (by rw [h])

theorem State.fwd_of_caches {s s' : State} (h : s.sameButCaches s') : s'.fwd = s.fwd := by
  rw [State.sameButCaches] at h
  rw [h]

/-- The slot of a replay whose values come back waits for the lanes that were replayed. -/
theorem Slot.replayed_waits {m : MemOp} (ls : Mask) (hm : m.returns = true) (hne : k.eff &&& ~~~k.done ≠ 0) :
    (k.replayed m ls).over = false ∧ (k.replayed m ls).hold = none ∧ (k.replayed m ls).done = k.done ∧
      (k.replayed m ls).flying = ls := by
  have hd : (k.replayed m ls).done = k.done := by
    simp only [Slot.replayed, hm, if_true, Mask.or_zero]
  refine ⟨Slot.over_false ?_, rfl, hd, if_pos hm⟩
  rw [hd]
  exact hne

theorem operandLogReplay_replays {m : MemOp} {C : LCtx} {ws : List (LaneOp × Want)} {c : Chk} (h : SlotDue s t j T k)
    (ht : k.traps = []) (ha : k.answered) (hm : memOpOf k.i = some m)
    (hv : m.space = .spad ∨ k.migctl.getLsbD 5 = true ∨ T.mayLeave k = true) (hC : replayCtx s t k C) (hmay : s.lMay C m = true)
    (hl : (Chk.mk s (s.lastPages (.l t)) []).lanes C (s.teamQueue C.t C.die) m k.migctl
      (k.ops.filter (fun o => C.eff.getLsbD o.lane)) = (ws, c))
    (hw : ∀ w ∈ ws, ∃ ps, w.2 = .go ps ∧ c.s.brokenPart C m (w.1.addr m.i) ps = none ∧ ∀ p ∈ ps, p.2.2.replica = false) :
    ∃ s' U es, exec (.operandLogReplay t j) s = .next s' ∧ s'.teams[t]? = some U ∧ s'.fwd = s.fwd ++ es ∧
      (∀ w ∈ ws, ∀ ps, w.2 = .go ps → ∀ p ∈ ps, ∃ e ∈ es, laneEntry c.s C m j w.1 p e) ∧
      (∀ e ∈ es, ∃ w ∈ ws, ∃ ps, w.2 = .go ps ∧ ∃ p ∈ ps, laneEntry c.s C m j w.1 p e) ∧ U.regs = T.regs ∧ U.blk = T.blk ∧
      (m.returns = true → k.eff &&& ~~~ k.done ≠ 0 → ∃ x, U.oplog[j]? = some (some x) ∧ x.hold = none ∧ x.done = k.done ∧
        ∀ l < 1024, x.flying.getLsbD l = ws.any (fun w => w.1.lane == l)) ∧ s.sameMemory s' := by
  have hgo : ∀ w ∈ ws, ∃ ps, w.2 = .go ps := fun w hm => (hw w hm).imp fun _ hp => hp.1
  have hc : s.sameButCaches c.s := Chk.lanes_go hl hgo
  obtain ⟨gs, rfl⟩ := exists_goes hgo
  have hg (g) (hmem : g ∈ gs) : c.s.brokenPart C m (g.1.addr m.i) g.2 = none ∧ ∀ p ∈ g.2, p.2.2.replica = false := by
    obtain ⟨ps, hps, hb, hr⟩ := hw _ (List.mem_map_of_mem hmem)
    cases hps
    exact ⟨hb, hr⟩
  obtain ⟨hwho, hCt⟩ := replayCtx_who hC
  have hteam : c.s.teams[t]? = some T := (congrArg (·[t]?) (State.sameWork.of_caches hc).1).trans h.team
  have hplaces := State.placesAs_setLastPages c.last hteam
  obtain ⟨es, he, hall, honly⟩ := State.enters_enterLanes (C := C) j (memOpOf_space hm) (by rw [hwho, hCt]) (fun g hmem => (hg g hmem).2)
    (by rw [hCt]; exact hplaces)
  obtain ⟨o, ho⟩ := State.acquireL_get m s.nextId hwho
    ((congrArg (·[t]?) he.teams).trans (State.setLastPages_get c.last hteam))
  rw [exec_operandLogReplay_replays h ht ha hm hv, State.replay_go hC h.landed hm hmay hl fun g hmem => (hg g hmem).1]
  refine ⟨_, _, es, rfl, State.putSlot_get _ ho, ?_, ?_, ?_, rfl, rfl, ?_, ?_⟩
  · have hlast : (c.s.setLastPages (.l t) c.last).fwd = s.fwd := (State.fwd_of_caches hc :)
    exact (State.acquireL_fwd m s.nextId hwho).trans (he.fwd.trans (by rw [hlast]))
  · intro w hmem ps hps p hp
    obtain ⟨g, hgm, rfl⟩ := List.mem_map.mp hmem
    cases hps
    exact hall g hgm p hp
  · intro e hmem
    obtain ⟨g, hgm, hp⟩ := honly e hmem
    exact ⟨_, List.mem_map_of_mem hgm, g.2, rfl, hp⟩
  · intro hret hne
    obtain ⟨hover, hhold, hdone, hfly⟩ := Slot.replayed_waits (Mask.ofLanes (gs.map (·.1.lane))) hret hne
    refine ⟨k.replayed m (Mask.ofLanes (gs.map (·.1.lane))), ?_, hhold, hdone, fun l hl => ?_⟩
    · simp only [vmod_getElem?_self, h.slot, hover]
      rfl
    · rw [hfly, Mask.ofLanes_getLsbD _ hl, List.any_map, List.any_map]
      rfl
  · have hlast := State.sameMemory_trans (State.sameMemory_of_caches hc)
      (State.sameMemory_modTeam c.s t (fun T => { T with lastPage := c.last }))
    have henter := State.sameMemory_trans hlast he.sameMemory
    exact State.sameMemory_trans (State.sameMemory_trans henter (State.sameMemory_acquireL m s.nextId hwho))
      (State.sameMemory_modTeam _ t _)

end

theorem operandLogReplays : Claims.OperandLogReplays := by
  intro s t j T k hT hj hk hcore hdue hfly
  have h : SlotDue s t j T k := ⟨hT, hj, hk, hcore, hdue, hfly⟩
  exact ⟨fun m C ws c ht ha hm hv hC hmay hl hw => operandLogReplay_replays h ht ha hm hv hC hmay hl hw,
    fun bad hb hp hf => operandLogReplay_traps h hb hp hf⟩

/-- Settles O37: a block starts with what its queue entry says; a slot is replayed lane by lane through the same checks as at
issue, or traps for the least of its faults. -/
theorem blocksAndReplays : Obligations.BlocksAndReplays := ⟨blockStarts, operandLogReplays⟩

end Sys2Proof.Machine
end
